-- ==== Sys2Proof/Word.lean ====
section
/-! DEFINITION. Word types of the Kamluid K2: registers, parcels, handles and register numbers. -/

namespace Sys2Proof

/-- A 64-bit scalar (01 R13). -/
abbrev Word := BitVec 64
/-- One byte of memory. -/
abbrev Byte := BitVec 8
/-- One 16-bit parcel of code (03 R78). -/
abbrev Parcel := BitVec 16
/-- A 256-bit handle (01 R15). -/
abbrev Handle := BitVec 256
/-- An X, H or staging register number: six encoded bits (03 R90). -/
abbrev XReg := BitVec 6
/-- An H register number. -/
abbrev HReg := BitVec 6
/-- A Q register number (01 R14). -/
abbrev QReg := BitVec 4
/-- An ordering class, 0 to 15 (10 R301). -/
abbrev Cls := BitVec 4
/-- A parcel index, 47 bits (03 R78). -/
abbrev ParcelIx := BitVec 47

end Sys2Proof
end

