-- ==== Sys2Proof/Machine/Bits.lean ====
section
/-! DEFINITION. Bit fields, sign extension and byte order. -/

namespace Sys2Proof

/-- The field of `n` bits of `x` whose lowest bit is `lo`. -/
def fld {w : Nat} (x : BitVec w) (lo n : Nat) : BitVec n := x.extractLsb' lo n

/-- The field of `n` bits from bit `lo`, as a number. -/
def fldN {w : Nat} (x : BitVec w) (lo n : Nat) : Nat := (x.toNat >>> lo) % 2 ^ n

/-- One bit of `x`. -/
def bitAt {w : Nat} (x : BitVec w) (i : Nat) : Bool := x.getLsbD i

/-- `x` with the field of `n` bits from bit `lo` replaced by `v`. -/
def setFld {w n : Nat} (x : BitVec w) (lo : Nat) (v : BitVec n) : BitVec w :=
  (x &&& ~~~((BitVec.allOnes n).setWidth w <<< lo)) ||| (v.setWidth w <<< lo)

/-- Sign extension to 64 bits. -/
def sext64 {w : Nat} (x : BitVec w) : Word := x.signExtend 64

/-- The signed value of the low `w` bits of `n`. -/
def sgn (w n : Nat) : Int :=
  let v := n % 2 ^ w
  if v < 2 ^ (w - 1) then (v : Int) else (v : Int) - (2 ^ w : Nat)

/-- The integer `i` wrapped to `w` bits (02 R48). -/
def wrapN (w : Nat) (i : Int) : Nat := (i % ((2 ^ w : Nat) : Int)).toNat

/-- `n` bytes of `v`, least significant first. -/
def leBytes : Nat → Nat → List Byte
  | 0, _ => []
  | n + 1, v => BitVec.ofNat 8 v :: leBytes n (v / 256)

/-- The number that bytes hold, least significant first. -/
def leNat : List Byte → Nat
  | [] => 0
  | b :: t => b.toNat + 256 * leNat t

/-- A number of `n` bytes at offset `o`. -/
def cut (b : List Byte) (o n : Nat) : Nat := leNat ((b.drop o).take n)

/-- The bytes of a 16-bit parcel list, as stored (03 R78). -/
def parcelBytes : List Parcel → List Byte
  | [] => []
  | p :: t => fld p 0 8 :: fld p 8 8 :: parcelBytes t

/-- Parcels highest bits first, joined into one number (03 R82). -/
def parcelsNat : List Parcel → Nat
  | ps => ps.foldl (fun acc p => acc * 65536 + p.toNat) 0

/-- `n` parcels of the number `v`, highest bits first (03 R82). -/
def natParcels : Nat → Nat → List Parcel
  | 0, _ => []
  | n + 1, v => BitVec.ofNat 16 (v / 65536 ^ n) :: natParcels n v

/-- The number of set bits of `n` among its low `k` bits. -/
def popcount : Nat → Nat → Nat
  | 0, _ => 0
  | k + 1, n => n % 2 + popcount k (n / 2)

/-- The set bits of `n` among its low `k` bits, ascending. -/
def bitList (k n : Nat) : List Nat := (List.range k).filter (fun i => n.testBit i)

/-- Leading zero bits of a 64-bit word, 0 to 64 (05 R141). -/
def clz64 (x : Word) : Nat := if x = 0 then 64 else 63 - Nat.log2 x.toNat

/-- One per position: `f 0, f 1, … f (n-1)`. -/
def tab {α : Type} (n : Nat) (f : Nat → α) : List α := (List.range n).map f

/-- The number formed by `n` items of `w` bits, item 0 lowest. -/
def packN (w : Nat) : List Nat → Nat
  | [] => 0
  | x :: t => x % 2 ^ w + 2 ^ w * packN w t

/-- Item `i` of the `w`-bit items of `v`. -/
def itemN (w v i : Nat) : Nat := (v >>> (w * i)) % 2 ^ w

/-- The smallest element of a list of numbers that is at least `lo`, or `d`. -/
def minAtLeast (lo d : Nat) (l : List Nat) : Nat :=
  l.foldl (fun acc x => if lo ≤ x ∧ x < acc then x else acc) d

/-- Division rounded up. -/
def ceilDiv (a b : Nat) : Nat := (a + (b - 1)) / b

end Sys2Proof
end

