-- ==== Sys2Proof/Machine/Formats.lean ====
section
/-! DEFINITION. The fourteen element formats (02 R47), the exception flags (01 R28, 02 R55), and integer, ternary and
mask elements (02 R48 to R50). -/

namespace Sys2Proof

/-- An element format (02 Table 1). -/
inductive Fmt where
  | int8 | uint8 | int16 | int32 | int64 | tern2 | mask1
  | e4m3 | e5m2 | bf16 | fp16 | fp32 | fp64 | dec64
  deriving DecidableEq, Repr

/-- The format of a 5-bit code; reserved codes have none (02 R47). -/
def Fmt.ofCode (c : Nat) : Option Fmt :=
  match c with
  | 0 => some .int8 | 1 => some .uint8 | 2 => some .int16 | 3 => some .int32 | 4 => some .int64
  | 5 => some .tern2 | 6 => some .mask1 | 8 => some .e4m3 | 9 => some .e5m2 | 10 => some .bf16
  | 11 => some .fp16 | 12 => some .fp32 | 13 => some .fp64 | 14 => some .dec64
  | _ => none

/-- The 5-bit code of a format (02 Table 1). -/
def Fmt.code : Fmt → Nat
  | .int8 => 0 | .uint8 => 1 | .int16 => 2 | .int32 => 3 | .int64 => 4 | .tern2 => 5 | .mask1 => 6
  | .e4m3 => 8 | .e5m2 => 9 | .bf16 => 10 | .fp16 => 11 | .fp32 => 12 | .fp64 => 13 | .dec64 => 14

/-- Width in bits (02 Table 1). -/
def Fmt.width : Fmt → Nat
  | .int8 | .uint8 | .e4m3 | .e5m2 => 8
  | .int16 | .bf16 | .fp16 => 16
  | .int32 | .fp32 => 32
  | .int64 | .fp64 | .dec64 => 64
  | .tern2 => 2
  | .mask1 => 1

/-- The format code, reserved codes read as INT8 (used only where the code was checked). -/
def fmtOf (c : Nat) : Fmt := (Fmt.ofCode c).getD .int8

/-- The integer formats (02 R47). -/
def Fmt.isInt : Fmt → Bool
  | .int8 | .uint8 | .int16 | .int32 | .int64 => true
  | _ => false

/-- The signed integer formats. -/
def Fmt.isSInt (f : Fmt) : Bool := f.isInt && f != .uint8

/-- The binary formats (02 R47). -/
def Fmt.isBin : Fmt → Bool
  | .e4m3 | .e5m2 | .bf16 | .fp16 | .fp32 | .fp64 => true
  | _ => false

/-- The FP8 formats. -/
def Fmt.isFp8 (f : Fmt) : Bool := f == .e4m3 || f == .e5m2

/-- BF16, FP16, FP32, FP64: class F of 07 R219. -/
def Fmt.isF (f : Fmt) : Bool := f.isBin && !f.isFp8

/-- BF16, FP16, FP32: class F3 of 07 R219. -/
def Fmt.isF3 (f : Fmt) : Bool := f.isF && f != .fp64

/-- A tile of this format takes this many granules (01 R32). -/
def Fmt.extent (f : Fmt) : Nat := f.width

/-- Exception and status flags: bits 6:0 in FPSTAT's order (NV DZ OF UF NX ISAT TERNBAD), bit 7 marks a result that
is tiny and exact, which signals underflow only where that trap is enabled (02 R55). -/
abbrev Flags := BitVec 8

/-- Invalid. -/
def fNV : Flags := 1
/-- Division by zero. -/
def fDZ : Flags := 2
/-- Overflow. -/
def fOF : Flags := 4
/-- Underflow. -/
def fUF : Flags := 8
/-- Inexact. -/
def fNX : Flags := 16
/-- Integer saturation. -/
def fISAT : Flags := 32
/-- TERN2 pattern 0b10 read. -/
def fTERN : Flags := 64
/-- Tiny and exact (internal to the trap test of 02 R55). -/
def fTINY : Flags := 128

/-- A computed element: its bits and its flags. -/
abbrev Res := Nat × Flags

/-- Rounding directions (02 R54). -/
inductive Rnd where
  | rne | rz | rp | rm | rna
  deriving DecidableEq, Repr

/-- The direction of an RM or DRM field (01 R29). -/
def Rnd.ofMode (n : Nat) : Rnd :=
  match n with
  | 0 => .rne | 1 => .rz | 2 => .rp | 3 => .rm | _ => .rna

/-- The direction of an rnd field 1 to 5, or of the mode when it is 0 (02 Table 3). -/
def Rnd.ofField (rnd mode : Nat) : Rnd := if rnd = 0 then Rnd.ofMode mode else Rnd.ofMode (rnd - 1)

/-- Does a magnitude with kept part `q`, remainder `r` of `2 * half` (or `half` odd units) round up? The remainder is
compared with half a unit as `2*r` against `unit`. -/
def Rnd.up (m : Rnd) (neg : Bool) (q r unit : Nat) : Bool :=
  match m with
  | .rne => decide (unit < 2 * r) || (decide (2 * r = unit) && decide (q % 2 = 1))
  | .rna => decide (unit ≤ 2 * r)
  | .rz => false
  | .rp => decide (r ≠ 0) && !neg
  | .rm => decide (r ≠ 0) && neg

/-- The value of an integer, ternary or mask element (02 R48 to R50). -/
def Fmt.intVal (f : Fmt) (b : Nat) : Int :=
  match f with
  | .uint8 => ((b % 256 : Nat) : Int)
  | .tern2 => if b % 4 = 1 then 1 else if b % 4 = 3 then -1 else 0
  | .mask1 => ((b % 2 : Nat) : Int)
  | _ => sgn f.width b

/-- The flag of reading an element: TERN2's 0b10 (02 R49). -/
def Fmt.readFlag (f : Fmt) (b : Nat) : Flags := if f = .tern2 ∧ b % 4 = 2 then fTERN else 0

/-- Least value of an integer format. -/
def Fmt.intMin (f : Fmt) : Int := if f = .uint8 then 0 else -((2 ^ (f.width - 1) : Nat) : Int)

/-- Greatest value of an integer format. -/
def Fmt.intMax (f : Fmt) : Int := if f = .uint8 then 255 else ((2 ^ (f.width - 1) : Nat) : Int) - 1

/-- An exact integer written into an integer format: wrapped, or clamped with ISAT under `sat` (02 R48). -/
def Fmt.putInt (f : Fmt) (sat : Bool) (i : Int) : Res :=
  if sat then
    if f.intMax < i then (wrapN f.width f.intMax, fISAT)
    else if i < f.intMin then (wrapN f.width f.intMin, fISAT)
    else (wrapN f.width i, 0)
  else (wrapN f.width i, 0)

/-- An exact integer written into TERN2: clamped to -1, 0, +1 with ISAT (02 R49). -/
def putTern (i : Int) : Res :=
  if 1 < i then (1, fISAT) else if i < -1 then (3, fISAT)
  else if i = 1 then (1, 0) else if i = -1 then (3, 0) else (0, 0)

/-- Integer shifts of an element by the unsigned count `k` (07 R220). -/
def shiftElem (f : Fmt) (kind : Nat) (a k : Nat) : Nat :=
  let w := f.width
  match kind with
  | 0 => if w ≤ k then 0 else (a <<< k) % 2 ^ w
  | 1 => if w ≤ k then 0 else (a % 2 ^ w) >>> k
  | _ => wrapN w ((sgn w a) / ((2 ^ (min k w) : Nat) : Int))

end Sys2Proof
end

