-- ==== Sys2Proof/Machine/Binary.lean ====
section
/-! DEFINITION. Binary floating-point arithmetic (02 R51 to R60): exact values, one rounding, flags. -/

namespace Sys2Proof

/-- The exact value an element encodes: a NaN (signalling or not), an infinity, or (-1)^s times m times 2^e. -/
inductive BinVal where
  | nan (sig : Bool)
  | inf (s : Bool)
  | fin (s : Bool) (m : Nat) (e : Int)
  deriving DecidableEq, Repr

/-- Fraction bits (02 Table 2). -/
def Fmt.mb : Fmt → Nat
  | .e4m3 => 3 | .e5m2 => 2 | .bf16 => 7 | .fp16 => 10 | .fp32 => 23 | .fp64 => 52 | _ => 0
/-- Exponent bits. -/
def Fmt.eb : Fmt → Nat
  | .e4m3 => 4 | .e5m2 => 5 | .bf16 => 8 | .fp16 => 5 | .fp32 => 8 | .fp64 => 11 | _ => 0
/-- Exponent bias. -/
def Fmt.bias (f : Fmt) : Nat := 2 ^ (f.eb - 1) - 1
/-- The bits of the largest finite value. -/
def Fmt.maxFin (f : Fmt) : Nat :=
  if f = .e4m3 then 0x7E else (2 ^ f.eb - 2) * 2 ^ f.mb + (2 ^ f.mb - 1)
/-- The bits of plus infinity; E4M3 has none and reads as its NaN. -/
def Fmt.infBits (f : Fmt) : Nat := if f = .e4m3 then 0x7F else (2 ^ f.eb - 1) * 2 ^ f.mb
/-- The default NaN (02 Table 2). -/
def Fmt.nanBits (f : Fmt) : Nat :=
  if f = .e4m3 then 0x7F else (2 ^ f.eb - 1) * 2 ^ f.mb + 2 ^ (f.mb - 1)
/-- The sign bit of a format, set when `s`. -/
def Fmt.signBits (f : Fmt) (s : Bool) : Nat := if s then 2 ^ (f.width - 1) else 0
/-- The exponent of the smallest normal number. -/
def Fmt.emin (f : Fmt) : Int := 1 - (f.bias : Int)

/-- The exact value of the bits of a binary element (02 R51). -/
def Fmt.decode (f : Fmt) (b : Nat) : BinVal :=
  let s := b.testBit (f.width - 1)
  let E := (b >>> f.mb) % 2 ^ f.eb
  let F := b % 2 ^ f.mb
  if f = .e4m3 ∧ b % 128 = 127 then .nan false
  else if E = 2 ^ f.eb - 1 ∧ f ≠ .e4m3 then
    if F = 0 then .inf s else .nan (!F.testBit (f.mb - 1))
  else if E = 0 then .fin s F (f.emin - f.mb)
  else .fin s (2 ^ f.mb + F) ((E : Int) - f.bias - f.mb)

/-- The result of an overflow (02 Table 4). -/
def Fmt.overflow (f : Fmt) (r : Rnd) (s : Bool) : Nat :=
  let toMax := match r with
    | .rz => true
    | .rp => s
    | .rm => !s
    | _ => false
  f.signBits s + (if toMax then f.maxFin else f.infBits)

/-- Shift a magnitude to the quantum exponent `qe`, rounding: the kept part after rounding, and whether it was
inexact. -/
def roundAt (r : Rnd) (s : Bool) (m : Nat) (e qe : Int) : Nat × Bool :=
  if qe ≤ e then (m <<< (e - qe).toNat, false)
  else
    let k := (qe - e).toNat
    let q := m >>> k
    let rem := m % 2 ^ k
    (if r.up s q rem (2 ^ k) then q + 1 else q, decide (rem ≠ 0))

/-- Round the non-zero exact magnitude `m * 2^e` into a format; `none` for the bits on overflow. -/
def Fmt.roundMag (f : Fmt) (r : Rnd) (s : Bool) (m : Nat) (e : Int) : Option Nat × Flags :=
  let E : Int := e + Nat.log2 m
  let qe : Int := max (E - f.mb) (f.emin - f.mb)
  let (q, nx) := roundAt r s m e qe
  let packed : Nat :=
    if q < 2 ^ f.mb then q else ((qe + f.mb + f.bias).toNat) * 2 ^ f.mb + (q - 2 ^ f.mb)
  let qU := (roundAt r s m e (E - f.mb)).1
  let tiny : Bool := decide (E < f.emin) && !(decide (E = f.emin - 1) && decide (qU = 2 ^ (f.mb + 1)))
  if f.maxFin < packed then (none, fOF ||| fNX)
  else (some packed, (if nx then fNX else 0) ||| (if tiny then (if nx then fUF else fTINY) else 0))

/-- Round an exact value into a format under a direction (02 R54 to R56); a zero keeps the sign given. -/
def Fmt.round (f : Fmt) (r : Rnd) (s : Bool) (m : Nat) (e : Int) : Res :=
  if m = 0 then (f.signBits s, 0)
  else match f.roundMag r s m e with
    | (some b, fl) => (f.signBits s + b, fl)
    | (none, fl) => (f.overflow r s, fl)

/-- Round into an FP8 format to nearest-even under the saturation rule (02 R59). -/
def Fmt.roundFp8 (f : Fmt) (sat : Bool) (s : Bool) (m : Nat) (e : Int) : Res :=
  if m = 0 then (f.signBits s, 0)
  else match f.roundMag .rne s m e with
    | (some b, fl) => (f.signBits s + b, fl)
    | (none, fl) =>
      if sat then (f.signBits s + f.maxFin, fl)
      else if f = .e4m3 then (f.nanBits, fl) else (f.signBits s + f.infBits, fl)

/-- The signed mantissa of a sign and magnitude. -/
def signed (s : Bool) (m : Nat) : Int := if s then -(m : Int) else m

/-- Exact sum of two signed dyadic numbers. -/
def addExact (a : Int) (ea : Int) (b : Int) (eb : Int) : Int × Int :=
  let e := min ea eb
  (a * ((2 ^ (ea - e).toNat : Nat) : Int) + b * ((2 ^ (eb - e).toNat : Nat) : Int), e)

/-- Round a signed exact value; an exact zero takes the sign of `s0` when both terms share it, else plus, or minus
under rounding toward minus infinity (02 R57). -/
def Fmt.roundSum (f : Fmt) (r : Rnd) (sa sb : Bool) (v : Int) (e : Int) : Res :=
  if v = 0 then (f.signBits (if sa = sb then sa else r == .rm), 0)
  else f.round r (decide (v < 0)) v.natAbs e

/-- The flag of reading a NaN as an arithmetic operand (02 R53). -/
def BinVal.nv : BinVal → Flags
  | .nan true => fNV
  | _ => 0

/-- Is it a NaN? -/
def BinVal.isNan : BinVal → Bool
  | .nan _ => true
  | _ => false

/-- The sign of a value; a NaN counts as positive. -/
def BinVal.sign : BinVal → Bool
  | .nan _ => false
  | .inf s => s
  | .fin s _ _ => s

/-- The value with its sign inverted. -/
def BinVal.neg : BinVal → BinVal
  | .nan g => .nan g
  | .inf s => .inf (!s)
  | .fin s m e => .fin (!s) m e

/-- Exact product of two values; `none` for zero times infinity. -/
def BinVal.mul : BinVal → BinVal → Option BinVal
  | .nan a, .nan b => some (.nan (a || b))
  | .nan a, _ => some (.nan a)
  | _, .nan b => some (.nan b)
  | .inf s, .inf t => some (.inf (s != t))
  | .inf s, .fin t m _ => if m = 0 then none else some (.inf (s != t))
  | .fin s m _, .inf t => if m = 0 then none else some (.inf (s != t))
  | .fin s m e, .fin t n k => some (.fin (s != t) (m * n) (e + k))

/-- a + b rounded once (02 R53 to R57). -/
def Fmt.addV (f : Fmt) (r : Rnd) (a b : BinVal) : Res :=
  match a, b with
  | .nan _, _ | _, .nan _ => (f.nanBits, a.nv ||| b.nv)
  | .inf s, .inf t => if s = t then (f.signBits s + f.infBits, 0) else (f.nanBits, fNV)
  | .inf s, .fin _ _ _ => (f.signBits s + f.infBits, 0)
  | .fin _ _ _, .inf t => (f.signBits t + f.infBits, 0)
  | .fin s m e, .fin t n k =>
    let (v, x) := addExact (signed s m) e (signed t n) k
    f.roundSum r s t v x

/-- a * b rounded once. -/
def Fmt.mulV (f : Fmt) (r : Rnd) (a b : BinVal) : Res :=
  match a.mul b with
  | none => (f.nanBits, fNV)
  | some (.nan _) => (f.nanBits, a.nv ||| b.nv)
  | some (.inf s) => (f.signBits s + f.infBits, 0)
  | some (.fin s m e) => f.round r s m e

/-- a * b + c rounded once; zero times infinity is invalid whatever the addend (02 R53). -/
def Fmt.fmaV (f : Fmt) (r : Rnd) (a b c : BinVal) : Res :=
  match a.mul b with
  | none => (f.nanBits, fNV)
  | some p =>
    if p.isNan || c.isNan then (f.nanBits, a.nv ||| b.nv ||| c.nv) else f.addV r p c

/-- Addition of two elements. -/
def Fmt.add (f : Fmt) (r : Rnd) (a b : Nat) : Res := f.addV r (f.decode a) (f.decode b)
/-- Subtraction of two elements. -/
def Fmt.sub (f : Fmt) (r : Rnd) (a b : Nat) : Res := f.addV r (f.decode a) (f.decode b).neg
/-- Multiplication of two elements. -/
def Fmt.mul (f : Fmt) (r : Rnd) (a b : Nat) : Res := f.mulV r (f.decode a) (f.decode b)
/-- Fused multiply-add of three elements. -/
def Fmt.fma (f : Fmt) (r : Rnd) (a b c : Nat) : Res := f.fmaV r (f.decode a) (f.decode b) (f.decode c)
/-- Fused multiply-subtract of three elements. -/
def Fmt.fms (f : Fmt) (r : Rnd) (a b c : Nat) : Res := f.fmaV r (f.decode a) (f.decode b) (f.decode c).neg

/-- Ordering of two values that are not NaN: -1, 0 or 1. -/
def BinVal.cmp (a b : BinVal) : Int :=
  let sg (x : Int) : Int := if x < 0 then -1 else if x = 0 then 0 else 1
  match a, b with
  | .nan _, _ | _, .nan _ => 0
  | .inf s, .inf t => if s = t then 0 else if s then -1 else 1
  | .inf s, _ => if s then -1 else 1
  | _, .inf t => if t then 1 else -1
  | .fin s m e, .fin t n k => sg (addExact (signed s m) e (-(signed t n)) k).1

/-- Minimum (`mx = false`) or maximum of two elements, -0 below +0 (02 R53). -/
def Fmt.minmax (f : Fmt) (mx : Bool) (a b : Nat) : Res :=
  let va := f.decode a
  let vb := f.decode b
  if va.isNan || vb.isNan then (f.nanBits, va.nv ||| vb.nv)
  else
    let c := va.cmp vb
    let aLess : Bool := decide (c < 0) || (decide (c = 0) && va.sign && !vb.sign)
    let bLess : Bool := decide (0 < c) || (decide (c = 0) && vb.sign && !va.sign)
    (if mx then (if aLess then b else a) else (if bLess then b else a), 0)

/-- Relation codes of 07 R221: 0 equal, 1 not equal, 2 less, 3 less or equal, 4 greater, 5 greater or equal,
6 unordered. -/
def relOf (k : Nat) (c : Int) (unord : Bool) : Bool :=
  match k with
  | 0 => !unord && decide (c = 0)
  | 1 => unord || decide (c ≠ 0)
  | 2 => !unord && decide (c < 0)
  | 3 => !unord && decide (c ≤ 0)
  | 4 => !unord && decide (0 < c)
  | 5 => !unord && decide (0 ≤ c)
  | _ => unord

/-- Is the relation a quiet predicate? (05 R145, 07 R221) -/
def relQuiet (k : Nat) : Bool := k == 0 || k == 1 || k == 6

/-- Comparison of two elements: the relation and the invalid flag. -/
def Fmt.cmpB (f : Fmt) (k : Nat) (a b : Nat) : Bool × Flags :=
  let va := f.decode a
  let vb := f.decode b
  let u := va.isNan || vb.isNan
  (relOf k (va.cmp vb) u, if relQuiet k then va.nv ||| vb.nv else if u then fNV else 0)

/-- The one-hot class mask of FCLASS (05 Table 5). -/
def Fmt.classMask (f : Fmt) (b : Nat) : Nat :=
  match f.decode b with
  | .nan g => if g then 2 ^ 8 else 2 ^ 9
  | .inf s => if s then 1 else 2 ^ 7
  | .fin s m _ =>
    if m = 0 then (if s then 2 ^ 3 else 2 ^ 4)
    else if m < 2 ^ f.mb then (if s then 2 ^ 2 else 2 ^ 5)
    else (if s then 2 else 2 ^ 6)

/-- Round an exact value to an integer: the integer and whether it changed. -/
def roundInt (r : Rnd) (s : Bool) (m : Nat) (e : Int) : Int × Bool :=
  let (q, nx) := roundAt r s m e 0
  (signed s q, nx)

/-- A binary value written into a binary format: one rounding (02 R58, R59). -/
def Fmt.ofBin (f : Fmt) (r : Rnd) (sat : Bool) (v : BinVal) : Res :=
  match v with
  | .nan g => (f.nanBits, if g then fNV else 0)
  | .inf s =>
    if f.isFp8 then
      if sat then (f.signBits s + f.maxFin, fOF ||| fNX)
      else if f = .e4m3 then (f.nanBits, fNV) else (f.signBits s + f.infBits, 0)
    else (f.signBits s + f.infBits, 0)
  | .fin s m e => if f.isFp8 then f.roundFp8 sat s m e else f.round r s m e

/-- A binary value written into an integer format: rounded, with inexact where that changed the value, then clamped with
invalid (02 R60). -/
def Fmt.intOfBin (f : Fmt) (r : Rnd) (v : BinVal) : Res :=
  match v with
  | .nan _ => (0, fNV)
  | .inf s => (wrapN f.width (if s then f.intMin else f.intMax), fNV)
  | .fin s m e =>
    let (i, nx) := roundInt r s m e
    let fl := if nx then fNX else 0
    if f.intMax < i then (wrapN f.width f.intMax, fNV ||| fl)
    else if i < f.intMin then (wrapN f.width f.intMin, fNV ||| fl)
    else (wrapN f.width i, fl)

/-- A binary value written into TERN2 (02 R49). -/
def ternOfBin (r : Rnd) (v : BinVal) : Res :=
  match v with
  | .nan _ => (0, fNV)
  | .inf s => (if s then 3 else 1, fISAT)
  | .fin s m e =>
    let (i, nx) := roundInt r s m e
    let (b, fl) := putTern i
    (b, fl ||| (if nx then fNX else 0))

/-- An exact integer rounded into a binary format. -/
def Fmt.binOfInt (f : Fmt) (r : Rnd) (sat : Bool) (i : Int) : Res :=
  f.ofBin r sat (.fin (decide (i < 0)) i.natAbs 0)

/-- Does a binary or decimal element hold a NaN or an infinity? (01 R36) -/
def Fmt.isSpecial (f : Fmt) (b : Nat) : Bool :=
  if f.isBin then
    match f.decode b with
    | .fin _ _ _ => false
    | _ => true
  else if f = .dec64 then (b >>> 59) % 16 == 15
  else false

/-- p times 2^k rounded to nearest-even in the format; a zero, an infinity or a NaN passes unchanged (02 R68). -/
def Fmt.scale2 (f : Fmt) (b : Nat) (k : Int) : Res :=
  match f.decode b with
  | .fin s m e => if m = 0 then (b, 0) else f.round .rne s m (e + k)
  | _ => (b, 0)

/-- INT32 p times 2^k, rounded half to even and saturated (02 R68). -/
def scaleInt32 (b : Nat) (k : Int) : Res :=
  let v := sgn 32 b
  Fmt.int32.putInt true (roundInt .rne (decide (v < 0)) v.natAbs k).1

end Sys2Proof
end

