-- ==== Sys2Proof/Machine/Decimal.lean ====
section
/-! DEFINITION. Decimal64 arithmetic (02 R72 to R76): exact values, one rounding, preferred exponents, flags. -/

namespace Sys2Proof

/-- The exact value of a DEC64 element: a NaN, an infinity, or (-1)^s times c times 10^q. -/
inductive DecVal where
  | nan (sig : Bool)
  | inf (s : Bool)
  | fin (s : Bool) (c : Nat) (q : Int)
  deriving DecidableEq, Repr

/-- Decoding (02 Table 7); a non-canonical coefficient reads as zero (02 R73). -/
def decDecode (b : Nat) : DecVal :=
  let s := b.testBit 63
  let c0 := fun (c : Nat) => if 9999999999999999 < c then 0 else c
  if itemN 2 (b >>> 61) 0 ≠ 3 then .fin s (c0 (b % 2 ^ 53)) (((b >>> 53) % 1024 : Nat) - 398)
  else if itemN 2 (b >>> 59) 0 ≠ 3 then .fin s (c0 (2 ^ 53 + b % 2 ^ 51)) (((b >>> 51) % 1024 : Nat) - 398)
  else if b.testBit 58 then .nan (b.testBit 57)
  else .inf s

/-- The sign bit. -/
def decSign (s : Bool) : Nat := if s then 2 ^ 63 else 0
/-- The default NaN (02 R73). -/
def decNan : Nat := 0x7C00000000000000
/-- An infinity. -/
def decInf (s : Bool) : Nat := decSign s + 0x7800000000000000

/-- Canonical encoding of a finite value that fits (02 R73). -/
def decPack (s : Bool) (c : Nat) (q : Int) : Nat :=
  let E := (q + 398).toNat
  decSign s + (if c < 2 ^ 53 then E * 2 ^ 53 + c else 3 * 2 ^ 61 + E * 2 ^ 51 + (c - 2 ^ 53))

/-- The number of decimal digits of `n`, by raising a guess at most `fuel` times. -/
def digitsFrom : Nat → Nat → Nat → Nat
  | 0, d, _ => d
  | f + 1, d, n => if n < 10 ^ d then d else digitsFrom f (d + 1) n

/-- Decimal digits of `n`, 0 for 0. -/
def decDigits (n : Nat) : Nat := if n = 0 then 0 else digitsFrom 4 (Nat.log2 n * 1233 / 4096) n

/-- Remove trailing zeros while the exponent is below the preferred one. -/
def decStrip : Nat → Nat → Int → Int → Nat × Int
  | 0, c, q, _ => (c, q)
  | f + 1, c, q, p => if q < p ∧ c % 10 = 0 then decStrip f (c / 10) (q + 1) p else (c, q)

/-- Pad with zeros while the exponent is above the preferred one and a digit is left. -/
def decPad : Nat → Nat → Int → Int → Nat × Int
  | 0, c, q, _ => (c, q)
  | f + 1, c, q, p => if p < q ∧ c * 10 < 10 ^ 16 then decPad f (c * 10) (q - 1) p else (c, q)

/-- The overflow result (02 Table 4). -/
def decOverflow (r : Rnd) (s : Bool) : Nat :=
  let toMax := match r with
    | .rz => true
    | .rp => s
    | .rm => !s
    | _ => false
  if toMax then decPack s 9999999999999999 369 else decInf s

/-- The exponent nearest `p` that a zero can hold. -/
def clampExp (p : Int) : Int := max (-398) (min 369 p)

/-- Round the exact value (-1)^s c 10^q, with preferred exponent `p` (02 R74, R75). -/
def decRound (r : Rnd) (s : Bool) (c : Nat) (q p : Int) : Res :=
  if c = 0 then (decPack s 0 (clampExp p), 0)
  else
    let d := decDigits c
    let k : Nat := max (d - 16) (-398 - q).toNat
    let q0 := c / 10 ^ k
    let rem := c % 10 ^ k
    let c1 := if k ≠ 0 ∧ r.up s q0 rem (10 ^ k) then q0 + 1 else q0
    let (c2, q2) : Nat × Int := if c1 = 10 ^ 16 then (10 ^ 15, q + k + 1) else (c1, q + k)
    let nx : Bool := k ≠ 0 && rem ≠ 0
    let tiny : Bool := decide ((d : Int) + q - 1 < -383)
    let (c3, q3) := if nx then (c2, q2) else
      if q2 < clampExp p then decStrip 800 c2 q2 (clampExp p) else decPad 17 c2 q2 (clampExp p)
    let (c5, q5) := if 369 < q3 then decPad 17 c3 q3 369 else (c3, q3)
    let fl : Flags := (if nx then fNX else 0) ||| (if tiny then (if nx then fUF else fTINY) else 0)
    if 369 < q5 then (decOverflow r s, fOF ||| fNX) else (decPack s c5 q5, fl)

/-- The flag of reading a decimal NaN (02 R73). -/
def DecVal.nv : DecVal → Flags
  | .nan true => fNV
  | _ => 0

/-- Is it a NaN? -/
def DecVal.isNan : DecVal → Bool
  | .nan _ => true
  | _ => false

/-- Sign inverted. -/
def DecVal.neg : DecVal → DecVal
  | .nan g => .nan g
  | .inf s => .inf (!s)
  | .fin s c q => .fin (!s) c q

/-- Exact sum of two signed decimals. -/
def decAddExact (a : Int) (ea : Int) (b : Int) (eb : Int) : Int × Int :=
  let e := min ea eb
  (a * ((10 ^ (ea - e).toNat : Nat) : Int) + b * ((10 ^ (eb - e).toNat : Nat) : Int), e)

/-- Addition of two values; preferred exponent the smaller (02 Table 8). -/
def decAddV (r : Rnd) (a b : DecVal) : Res :=
  match a, b with
  | .nan _, _ | _, .nan _ => (decNan, a.nv ||| b.nv)
  | .inf s, .inf t => if s = t then (decInf s, 0) else (decNan, fNV)
  | .inf s, _ => (decInf s, 0)
  | _, .inf t => (decInf t, 0)
  | .fin s c q, .fin t d k =>
    let (v, e) := decAddExact (signed s c) q (signed t d) k
    if v = 0 then (decPack (if s = t then s else r == .rm) 0 (clampExp e), 0)
    else decRound r (decide (v < 0)) v.natAbs e e

/-- Exact product; `none` for zero times infinity. -/
def DecVal.mul : DecVal → DecVal → Option DecVal
  | .nan a, .nan b => some (.nan (a || b))
  | .nan a, _ => some (.nan a)
  | _, .nan b => some (.nan b)
  | .inf s, .inf t => some (.inf (s != t))
  | .inf s, .fin t m _ => if m = 0 then none else some (.inf (s != t))
  | .fin s m _, .inf t => if m = 0 then none else some (.inf (s != t))
  | .fin s m e, .fin t n k => some (.fin (s != t) (m * n) (e + k))

/-- DADD. -/
def decAdd (r : Rnd) (a b : Nat) : Res := decAddV r (decDecode a) (decDecode b)
/-- DSUB. -/
def decSub (r : Rnd) (a b : Nat) : Res := decAddV r (decDecode a) (decDecode b).neg
/-- DMUL. -/
def decMul (r : Rnd) (a b : Nat) : Res :=
  match (decDecode a).mul (decDecode b) with
  | none => (decNan, fNV)
  | some (.nan _) => (decNan, (decDecode a).nv ||| (decDecode b).nv)
  | some (.inf s) => (decInf s, 0)
  | some (.fin s c q) => decRound r s c q q
/-- DFMA: zero times infinity is invalid whatever the addend (02 R53). -/
def decFma (r : Rnd) (a b c : Nat) : Res :=
  let va := decDecode a
  let vb := decDecode b
  let vc := decDecode c
  match va.mul vb with
  | none => (decNan, fNV)
  | some p => if p.isNan || vc.isNan then (decNan, va.nv ||| vb.nv ||| vc.nv) else decAddV r p vc

/-- DQUANT: `a` at the quantum of `b` (02 Table 8, R76). -/
def decQuant (r : Rnd) (a b : Nat) : Res :=
  let va := decDecode a
  let vb := decDecode b
  match va, vb with
  | .nan _, _ | _, .nan _ => (decNan, va.nv ||| vb.nv)
  | .inf s, .inf _ => (decInf s, 0)
  | .inf _, _ | _, .inf _ => (decNan, fNV)
  | .fin s c q, .fin _ _ k =>
    if c = 0 then (decPack s 0 k, 0)
    else if k ≤ q then
      if decDigits c + (q - k).toNat ≤ 16 then (decPack s (c * 10 ^ (q - k).toNat) k, 0) else (decNan, fNV)
    else
      let n := (k - q).toNat
      let q0 := c / 10 ^ n
      let rem := c % 10 ^ n
      let c1 := if r.up s q0 rem (10 ^ n) then q0 + 1 else q0
      if 10 ^ 16 ≤ c1 then (decNan, fNV) else (decPack s c1 k, if rem ≠ 0 then fNX else 0)

/-- A decimal rounded to an integer: the integer and whether it changed. -/
def decToInt (r : Rnd) (s : Bool) (c : Nat) (q : Int) : Int × Bool :=
  if 0 ≤ q then (signed s (c * 10 ^ q.toNat), false)
  else
    let n := (-q).toNat
    let q0 := c / 10 ^ n
    let rem := c % 10 ^ n
    (signed s (if r.up s q0 rem (10 ^ n) then q0 + 1 else q0), decide (rem ≠ 0))

/-- DRND: an integral value at exponent max(ea, 0) (02 Table 8). -/
def decRnd (r : Rnd) (a : Nat) : Res :=
  match decDecode a with
  | .nan g => (decNan, if g then fNV else 0)
  | .inf s => (decInf s, 0)
  | .fin s c q =>
    if 0 ≤ q then (decPack s c q, 0)
    else
      let (i, nx) := decToInt r s c q
      (decPack s i.natAbs 0, if nx then fNX else 0)

/-- Ordering of two decimals that are not NaN. -/
def DecVal.cmp (a b : DecVal) : Int :=
  let sg (x : Int) : Int := if x < 0 then -1 else if x = 0 then 0 else 1
  match a, b with
  | .nan _, _ | _, .nan _ => 0
  | .inf s, .inf t => if s = t then 0 else if s then -1 else 1
  | .inf s, _ => if s then -1 else 1
  | _, .inf t => if t then 1 else -1
  | .fin s m e, .fin t n k => sg (decAddExact (signed s m) e (-(signed t n)) k).1

/-- DCMP: the relation and the invalid flag (02 R76). -/
def decCmp (k : Nat) (a b : Nat) : Bool × Flags :=
  let va := decDecode a
  let vb := decDecode b
  let u := va.isNan || vb.isNan
  (relOf k (va.cmp vb) u, if relQuiet k then va.nv ||| vb.nv else if u then fNV else 0)

/-- DCVT from INT64 (preferred exponent 0). -/
def decOfInt (r : Rnd) (b : Nat) : Res :=
  let i := sgn 64 b
  decRound r (decide (i < 0)) i.natAbs 0 0

/-- DCVT from FP64: the exact value, at the least exponent that keeps it (02 Table 8). -/
def decOfBin (r : Rnd) (b : Nat) : Res :=
  match Fmt.fp64.decode b with
  | .nan g => (decNan, if g then fNV else 0)
  | .inf s => (decInf s, 0)
  | .fin s m e =>
    if 0 ≤ e then decRound r s (m * 2 ^ e.toNat) 0 (-398)
    else decRound r s (m * 5 ^ (-e).toNat) e (-398)

/-- DCVT to INT64 (02 R60). -/
def decIntOf (r : Rnd) (b : Nat) : Res :=
  match decDecode b with
  | .nan _ => (0, fNV)
  | .inf s => (wrapN 64 (if s then Fmt.int64.intMin else Fmt.int64.intMax), fNV)
  | .fin s c q =>
    let (i, nx) := decToInt r s c q
    let fl := if nx then fNX else 0
    if Fmt.int64.intMax < i then (wrapN 64 Fmt.int64.intMax, fNV ||| fl)
    else if i < Fmt.int64.intMin then (wrapN 64 Fmt.int64.intMin, fNV ||| fl)
    else (wrapN 64 i, fl)

/-- DCVT to FP64: the exact decimal value rounded once, the quotient kept to 72 bits and a sticky bit. -/
def decBinOf (r : Rnd) (b : Nat) : Res :=
  match decDecode b with
  | .nan g => (Fmt.fp64.nanBits, if g then fNV else 0)
  | .inf s => (Fmt.fp64.signBits s + Fmt.fp64.infBits, 0)
  | .fin s c q =>
    if c = 0 then (Fmt.fp64.signBits s, 0)
    else if 0 ≤ q then Fmt.fp64.round r s (c * 10 ^ q.toNat) 0
    else
      let den := 10 ^ (-q).toNat
      let k := 72 + Nat.log2 den
      let num := c * 2 ^ k
      Fmt.fp64.round r s (2 * (num / den) + (if num % den = 0 then 0 else 1)) (-(k : Int) - 1)

end Sys2Proof
end

