-- ==== Sys2Proof/Config.lean ====
section
/-! DEFINITION. What the spec leaves open, as constants without a body: nothing in Lean evaluates them or proves a
value of them. Each is named in notes/assumptions. -/

namespace Sys2Proof.Config

/-- The stream of free values: the step applies it to the counter `State.free` (log 3). -/
opaque free : Nat → Nat

/-- Offset, in representable values of the format, of the fixed functions VRCP (0), VRSQ (1), VEXP (2), VLOG2 (3)
from the correctly rounded result of an input; used only where the bound of 02 R69, R71 admits it (log 2). -/
opaque specOffset : Nat → Nat → Nat → Int

/-- The CRC-64 of a pair's signature (17 R408, log 8). -/
opaque crc64 : List Nat → BitVec 64

/-- A slice, 0 to 383, for each physical 4 KiB block (13 R340, log 9). -/
opaque slice : Nat → Nat

/-- The first frame of die 1 in the model's physical addresses. Mark: DESIGN CHOICE (log 9): the spec does not place the dies
in a package's physical addresses, which no program sees. -/
def die1Frames : Nat := 2 ^ 28

/-- The die that homes a physical 4 KiB block; blocks of host memory, from 2^40 on, home on die 0 (13 R339). -/
def dieOfBlock (block : Nat) : Nat := if 2 ^ 40 ≤ block then 0 else block / 2 ^ 28 % 2

/-- The GDDR7 controller or the well of a physical 64 KiB block within its die (13 R354, log 9). -/
opaque controller : Nat → Nat

/-- Home slice of a physical 128-byte granule, 0 to 767 over both dies, under the property R340 states: the 32 granules
of a 4 KiB block lie on 32 different slices of one die. -/
def homeSlice (granule : Nat) : Nat :=
  384 * dieOfBlock (granule / 32) + (slice (granule / 32) + granule % 32) % 384

/-- The longest release propagation across the standpipe domain, in cycles, as training measured it (20 R436, log 9). -/
opaque propagation : Nat

/-- The first micro-address of routine `r` of the standard library (08 R263, log 20): the spec lists the routines' words
and leaves open where in the library's block of the microprogram store each stands. -/
opaque libraryBase : Nat → Nat

/-- The SHA3-512 measurements in a report of attestation: of the boot ROM (0), of Shogiwald's image (1), of its configuration (2)
(20 R438, log 9). -/
opaque measurement : Nat → Nat

/-- The part serial fused in the package (20 R438, log 9). -/
opaque serial : Nat

end Sys2Proof.Config
end

