-- ==== Sys2Proof/Machine/Special.lean ====
section
/-! DEFINITION. Special functions (02 R67, R69 to R71): VRCP, VRSQ, VEXP, VLOG2 are fixed functions within stated
bounds; the model computes the true result to far more bits than any format keeps, takes the free offset of Config
where the bound admits it, and the correctly rounded value otherwise. VREFINE is exact. -/

namespace Sys2Proof

/-- Integer square root by bits, `fuel` bits. -/
def isqrtGo : Nat → Nat → Nat → Nat
  | 0, _, acc => acc
  | k + 1, n, acc => let t := acc + 2 ^ k; isqrtGo k n (if t * t ≤ n then t else acc)

/-- Integer square root. -/
def isqrt (n : Nat) : Nat := isqrtGo (Nat.log2 n / 2 + 1) n 0

/-- |a 2^ea - b 2^eb| at most t 2^et? -/
def within (a : Nat) (ea : Int) (b : Nat) (eb : Int) (t : Nat) (et : Int) : Bool :=
  let (d, e) := addExact (a : Int) ea (-(b : Int)) eb
  let (x, _) := addExact (d.natAbs : Int) e (-(t : Int)) et
  decide (x ≤ 0)

/-- The magnitude chosen for a fixed function of true result `m 2^e` with tolerance `t 2^et`: the free offset from
the nearest value where it stays finite, non-zero and within tolerance, else the nearest value. -/
def pickSpec (f : Fmt) (off : Int) (m : Nat) (e : Int) (t : Nat) (et : Int) : Nat :=
  let nb := ((f.roundMag .rne false m e).1).getD f.maxFin
  let c := (nb : Int) + off
  if 0 < c ∧ c ≤ f.maxFin then
    match f.decode c.toNat with
    | .fin _ mc ec => if within mc ec m e t et then c.toNat else nb
    | _ => nb
  else nb

/-- Half a unit in the last place of `f` at magnitude exponent `E`, as an exponent of two. -/
def Fmt.halfUlp (f : Fmt) (E : Int) : Int := max (E - f.mb) (f.emin - f.mb) - 1

/-- The tolerance of VRCP and VRSQ (02 R69): 2^-14 of the result, or of the smallest normal where the result is
subnormal; the formats of 16 bits add half a unit of their own grid (mark: DESIGN CHOICE, log 59: without it no value of the format lies
within the bound for every input). -/
def rcpTol (f : Fmt) (m : Nat) (e : Int) : Nat × Int :=
  let E : Int := e + Nat.log2 m
  let (tm, te) : Nat × Int := if E < f.emin then (1, f.emin - 14) else (m, e - 14)
  if f = .fp32 then (tm, te)
  else
    let (s, x) := addExact (tm : Int) te 1 (f.halfUlp E)
    (s.natAbs, x)

/-- VRCP of a magnitude `m 2^e`: the true reciprocal kept to 200 bits. -/
def rcpMag (m : Nat) (e : Int) : Nat × Int :=
  let k := 200 + Nat.log2 m
  (2 * (2 ^ k / m) + (if 2 ^ k % m = 0 then 0 else 1), -(k : Int) - 1 - e)

/-- VRSQ of a magnitude: 1 / sqrt(m 2^e) kept to 200 bits. -/
def rsqMag (m : Nat) (e : Int) : Nat × Int :=
  let (m', e') : Nat × Int := if e % 2 = 0 then (m, e) else (2 * m, e - 1)
  let k := 200 + Nat.log2 m' / 2
  let n := 2 ^ (2 * k)
  let r := isqrt (n / m')
  (2 * r + (if r * r * m' = n then 0 else 1), -(k : Int) - 1 - e' / 2)

/-- Is `m 2^e` below the smallest subnormal of `f`? -/
def Fmt.belowMin (f : Fmt) (m : Nat) (e : Int) : Bool :=
  decide ((addExact (m : Int) e (-1) (f.emin - f.mb)).1 < 0)

/-- Is `m 2^e` beyond the largest finite value of `f`? -/
def Fmt.beyondMax (f : Fmt) (m : Nat) (e : Int) : Bool :=
  match f.decode f.maxFin with
  | .fin _ mm em => decide (0 < (addExact (m : Int) e (-(mm : Int)) em).1)
  | _ => false

/-- VRCP and VRSQ (02 R69, Table 6). -/
def rcpRsq (f : Fmt) (sq : Bool) (b : Nat) : Res :=
  match f.decode b with
  | .nan g => (f.nanBits, if g then fNV else 0)
  | .inf s => if sq && s then (f.nanBits, fNV) else (f.signBits s, 0)
  | .fin s m e =>
    if m = 0 then (f.signBits s + f.infBits, fDZ)
    else if sq && s then (f.nanBits, fNV)
    else
      let (rm, re) := if sq then rsqMag m e else rcpMag m e
      if f.beyondMax rm re then (f.signBits s + f.infBits, fOF ||| fNX)
      else if f.belowMin rm re then (f.signBits s, fUF ||| fNX)
      else
        let (t, et) := rcpTol f rm re
        (f.signBits s + pickSpec f (Config.specOffset (if sq then 1 else 0) f.code b) rm re t et, 0)

/-- ln 2 times 2^256, rounded down. -/
def ln2Fix : Nat := 0xb17217f7d1cf79abc9e3b39803f2f6af40f343267298b62d8a0d175b8baafa2b

/-- sum over i of r^i / i! for `0 ≤ r < 2`, fixed point with 256 fraction bits: term `t` is the i-th. -/
def expSeries : Nat → Nat → Nat → Nat → Nat → Nat
  | 0, _, _, _, acc => acc
  | n + 1, i, r, t, acc => expSeries n (i + 1) r (t * r / 2 ^ 256 / (i + 1)) (acc + t)

/-- e^x for the exact x = (-1)^s m 2^e with |x| below 2^12: magnitude and exponent, 256 fraction bits and a sticky
bit (the result is never exact for x other than 0). -/
def expMag (s : Bool) (m : Nat) (e : Int) : Nat × Int :=
  let xf : Int := signed s (if 0 ≤ e + 256 then m <<< (e + 256).toNat else m >>> (-(e + 256)).toNat)
  let k : Int := xf / (ln2Fix : Int)
  let r : Nat := (xf - k * (ln2Fix : Int)).toNat
  (2 * expSeries 80 0 r (2 ^ 256) 0 + 1, k - 257)

/-- The tolerance of VEXP and VLOG2 (02 R71): two units in the last place of FP32 at the result; the formats of 16
bits add half a unit of their own grid (mark: DESIGN CHOICE, log 59). -/
def expTol (f : Fmt) (m : Nat) (e : Int) : Nat × Int :=
  let E : Int := e + Nat.log2 m
  let ulp32 : Int := max (E - 23) (-149)
  if f = .fp32 then (2, ulp32)
  else
    let (s, x) := addExact 2 ulp32 1 (f.halfUlp E)
    (s.natAbs, x)

/-- The flags of a finite inexact result of VEXP or VLOG2: inexact, and underflow where it is subnormal. -/
def specFlags (f : Fmt) (mag : Nat) : Flags := fNX ||| (if mag < 2 ^ f.mb then fUF else 0)

/-- VEXP: e^x (02 R71). -/
def vexp (f : Fmt) (b : Nat) : Res :=
  match f.decode b with
  | .nan g => (f.nanBits, if g then fNV else 0)
  | .inf s => if s then (0, 0) else (f.infBits, 0)
  | .fin s m e =>
    if m = 0 then ((f.ofBin .rne false (.fin false 1 0)).1, 0)
    else if 11 < e + Nat.log2 m then (if s then (0, fUF ||| fNX) else (f.infBits, fOF ||| fNX))
    else
      let (rm, re) := expMag s m e
      if f.beyondMax rm re then (f.infBits, fOF ||| fNX)
      else if f.belowMin rm re then (0, fUF ||| fNX)
      else
        let (t, et) := expTol f rm re
        let v := pickSpec f (Config.specOffset 2 f.code b) rm re t et
        (v, specFlags f v)

/-- Fraction bits of log2(y) for 1 ≤ y < 2 given with 400 fraction bits, by repeated squaring. -/
def log2Bits : Nat → Nat → Nat → Nat
  | 0, _, acc => acc
  | n + 1, y, acc =>
    let z := y * y / 2 ^ 400
    if 2 ^ 401 ≤ z then log2Bits n (z / 2) (2 * acc + 1) else log2Bits n z (2 * acc)

/-- VLOG2 (02 R71). -/
def vlog2 (f : Fmt) (b : Nat) : Res :=
  match f.decode b with
  | .nan g => (f.nanBits, if g then fNV else 0)
  | .inf s => if s then (f.nanBits, fNV) else (f.infBits, 0)
  | .fin s m e =>
    if m = 0 then (f.signBits true + f.infBits, fDZ)
    else if s then (f.nanBits, fNV)
    else
      let L := Nat.log2 m
      let n : Int := e + L
      if m = 2 ^ L then ((f.binOfInt .rne false n).1, 0)
      else
        let fr := log2Bits 160 (m <<< (400 - L)) 0
        let v : Int := n * ((2 ^ 161 : Nat) : Int) + ((2 * fr + 1 : Nat) : Int)
        let (t, et) := expTol f v.natAbs (-161)
        let mag := pickSpec f (Config.specOffset 3 f.code b) v.natAbs (-161) t et
        (f.signBits (decide (v < 0)) + mag, specFlags f mag)

/-- VREFINE: one Newton step, exact and rounded once (02 R70). -/
def vrefine (f : Fmt) (r : Rnd) (sq : Bool) (a est : Nat) : Res :=
  match f.decode a, f.decode est with
  | .fin sa ma ea, .fin se me ee =>
    if ma = 0 ∨ me = 0 ∨ est = (f.ofBin .rne false (.fin false 1 0)).1 then (est, 0)
    else
      let A := signed sa ma
      let E := signed se me
      let (p, pe) : Int × Int := if sq then (A * E * E, ea + 2 * ee) else (A * E, ea + ee)
      let (d, de) := addExact 1 0 (-p) pe
      let (v, ve) := addExact E ee (E * d) (if sq then ee + de - 1 else ee + de)
      f.roundSum r true false v ve
  | _, _ => (est, 0)

/-- One element of VEXPQ: q, and the flags of its three steps (02 R67, 07 R225). -/
def vexpqElem (f : Fmt) (a b : Nat) : Res :=
  let (d, f1) := Fmt.fp32.addV .rne (f.decode a) (f.decode b).neg
  let (x, f2) := vexp .fp32 d
  let (q, f3) := Fmt.e4m3.ofBin .rne true (match Fmt.fp32.decode x with
    | .fin s m e => .fin s m (e + 8)
    | v => v)
  (q, f1 ||| f2 ||| f3)

/-- The row sum added to the running FP32 sum, exact and rounded once (02 R67). -/
def vexpqSum (run : Nat) (qs : List Nat) : Res :=
  let vs := qs.map Fmt.e4m3.decode
  if vs.any BinVal.isNan then (Fmt.fp32.nanBits, (Fmt.fp32.decode run).nv)
  else
    let s : Int := vs.foldl (fun acc v => match v with
      | .fin s m e => acc + signed s (m <<< (e + 9).toNat)
      | _ => acc) 0
    Fmt.fp32.addV .rne (Fmt.fp32.decode run) (.fin (decide (s < 0)) s.natAbs (-9))

end Sys2Proof
end

