-- ==== Sys2Proof/Machine/Convert.lean ====
section
/-! DEFINITION. Conversions between formats (02 R58 to R60, R49, R50; 07 R223) and the constants of a format. -/

namespace Sys2Proof

/-- May VCVT convert from `src` to `dst`? DEC64 on either side and equal formats are refused (07 R223). -/
def cvtOk (src dst : Fmt) : Bool := src != dst && src != .dec64 && dst != .dec64

/-- Converting one element (07 R223, 09 R273). Mark: DESIGN CHOICE (log 47): R49 has the pattern 0b10 set TERNBAD wherever it
is read, and R50 has a conversion to MASK1 raise no flag; a TERN2 0b10 converted to MASK1 sets TERNBAD here. -/
def cvtElem (src dst : Fmt) (r : Rnd) (sat : Bool) (b : Nat) : Res :=
  let rd := src.readFlag b
  let out : Res :=
    if src.isBin then
      let v := src.decode b
      if dst = .mask1 then (match v with
        | .fin _ m _ => (if m = 0 then 0 else 1, 0)
        | _ => (1, 0))
      else if dst = .tern2 then ternOfBin r v
      else if dst.isInt then dst.intOfBin r v
      else dst.ofBin r sat v
    else
      let i := src.intVal b
      if dst = .mask1 then (if i = 0 then 0 else 1, 0)
      else if dst = .tern2 then putTern i
      else if dst.isInt then dst.putInt sat i
      else dst.binOfInt r sat i
  (out.1, out.2 ||| rd)

/-- The IMM operand in a format: a signed integer without a flag (07 R212). -/
def immElem (f : Fmt) (k : Int) : Nat :=
  if f = .dec64 then decPack (decide (k < 0)) k.natAbs 0
  else if f = .tern2 then (putTern k).1
  else if f = .mask1 then (if k = 0 then 0 else 1)
  else if f.isInt then wrapN f.width k
  else (f.binOfInt .rne false k).1

/-- The XS operand in a format, and its flag (07 R212). -/
def xsElem (f : Fmt) (x : Word) : Res :=
  let b := x.toNat % 2 ^ f.width
  if f = .tern2 ∧ b = 2 then (0, fTERN) else (b, 0)

/-- VMSK's fill value (07 Table 3). -/
def fillElem (f : Fmt) (k : Nat) : Nat :=
  if f = .mask1 then (if k = 1 then 1 else 0)
  else if f = .dec64 then
    (match k with | 0 => decInf true | 1 => decInf false | 2 => 0x31C0000000000000 | _ => decNan)
  else if f.isInt then
    (match k with | 0 => wrapN f.width f.intMin | 1 => wrapN f.width f.intMax | _ => 0)
  else if f = .e4m3 then (match k with | 0 => 0xFE | 1 => 0x7E | 2 => 0 | _ => 0x7F)
  else (match k with | 0 => f.signBits true + f.infBits | 1 => f.infBits | 2 => 0 | _ => f.nanBits)

end Sys2Proof
end

