-- ==== Sys2Proof/Syntax.lean ====
section
/-! DEFINITION. The instructions and events of the K2: one constructor per row of the opcode table. A slot operation
holds exactly the fields its description uses; a V or P operation holds the fields of its slot format, whose unused
fields WellFormed requires to be zero (03 R89). Events hold what the outside decides. -/

namespace Sys2Proof

/-- A guard: predicate number and negate bit (03 R88). -/
structure Guard where
  qp : QReg
  qn : Bool
  deriving DecidableEq, Repr

/-- The guard that always executes. -/
def Guard.always : Guard := { qp := 0, qn := false }

/-- The fields of a V-slot operation (03 Table 4). -/
structure VArgs where
  g   : Guard
  fmt : BitVec 5
  rnd : BitVec 3
  sa  : BitVec 4
  sb  : BitVec 4
  sc  : BitVec 4
  dw  : BitVec 3
  sat : Bool
  t   : Bool
  xs  : XReg
  pat : BitVec 6
  imm : BitVec 14
  deriving DecidableEq, Repr

/-- The fields of a P-slot command (03 Table 7). -/
structure PArgs where
  g     : Guard
  ch    : BitVec 3
  cls   : Cls
  set   : BitVec 3
  hs    : HReg
  hd    : HReg
  flags : BitVec 15
  deriving DecidableEq, Repr

/-- One constructor per row of the opcode table. -/
inductive Instr where
  /-- Writes X[d] := X[a] + X[b], wrapping modulo 2^64 (R141) -/
  | add (g : Guard) (d : XReg) (a : XReg) (b : XReg)
  /-- Writes X[d] := X[a] − X[b], wrapping modulo 2^64 (R141) -/
  | sub (g : Guard) (d : XReg) (a : XReg) (b : XReg)
  /-- Writes the bitwise AND of X[a] and X[b] to X[d] (R141) -/
  | and_ (g : Guard) (d : XReg) (a : XReg) (b : XReg)
  /-- Writes the bitwise OR of X[a] and X[b] to X[d] (R141) -/
  | or_ (g : Guard) (d : XReg) (a : XReg) (b : XReg)
  /-- Writes the bitwise XOR of X[a] and X[b] to X[d] (R141) -/
  | xor (g : Guard) (d : XReg) (a : XReg) (b : XReg)
  /-- Shifts X[a] left by X[b] bits 5:0 into X[d] (R141) -/
  | shl (g : Guard) (d : XReg) (a : XReg) (b : XReg)
  /-- Shifts X[a] right by X[b] bits 5:0 with zero fill into X[d] (R141) -/
  | shr (g : Guard) (d : XReg) (a : XReg) (b : XReg)
  /-- Shifts X[a] right by X[b] bits 5:0 with sign fill into X[d] (R141) -/
  | sar (g : Guard) (d : XReg) (a : XReg) (b : XReg)
  /-- Writes bits 63:0 of X[a] × X[b] to X[d], visible after 3 cycles (R141) -/
  | mul (g : Guard) (d : XReg) (a : XReg) (b : XReg)
  /-- Writes bits 127:64 of the signed product of X[a] and X[b] to X[d] (R141) -/
  | mulh (g : Guard) (d : XReg) (a : XReg) (b : XReg)
  /-- Writes bits 127:64 of the unsigned product of X[a] and X[b] to X[d] (R141) -/
  | mulhu (g : Guard) (d : XReg) (a : XReg) (b : XReg)
  /-- Writes the signed quotient, truncated toward zero, to X[d]; it never traps and holds the divider for 18 issue cycles (R142) -/
  | div (g : Guard) (d : XReg) (a : XReg) (b : XReg)
  /-- Writes the unsigned quotient to X[d]; it never traps and holds the divider for 18 issue cycles (R142) -/
  | divu (g : Guard) (d : XReg) (a : XReg) (b : XReg)
  /-- Writes the signed remainder, with the sign of X[a], to X[d]; it never traps (R142) -/
  | rem (g : Guard) (d : XReg) (a : XReg) (b : XReg)
  /-- Writes the unsigned remainder to X[d]; it never traps (R142) -/
  | remu (g : Guard) (d : XReg) (a : XReg) (b : XReg)
  /-- Writes the signed minimum of X[a] and X[b] to X[d] (R141) -/
  | min_ (g : Guard) (d : XReg) (a : XReg) (b : XReg)
  /-- Writes the signed maximum of X[a] and X[b] to X[d] (R141) -/
  | max_ (g : Guard) (d : XReg) (a : XReg) (b : XReg)
  /-- Writes the unsigned minimum of X[a] and X[b] to X[d] (R141) -/
  | minu (g : Guard) (d : XReg) (a : XReg) (b : XReg)
  /-- Writes the unsigned maximum of X[a] and X[b] to X[d] (R141) -/
  | maxu (g : Guard) (d : XReg) (a : XReg) (b : XReg)
  /-- Counts the leading zero bits of X[a] into X[d] (R141) -/
  | clz (g : Guard) (d : XReg) (a : XReg)
  /-- Counts the set bits of X[a] into X[d] (R141) -/
  | popc (g : Guard) (d : XReg) (a : XReg)
  /-- Sign-extends the low 8, 16 or 32 bits of X[a], as sub selects, into X[d] (R141) -/
  | sext (g : Guard) (w : BitVec 2) (d : XReg) (a : XReg)
  /-- Zero-extends the low 8, 16 or 32 bits of X[a], as sub selects, into X[d] (R141) -/
  | zext (g : Guard) (w : BitVec 2) (d : XReg) (a : XReg)
  /-- Writes X[a] + sext(imm32) to X[d] (R143) -/
  | addi (g : Guard) (d : XReg) (a : XReg) (imm : BitVec 32)
  /-- Writes X[a] AND sext(imm32) to X[d] (R143) -/
  | andi (g : Guard) (d : XReg) (a : XReg) (imm : BitVec 32)
  /-- Writes X[a] OR sext(imm32) to X[d] (R143) -/
  | ori (g : Guard) (d : XReg) (a : XReg) (imm : BitVec 32)
  /-- Writes X[a] XOR sext(imm32) to X[d] (R143) -/
  | xori (g : Guard) (d : XReg) (a : XReg) (imm : BitVec 32)
  /-- Shifts X[a] left by an imm32 count of 0 to 63; any other count raises ENC (R143) -/
  | shlImm (g : Guard) (d : XReg) (a : XReg) (k : BitVec 6)
  /-- Shifts X[a] right by an imm32 count with zero fill (R143) -/
  | shrImm (g : Guard) (d : XReg) (a : XReg) (k : BitVec 6)
  /-- Shifts X[a] right by an imm32 count with sign fill (R143) -/
  | sarImm (g : Guard) (d : XReg) (a : XReg) (k : BitVec 6)
  /-- Writes sext(imm32) to X[d] (R143) -/
  | movi (g : Guard) (d : XReg) (imm : BitVec 32)
  /-- Replaces the high half of X[a] with imm32 and writes the result to X[d] (R143) -/
  | movhi (g : Guard) (d : XReg) (a : XReg) (imm : BitVec 32)
  /-- Adds in FP32 or FP64 under RMODE.RM and sets sticky flags in FPSTAT (R144) -/
  | fadd (g : Guard) (dbl : Bool) (d : XReg) (a : XReg) (b : XReg)
  /-- Subtracts in FP32 or FP64 under RMODE.RM (R144) -/
  | fsub (g : Guard) (dbl : Bool) (d : XReg) (a : XReg) (b : XReg)
  /-- Multiplies in FP32 or FP64 under RMODE.RM (R144) -/
  | fmul (g : Guard) (dbl : Bool) (d : XReg) (a : XReg) (b : XReg)
  /-- Writes X[a] × X[b] + X[d] to X[d] with one rounding (R144) -/
  | ffma (g : Guard) (dbl : Bool) (d : XReg) (a : XReg) (b : XReg)
  /-- Writes the IEEE 754 minimum under the rules of R53 (R144) -/
  | fmin (g : Guard) (dbl : Bool) (d : XReg) (a : XReg) (b : XReg)
  /-- Writes the IEEE 754 maximum under the rules of R53 (R144) -/
  | fmax (g : Guard) (dbl : Bool) (d : XReg) (a : XReg) (b : XReg)
  /-- Converts FP32 to FP64 exactly (R145) -/
  | fcvtS2d (g : Guard) (d : XReg) (a : XReg)
  /-- Converts FP64 to FP32 with one rounding (R145) -/
  | fcvtD2s (g : Guard) (d : XReg) (a : XReg)
  /-- Converts FP32 to INT64 under R60 (R145) -/
  | fcvtS2l (g : Guard) (d : XReg) (a : XReg)
  /-- Converts FP64 to INT64 under R60 (R145) -/
  | fcvtD2l (g : Guard) (d : XReg) (a : XReg)
  /-- Converts INT64 to FP32 with one rounding (R145) -/
  | fcvtL2s (g : Guard) (d : XReg) (a : XReg)
  /-- Converts INT64 to FP64 with one rounding (R145) -/
  | fcvtL2d (g : Guard) (d : XReg) (a : XReg)
  /-- Writes the quiet equality of X[a] and X[b] to Q[d] (R145) -/
  | fcmpEq (g : Guard) (dbl : Bool) (d : QReg) (a : XReg) (b : XReg)
  /-- Writes the signalling less-than relation to Q[d] (R145) -/
  | fcmpLt (g : Guard) (dbl : Bool) (d : QReg) (a : XReg) (b : XReg)
  /-- Writes the signalling less-or-equal relation to Q[d] (R145) -/
  | fcmpLe (g : Guard) (dbl : Bool) (d : QReg) (a : XReg) (b : XReg)
  /-- Writes the quiet unordered relation to Q[d] (R145) -/
  | fcmpUn (g : Guard) (dbl : Bool) (d : QReg) (a : XReg) (b : XReg)
  /-- Writes a one-hot class mask of X[a] to X[d] and raises no flag (R145) -/
  | fclass (g : Guard) (dbl : Bool) (d : XReg) (a : XReg)
  /-- Writes Q[d] := X[a] = X[b] (R146) -/
  | cmpEq (g : Guard) (d : QReg) (a : XReg) (b : XReg)
  /-- Writes Q[d] := X[a] ≠ X[b] (R146) -/
  | cmpNe (g : Guard) (d : QReg) (a : XReg) (b : XReg)
  /-- Writes Q[d] := the signed relation X[a] < X[b] (R146) -/
  | cmpLt (g : Guard) (d : QReg) (a : XReg) (b : XReg)
  /-- Writes Q[d] := the signed relation X[a] ≥ X[b] (R146) -/
  | cmpGe (g : Guard) (d : QReg) (a : XReg) (b : XReg)
  /-- Writes Q[d] := the unsigned relation X[a] < X[b] (R146) -/
  | cmpLtu (g : Guard) (d : QReg) (a : XReg) (b : XReg)
  /-- Writes Q[d] := the unsigned relation X[a] ≥ X[b] (R146) -/
  | cmpGeu (g : Guard) (d : QReg) (a : XReg) (b : XReg)
  /-- Writes Q[d] := (X[a] AND X[b]) ≠ 0 (R146) -/
  | cmpBt (g : Guard) (d : QReg) (a : XReg) (b : XReg)
  /-- Writes Q[d] := X[a] = sext(imm32) (R146) -/
  | cmpiEq (g : Guard) (d : QReg) (a : XReg) (imm : BitVec 32)
  /-- Writes Q[d] := X[a] ≠ sext(imm32) (R146) -/
  | cmpiNe (g : Guard) (d : QReg) (a : XReg) (imm : BitVec 32)
  /-- Writes Q[d] := X[a] < sext(imm32), signed (R146) -/
  | cmpiLt (g : Guard) (d : QReg) (a : XReg) (imm : BitVec 32)
  /-- Writes Q[d] := X[a] ≥ sext(imm32), signed (R146) -/
  | cmpiGe (g : Guard) (d : QReg) (a : XReg) (imm : BitVec 32)
  /-- Writes Q[d] := X[a] < sext(imm32), unsigned (R146) -/
  | cmpiLtu (g : Guard) (d : QReg) (a : XReg) (imm : BitVec 32)
  /-- Writes Q[d] := X[a] ≥ sext(imm32), unsigned (R146) -/
  | cmpiGeu (g : Guard) (d : QReg) (a : XReg) (imm : BitVec 32)
  /-- Writes Q[d] := (X[a] AND sext(imm32)) ≠ 0 (R146) -/
  | cmpiBt (g : Guard) (d : QReg) (a : XReg) (imm : BitVec 32)
  /-- Writes Q[d] := Q[a] AND Q[b] (R147) -/
  | plogAnd (g : Guard) (d : QReg) (a : QReg) (b : QReg)
  /-- Writes Q[d] := Q[a] OR Q[b] (R147) -/
  | plogOr (g : Guard) (d : QReg) (a : QReg) (b : QReg)
  /-- Writes Q[d] := Q[a] XOR Q[b] (R147) -/
  | plogXor (g : Guard) (d : QReg) (a : QReg) (b : QReg)
  /-- Writes Q[d] := Q[a] AND NOT Q[b] (R147) -/
  | plogAndn (g : Guard) (d : QReg) (a : QReg) (b : QReg)
  /-- Writes Q[d] := Q[a] OR NOT Q[b] (R147) -/
  | plogOrn (g : Guard) (d : QReg) (a : QReg) (b : QReg)
  /-- Writes Q[d] := NOT (Q[a] AND Q[b]) (R147) -/
  | plogNand (g : Guard) (d : QReg) (a : QReg) (b : QReg)
  /-- Writes Q[d] := NOT (Q[a] OR Q[b]) (R147) -/
  | plogNor (g : Guard) (d : QReg) (a : QReg) (b : QReg)
  /-- Writes Q[d] := NOT (Q[a] XOR Q[b]) (R147) -/
  | plogXnor (g : Guard) (d : QReg) (a : QReg) (b : QReg)
  /-- Writes X[a] to X[d] when Q[cls] is true, and X[b] otherwise (R148) -/
  | sel (g : Guard) (d : XReg) (a : XReg) (b : XReg) (q : QReg)
  /-- Packs Q0–Q15 into X[d] (R149) -/
  | movpGet (g : Guard) (d : XReg)
  /-- Writes Q1–Q15 from bits 1–15 of X[a] (R149) -/
  | movpPut (g : Guard) (a : XReg)
  /-- Writes X[d] := 1 when Q[a] is true, and 0 otherwise (R149) -/
  | movpQx (g : Guard) (d : XReg) (a : QReg)
  /-- Writes Q[d] := (X[a] ≠ 0) (R149) -/
  | movpXq (g : Guard) (d : QReg) (a : XReg)
  /-- Transfers control to a parcel-relative target (R150) -/
  | br (g : Guard) (disp : BitVec 32)
  /-- Transfers control to the parcel index in X[a] bits 46:0 (R150) -/
  | brx (g : Guard) (a : XReg)
  /-- Writes the next parcel index to X[link] and transfers control to the target (R150) -/
  | call (g : Guard) (link : XReg) (disp : BitVec 32)
  /-- Transfers control to X[a] bits 46:0 and marks the end of a routine for tools (R150) -/
  | ret (g : Guard) (a : XReg)
  /-- Decrements X[link] and branches to the target while the new value is non-zero (R150) -/
  | loop (g : Guard) (link : XReg) (disp : BitVec 32)
  /-- Loads 1, 2, 4 or 8 bytes, zero-extended, into a scoreboarded X[d] (R152) -/
  | ld (g : Guard) (strong : Bool) (w : BitVec 2) (d : XReg) (a : XReg) (cls : Cls) (imm : BitVec 32)
  /-- Stores the low bytes of X[d] and retires at issue, entering the sump on a translation fault (R152) -/
  | st (g : Guard) (strong : Bool) (w : BitVec 2) (d : XReg) (a : XReg) (cls : Cls) (imm : BitVec 32)
  /-- Loads through an object handle into X[hd] and reports gone through Q[xc] for a destroyed weak object (R155) -/
  | ldw (g : Guard) (strong : Bool) (w : BitVec 2) (hd : XReg) (ha : HReg) (xb : XReg) (xc : QReg) (cls : Cls) (off : BitVec 20)
  /-- Loads a whole 256-bit handle from memory into H[hd] without any check (R152) -/
  | ldh (g : Guard) (strong : Bool) (hd : HReg) (xb : XReg) (cls : Cls) (off : BitVec 20)
  /-- Stores H[ha] to memory as 32 bytes without any check (R152) -/
  | sth (g : Guard) (strong : Bool) (ha : HReg) (xb : XReg) (cls : Cls) (off : BitVec 20)
  /-- Performs an atomic wrapping add at the home slice and returns the old value (R157) -/
  | aadd (g : Guard) (w64 : Bool) (d : XReg) (a : XReg) (b : XReg) (cls : Cls)
  /-- Performs an atomic signed or unsigned maximum at the home slice (R157) -/
  | amax (g : Guard) (w64 : Bool) (u : Bool) (d : XReg) (a : XReg) (b : XReg) (cls : Cls)
  /-- Performs an atomic signed or unsigned minimum at the home slice (R157) -/
  | amin (g : Guard) (w64 : Bool) (u : Bool) (d : XReg) (a : XReg) (b : XReg) (cls : Cls)
  /-- Performs an atomic exchange at the home slice (R157) -/
  | axchg (g : Guard) (w64 : Bool) (d : XReg) (a : XReg) (b : XReg) (cls : Cls)
  /-- Performs an atomic compare-and-swap with X[d] as the expected value (R157) -/
  | acas (g : Guard) (w64 : Bool) (d : XReg) (a : XReg) (b : XReg) (cls : Cls)
  /-- Adds a floating value exactly into a reserved target, raises NDET or DFAULT reason 6, or performs an ordinary rounded atomic add (R160) -/
  | afadd (g : Guard) (f : BitVec 2) (a : XReg) (b : XReg) (cls : Cls)
  /-- Reserves an exact-accumulator range, loads its targets and returns the number of targets, or 0 on failure (R159) -/
  | accres (g : Guard) (f : BitVec 2) (d : XReg) (a : XReg) (b : XReg) (cls : Cls)
  /-- Releases a reserved range, rounding each exact sum once into memory (R161) -/
  | accrel (g : Guard) (f : BitVec 2) (d : XReg) (a : XReg) (b : XReg) (cls : Cls)
  /-- Orders the accesses of the masked classes at a scope and may invalidate L1, without holding issue (R163) -/
  | fence (g : Guard) (mask : BitVec 16) (scope : BitVec 3)
  /-- Arrives at a standpipe barrier of the given scope and holds until restart (R164) -/
  | sync (g : Guard) (mask : BitVec 16) (scope : BitVec 3)
  /-- Holds until STROKE ≥ X[a] and then writes the current stroke to X[d] (R166) -/
  | stkwait (g : Guard) (d : XReg) (a : XReg)
  /-- Holds until a channel's write pointer reaches a value, and reports a pending pump fault of that channel (R167) -/
  | pwait (g : Guard) (ch : BitVec 3) (a : XReg) (imm : BitVec 32)
  /-- Holds until the tile named by a TILE handle is owned by the core (R168) -/
  | owait (g : Guard) (ha : HReg)
  /-- Reads a control register into X[d] (R169) -/
  | cread (g : Guard) (d : XReg) (num : BitVec 32)
  /-- Writes X[a] to a control register, as Table 14 of the scalar chapter limits (R169) -/
  | cwrite (g : Guard) (a : XReg) (num : BitVec 32)
  /-- Raises TRAPI at issue with imm32 in TRAPINFO1 (R170) -/
  | trap (g : Guard) (imm : BitVec 32)
  /-- Clears INH, resumes at TRAPPC and completes the captured results and any resume record (R171) -/
  | tret (g : Guard)
  /-- Stops issue and begins ending the task (R172) -/
  | halt (g : Guard)
  /-- Orders earlier accesses and posts a launch record to Shogiwald's queue (R173) -/
  | launch (g : Guard) (xb : XReg)
  /-- Allocates a FREE tile as STORED with granules taken from the free map (R179) -/
  | talloc (g : Guard) (ha : HReg) (fmt : BitVec 5) (det : Bool) (keep : Bool)
  /-- Frees a tile, returning its granules or decrementing its source's RPC (R180) -/
  | tfree (g : Guard) (ha : HReg)
  /-- Makes a tile a ZERO symbol (R181) -/
  | tsymZero (g : Guard) (ha : HReg) (fmt : BitVec 5)
  /-- Makes a tile a CONST symbol holding X[xb] (R181) -/
  | tsymConst (g : Guard) (ha : HReg) (xb : XReg) (fmt : BitVec 5)
  /-- Makes a tile a RAMP symbol with start, step and axis (R181) -/
  | tsymRamp (g : Guard) (ha : HReg) (xb : XReg) (fmt : BitVec 5) (rax : BitVec 2)
  /-- Makes a tile a REPEAT of a STORED source, or a copy of a symbolic source (R181) -/
  | tsymRepeat (g : Guard) (hd : HReg) (ha : HReg)
  /-- Reads bits 63:0 of a tile-table entry into X[hd] (R182) -/
  | tprobeLo (g : Guard) (hd : XReg) (ha : HReg)
  /-- Reads bits 127:64 of a tile-table entry into X[hd] (R182) -/
  | tprobeHi (g : Guard) (hd : XReg) (ha : HReg)
  /-- Changes a tile's FMT without converting its elements, under the retype rules (R190) -/
  | tretype (g : Guard) (ha : HReg) (fmt : BitVec 5)
  /-- Grants a core-owned tile to an engine (R183) -/
  | townGive (g : Guard) (ha : HReg) (own : BitVec 4)
  /-- Takes a tile back from an engine that holds no command naming it (R183) -/
  | townTake (g : Guard) (ha : HReg) (own : BitVec 4)
  /-- Writes the DET and KEEP bits of a tile-table entry (R184) -/
  | tflag (g : Guard) (ha : HReg) (det : Bool) (keep : Bool) (wdet : Bool) (wkeep : Bool)
  /-- Reads one tile element's bits into X[hd] (R185) -/
  | tld (g : Guard) (hd : XReg) (ha : HReg) (xb : XReg) (ix : BitVec 10)
  /-- Writes one tile element, promoting a symbolic tile first (R185) -/
  | tst (g : Guard) (ha : HReg) (xb : XReg) (xc : XReg) (ix : BitVec 10)
  /-- Copies H[ha] to H[hd] (R191) -/
  | hmov (g : Guard) (hd : HReg) (ha : HReg)
  /-- Writes X[xb] into 64-bit word k of H[hd] (R191) -/
  | hset (g : Guard) (hd : HReg) (xb : XReg) (k : BitVec 2)
  /-- Reads 64-bit word k of H[ha] into X[hd] (R191) -/
  | hget (g : Guard) (hd : XReg) (ha : HReg) (k : BitVec 2)
  /-- Builds a TILE handle from X[xb] + imm24 (R191) -/
  | hmkt (g : Guard) (hd : HReg) (xb : XReg) (imm : BitVec 12)
  /-- Builds a two-level WALK handle (R192) -/
  | hmkw (g : Guard) (hd : HReg) (xb : XReg) (xc : XReg) (imm : BitVec 24)
  /-- Builds a VIEW handle from an object handle (R193) -/
  | hmkv (g : Guard) (hd : HReg) (ha : HReg) (xb : XReg) (xc : XReg) (fmt : BitVec 5) (keep : Bool)
  /-- Binds a port to a walk, checking and promoting the pass of a write port (R195) -/
  | portsetBind (g : Guard) (ha : HReg) (port : BitVec 4)
  /-- Unbinds a port and zeroes its fields (R195) -/
  | portsetClr (g : Guard) (port : BitVec 4)
  /-- Reads a port's walk into H[hd] and its indices into X[xc] (R197) -/
  | portget (g : Guard) (hd : HReg) (xc : XReg) (port : BitVec 4)
  /-- Advances a port's indices by a step count without moving rows (R197) -/
  | portadvStep (g : Guard) (xb : XReg) (port : BitVec 4) (n : BitVec 20)
  /-- Loads a port's indices and WRAP from X[xb] (R197) -/
  | portadvSet (g : Guard) (xb : XReg) (port : BitVec 4)
  /-- Writes X[a] to a staging register (R191) -/
  | stgPut (g : Guard) (d : XReg) (a : XReg)
  /-- Reads a staging register into X[d] (R191) -/
  | stgGet (g : Guard) (d : XReg) (a : XReg)
  /-- Writes X[a] bits 31:0 to an MA register (R191) -/
  | maput (g : Guard) (d : BitVec 3) (a : XReg)
  /-- Copies rows of an 8-bit tile into entries of the inactive shuffle-pattern bank (R229) -/
  | patld (g : Guard) (ha : HReg) (r0 : BitVec 4) (e0 : BitVec 6) (n : BitVec 5)
  /-- Flips the active shuffle-pattern bank (R230) -/
  | patsw (g : Guard)
  /-- Allocates a zeroed object, reclaiming first if pages are short, and returns an OBJS handle or a failure predicate (R201) -/
  | oalloc (g : Guard) (hd : HReg) (xb : XReg) (xc : QReg) (prio : BitVec 4) (cow : Bool) (fmt : BitVec 5) (geom : BitVec 2) (tier : BitVec 2) (write : Bool)
  /-- Adds a strong reference to an object (R200) -/
  | oref (g : Guard) (hd : HReg) (ha : HReg)
  /-- Drops a strong reference, freeing the object or leaving it weakly held (R202) -/
  | odrop (g : Guard) (ha : HReg)
  /-- Adds a weak reference and returns an OBJW handle (R200) -/
  | oweak (g : Guard) (hd : HReg) (ha : HReg)
  /-- Drops a weak reference and reports whether the object is gone (R203) -/
  | ounweak (g : Guard) (ha : HReg) (xc : QReg)
  /-- Upgrades a weak handle to a strong one when the object is LIVE (R204) -/
  | oupg (g : Guard) (hd : HReg) (ha : HReg) (xc : QReg)
  /-- Sets an object's reclaim priority (R205) -/
  | oprio (g : Guard) (ha : HReg) (xc : QReg) (prio : BitVec 4)
  /-- Reads one word of an object-table entry into X[hd] (R200) -/
  | ostat (g : Guard) (hd : XReg) (ha : HReg) (k : BitVec 2)
  /-- Invalidates every node of the token-tree file (R208) -/
  | ktclr (g : Guard)
  /-- Adds a node after the highest valid index and returns its index (R208) -/
  | ktadd (g : Guard) (hd : XReg) (xb : XReg) (xc : XReg)
  /-- Writes a node word after checking the tree's constraints (R208) -/
  | ktset (g : Guard) (xb : XReg) (xc : XReg)
  /-- Reads a node word into X[hd] (R209) -/
  | ktgetNode (g : Guard) (hd : XReg) (xb : XReg)
  /-- Reads a node's depth into X[hd] (R209) -/
  | ktgetDepth (g : Guard) (hd : XReg) (xb : XReg)
  /-- Reads the number of valid nodes into X[hd] (R209) -/
  | ktgetNodes (g : Guard) (hd : XReg)
  /-- Writes ancestor masks into a MASK1 tile (R209) -/
  | ktanc (g : Guard) (ha : HReg) (xb : XReg) (xc : XReg)
  /-- Writes the node positions into an INT32 tile (R209) -/
  | ktpos (g : Guard) (ha : HReg) (xb : XReg)
  /-- Writes the compaction list of the path to a leaf, returns its length and clears the tree (R209) -/
  | ktprune (g : Guard) (hd : XReg) (ha : HReg) (xb : XReg) (xc : XReg)
  /-- Writes a Windlass level configuration word (R289) -/
  | wlcfg (g : Guard) (xb : XReg) (lv : BitVec 3) (word : BitVec 4)
  /-- Writes a level's template range after checking the dictionary (R289) -/
  | wltpl (g : Guard) (xb : XReg) (xc : XReg) (lv : BitVec 3) (tpl : BitVec 2)
  /-- Captures the configuration and starts replaying the template nest (R291) -/
  | wlrun (g : Guard) (lv : BitVec 3)
  /-- Ends a replay after the current template pass (R292) -/
  | wlstop (g : Guard)
  /-- Reads Windlass configuration, counters, offsets or position into X[hd] (R290) -/
  | wlstat (g : Guard) (hd : XReg) (lv : BitVec 3) (item : BitVec 5)
  /-- Writes SEQLEN := X[xb] (R289) -/
  | setseq (g : Guard) (xb : XReg)
  /-- Adds rows element by element (R220) -/
  | vadd (v : VArgs)
  /-- Subtracts rows element by element (R220) -/
  | vsub (v : VArgs)
  /-- Multiplies rows element by element (R220) -/
  | vmul (v : VArgs)
  /-- Computes a×b+c per lane with one rounding (R220) -/
  | vfma (v : VArgs)
  /-- Computes a×b−c per lane with one rounding (R220) -/
  | vfms (v : VArgs)
  /-- Takes the minimum per lane (R220) -/
  | vmin (v : VArgs)
  /-- Takes the maximum per lane (R220) -/
  | vmax (v : VArgs)
  /-- Takes the absolute value per lane (R220) -/
  | vabs (v : VArgs)
  /-- Negates each lane (R220) -/
  | vneg (v : VArgs)
  /-- Computes the bitwise AND of elements (R220) -/
  | vand (v : VArgs)
  /-- Computes the bitwise OR of elements (R220) -/
  | vor (v : VArgs)
  /-- Computes the bitwise XOR of elements (R220) -/
  | vxor (v : VArgs)
  /-- Inverts the bits of each element (R220) -/
  | vnot (v : VArgs)
  /-- Shifts each element left by a per-lane count (R220) -/
  | vshl (v : VArgs)
  /-- Shifts each element right logically by a per-lane count (R220) -/
  | vshr (v : VArgs)
  /-- Shifts each element right arithmetically by a per-lane count (R220) -/
  | vsar (v : VArgs)
  /-- Compares lanes and pushes a MASK1 row (R221) -/
  | vcmp (v : VArgs)
  /-- Selects lanes from two rows by a mask (R221) -/
  | vsel (v : VArgs)
  /-- Replaces masked lanes with a fill value (R221) -/
  | vmsk (v : VArgs)
  /-- Converts lanes between formats (R223) -/
  | vcvt (v : VArgs)
  /-- Clamps lanes between low and high rows (R220) -/
  | vclamp (v : VArgs)
  /-- Pushes the bits of a row (R222) -/
  | vmov (v : VArgs)
  /-- Broadcasts one lane to every lane (R222) -/
  | vsplat (v : VArgs)
  /-- Pushes an integer ramp (R222) -/
  | viota (v : VArgs)
  /-- Computes e^x per lane (R224) -/
  | vexp (v : VArgs)
  /-- Forms E4M3 probabilities at scale 256 and adds their exact row sum to a running sum (R225) -/
  | vexpq (v : VArgs)
  /-- Computes log2 per lane (R224) -/
  | vlog2 (v : VArgs)
  /-- Approximates the reciprocal per lane (R224) -/
  | vrcp (v : VArgs)
  /-- Approximates the reciprocal square root per lane (R224) -/
  | vrsq (v : VArgs)
  /-- Performs one Newton step of a reciprocal estimate (R70) -/
  | vrefineRcp (v : VArgs)
  /-- Performs one Newton step of a reciprocal square root estimate (R70) -/
  | vrefineRsq (v : VArgs)
  /-- Rotates lanes within a row (R226) -/
  | vrrot (v : VArgs)
  /-- Rotates 16 popped rows (R227) -/
  | vcrot (v : VArgs)
  /-- Broadcasts one lane across the row (R226) -/
  | vrbc (v : VArgs)
  /-- Broadcasts one of 16 popped rows (R227) -/
  | vcbc (v : VArgs)
  /-- Reduces a row by a fixed tree into every lane (R226) -/
  | vrred (v : VArgs)
  /-- Reduces 16 rows per lane into every row (R227) -/
  | vcred (v : VArgs)
  /-- Computes an inclusive prefix along the row (R66) -/
  | vrscan (v : VArgs)
  /-- Shuffles lanes of two rows by an entry of the active pattern bank (R228) -/
  | vshuf (v : VArgs)
  /-- Scales the row at the partial-sum port by a power of two in its issue cycle (R231) -/
  | vscale (v : VArgs)
  /-- Adds decimal64 lanes (R232) -/
  | dadd (v : VArgs)
  /-- Subtracts decimal64 lanes (R232) -/
  | dsub (v : VArgs)
  /-- Multiplies decimal64 lanes (R232) -/
  | dmul (v : VArgs)
  /-- Computes a decimal64 fused multiply-add per lane (R232) -/
  | dfma (v : VArgs)
  /-- Quantizes decimal64 lanes to the quantum of b (R232) -/
  | dquant (v : VArgs)
  /-- Rounds decimal64 lanes to integral values (R232) -/
  | drnd (v : VArgs)
  /-- Compares decimal64 lanes into a MASK1 row (R232) -/
  | dcmp (v : VArgs)
  /-- Converts INT64 or FP64 lanes to decimal64 (R232) -/
  | dcvtTo (v : VArgs)
  /-- Converts decimal64 lanes to INT64 or FP64 (R232) -/
  | dcvtFrom (v : VArgs)
  /-- Checks and queues a micro-routine and grants it its slots and output tiles (R243) -/
  | mcall (g : Guard) (rix : BitVec 10) (ovm : BitVec 8) (ov : BitVec 48) (tag : Bool)
  /-- Claims a range of operand-memory slots as ZERO (R241) -/
  | mclaim (g : Guard) (slot : BitVec 6) (cnt : BitVec 4)
  /-- Releases a range of claimed slots (R242) -/
  | mrel (g : Guard) (slot : BitVec 6) (cnt : BitVec 4)
  /-- Holds until few enough routines, or no tagged routine, remain queued (R245) -/
  | mwait (g : Guard) (k : BitVec 2) (t : Bool)
  /-- Copies NR rows between endpoints, converting when asked (R276) -/
  | pcopy (p : PArgs)
  /-- Gathers units through an index list, mode 0 (R277) -/
  | pgatherList (p : PArgs)
  /-- Copies units by source and destination index pairs, reading every source before writing, mode 1 (R277) -/
  | pgatherPairs (p : PArgs)
  /-- Scatters units through an index list (R277) -/
  | pscatter (p : PArgs)
  /-- Combines source elements into destination elements with strong atomic read-modify-writes (R278) -/
  | preduce (p : PArgs)
  /-- Writes NR source rows as K copies (R279) -/
  | pbcast (p : PArgs)
  /-- Writes NR rows of a tile's symbol (R280) -/
  | pfill (p : PArgs)
  /-- Queues a marker that removes translations of a range from the core's cache (R281) -/
  | pinvm (p : PArgs)
  /-- Ends a routine once the array and output path are idle, returning its tiles and slots (R244) -/
  | mend
  /-- Latches one A slot into the next A latch (R252) -/
  | mlda (ma : BitVec 3) (off : BitVec 6) (s0 : BitVec 4) (s1 : BitVec 4)
  /-- Latches n B slots into the next B latch (R252) -/
  | mldb (mode : BitVec 3) (ma : BitVec 3) (off : BitVec 6) (s0 : BitVec 4) (s1 : BitVec 4)
  /-- Hands one block to the array once it is free, skipping it under R255 (R253) -/
  | mmac (mode : BitVec 3) (z : Bool) (acc : BitVec 2)
  /-- Sets PSMODE for later MMACs (R258) -/
  | mps (on : Bool)
  /-- Queues an accumulator output to tiles on the output path (R260) -/
  | mout (acc : BitVec 2) (cnt : BitVec 2) (ma : BitVec 3) (off : BitVec 6) (s0 : BitVec 4) (s1 : BitVec 4) (clr : Bool) (fromma : Bool) (ofmt : BitVec 5) (sat : Bool)
  /-- Queues the clearing of masked accumulators (R250) -/
  | mclr (mask : BitVec 4)
  /-- Increments a loop counter and branches while it is below the count (R251) -/
  | mloop (j : Bool) (fromma : Bool) (ma : BitVec 3) (target : BitVec 11) (count : BitVec 16)
  /-- Jumps when the next block would be skipped (R255) -/
  | mifz (target : BitVec 11)
  /-- Queues a power-of-two scaling of masked accumulators (R250) -/
  | mscl (mask : BitVec 4) (k : BitVec 8) (fromma : Bool) (ma : BitVec 3)
  /-- Returns a tile to the core after its queued writes finish (R261) -/
  | msig (ma : BitVec 3) (off : BitVec 6) (s0 : BitVec 4) (s1 : BitVec 4)
  /-- Issues alone as one idle cycle (R84) -/
  | emptyBundle (seg : Bool)
  /-- A bundle whose leading parcel, header or present-slot opcode is reserved comes to issue and raises ENC (R108) -/
  | reservedEncoding (slot : BitVec 4)
  /-- An issued operation's results take effect at its visible cycle, and any trap after issue is taken there (R99) -/
  | resultVisible
  /-- A scoreboarded memory result, from a load, returning atomic, ACCRES or ACCREL, is written and releases waiting bundles (R156) -/
  | loadReturn
  /-- Fetched parcels arrive in the parcel cache, or a code translation fault is met (R85) -/
  | parcelFetch
  /-- The 18-cycle hold per promoted tile expires, the promotions become visible and the writing bundle issues (R186) -/
  | promotionHoldEnd
  /-- Seventeen cycles after the completion, the detected symbol becomes visible and the granules are freed (R188) -/
  | detectionResult
  /-- A sump entry whose page is settled replays its access (R350) -/
  | sumpReplay
  /-- A sump entry declared invalid is reported as a trap at the next bundle boundary (R351) -/
  | sumpReport
  /-- The home slice performs an object operation or check in destruction order and answers (R199) -/
  | objectOpHome
  /-- An AFADD reaches its home slice, where it is an exact contribution or a rounded add whose flags are raised on acknowledgement (R160) -/
  | afaddAtSlice
  /-- A store, atomic without return or other retired write reaches its home slice and is performed at system scope (R300) -/
  | accessPerformed
  /-- A page walk finishes its node reads and fills the translation caches, releasing a P command held on its first page (R346) -/
  | pageWalkEnd
  /-- Shogiwald settles a fault by making the access valid (R348) -/
  | faultSettle (asid : BitVec 16) (va : BitVec 48) (level : BitVec 2) (pte : BitVec 128)
  /-- Shogiwald declares a fault invalid, or declares a COW (R348) -/
  | faultDeclare (asid : BitVec 16) (va : BitVec 48) (cow : Bool)
  /-- Shogiwald or the Drain engine changes a mapping through entries, shadows and markers (R347) -/
  | translationChange (asid : BitVec 16) (va : BitVec 48) (level : BitVec 2) (pte : BitVec 128)
  /-- A marker reaches the head of its queue and removes translations (R281) -/
  | markerAtHead (ch : BitVec 3)
  /-- A marker completes 4 cycles after reaching the head (R281) -/
  | markerComplete (ch : BitVec 3)
  /-- Shogiwald moves a page between tiers or packages (R355) -/
  | pageMigration (asid : BitVec 16) (va : BitVec 48) (frame : BitVec 40) (tier : BitVec 2) (phase : BitVec 3)
  /-- A tier's free count falls below FREELO, and the Drain engine reclaims weakly held objects (R360) -/
  | drainReclaim (die : BitVec 1) (tier : BitVec 2)
  /-- A queued pump command reaches the head of its channel and begins moving data (R266) -/
  | pumpCommandStart (ch : BitVec 3)
  /-- A channel's write-pointer advance becomes visible the cycle after a counted write (R268) -/
  | wptrAdvance (ch : BitVec 3)
  /-- A pump command completes and leaves the queue, returning its held tiles (R267) -/
  | pumpCommandComplete (ch : BitVec 3)
  /-- A pump command faults during execution and stops its channel (R285) -/
  | pumpFault (ch : BitVec 3)
  /-- A queued routine starts at its start cycle (R244) -/
  | routineStart
  /-- A block's accumulator update takes place and its flags are raised (R254) -/
  | arrayBlockUpdate
  /-- A block row is presented at the partial-sum port and accumulated the next cycle (R258) -/
  | psumRowPresent
  /-- The output path writes one converted accumulator row to a tile (R260) -/
  | outputRowWrite
  /-- The output path takes the next queued MCLR or MSCL in order and clears or scales its accumulators (R250) -/
  | outputPathOperation
  /-- The indirect lookup value LV becomes visible 6 cycles after the counter changes (R294) -/
  | windlassLookup
  /-- The replay ends, WLACT clears, ITILE returns and stream issue resumes (R291) -/
  | windlassReplayEnd
  /-- The last participant arrives, and the barrier releases (R164) -/
  | syncRelease (core : BitVec 9)
  /-- Participants restart issue at the fixed distance after release (R164) -/
  | syncRestart
  /-- STROKE increases by 1 at the end of each stroke (R387) -/
  | strokeBoundary
  /-- Shogiwald takes a launch record, accepts or refuses it and writes STATUS (R375) -/
  | launchRecordTaken (host : Bool) (q : BitVec 32)
  /-- Shogiwald writes a bind record and sets it READY (R381) -/
  | bindRecordReady (die : BitVec 1) (ix : BitVec 8) (rec : BitVec 512)
  /-- Shogiwald sets PREEMPT on a RUNNING record (R381) -/
  | preemptWrite (die : BitVec 1) (ix : BitVec 8)
  /-- Shogiwald writes STATE := ENDED and the task ends with CAUSE 0xF0 (R381) -/
  | bindRecordEnd (die : BitVec 1) (ix : BitVec 8)
  /-- Dispatch binds a READY record whose cores are free, loading or restoring the context (R383) -/
  | dispatchBind (die : BitVec 1) (ix : BitVec 8)
  /-- A pre-emption request reaches a core, which halts at its next bundle boundary (R395) -/
  | preemptArrival
  /-- A quiescent core writes its context, and the record becomes SAVED when all cores have written (R398) -/
  | contextSave
  /-- After HALT, everything in flight finishes and the task ends DONE (R172) -/
  | haltComplete
  /-- The leader's and checker's signatures of one cycle are compared (R408) -/
  | signatureCompare
  /-- The SEG bundle issues again 32 + 2n cycles after the rewind began (R413) -/
  | rewindReissue
  /-- An uncorrectable error withholds data and returns an abort completion, with an interrupt to Shogiwald (R403) -/
  | abortCompletion
  /-- A background scrub pass reads the words of L2, the cisterns and GDDR7 (R401) -/
  | eccScrub (pa : BitVec 52)
  /-- A bit error strikes a stored word of an array, which its check code then corrects, detects or, in a pair, makes the signatures differ (R401) -/
  | softError (unc : Bool) (arr : BitVec 4) (core : BitVec 9) (ix : BitVec 52)
  /-- Creates an address space and returns its ASID (R429) -/
  | ascreate
  /-- Releases an address space in which no job runs (R429) -/
  | asdestroy (asid : BitVec 16)
  /-- Loads a linked TOF into an address space (R429) -/
  | load (asid : BitVec 16) (va : BitVec 48) (len : BitVec 48) (dst : BitVec 16)
  /-- Maps deferred pages, host pages or the BAR4 window (R429) -/
  | map (kind : BitVec 8) (asid : BitVec 16) (va : BitVec 48) (len : BitVec 48) (bus : BitVec 52) (attr : BitVec 16)
  /-- Makes a launch queue valid (R429) -/
  | qcreate (q : BitVec 6) (log : BitVec 5) (cls : BitVec 3) (res : Bool) (asid : BitVec 16) (base : BitVec 26)
  /-- Stops a launch queue (R429) -/
  | qdestroy (q : BitVec 6)
  /-- Reads a drive extent into object pages (R434) -/
  | drvread (drive : BitVec 1) (lba : BitVec 64) (asid : BitVec 16) (oid : BitVec 32) (page : BitVec 32) (cnt : BitVec 32)
  /-- Writes object pages to a drive extent (R434) -/
  | drvwrite (drive : BitVec 1) (lba : BitVec 64) (asid : BitVec 16) (oid : BitVec 32) (page : BitVec 32) (cnt : BitVec 32)
  /-- Returns a signed attestation report bound to a nonce (R438) -/
  | attest (nonce : BitVec 256)
  /-- Ends every task of a job as ENDED with CAUSE 0xF0 (R429) -/
  | jobend (job : BitVec 32)
  /-- An NVMe command completes, and the mailbox command becomes DONE or FAILED (R434) -/
  | driveCompletion (ok : Bool) (data : List (BitVec 8))
  /-- The host's doorbell write posts launch records, or sets ERR when the count is out of range (R430) -/
  | qhead (q : BitVec 6) (v : BitVec 64)
  /-- A host write to a BAR0 register without behaviour of its own, discarded while READY is 0 (R428) -/
  | barRegisterWrite (off : BitVec 16) (v : BitVec 64)
  /-- A host access through the BAR4 window to device memory, or all-ones where unmapped (R427) -/
  | bar4Access (write : Bool) (off : BitVec 36) (v : BitVec 64)
  /-- Ends all jobs, releases spaces and queues and clears the journal (R433) -/
  | functionLevelReset
  /-- Runs the boot sequence (R437) -/
  | conventionalReset (bootErr : BitVec 8) (fabric : Bool)
  /-- A port fails 16 consecutive retries of one flit and goes down (R435) -/
  | fabricPortDown (port : BitVec 4)
  /-- A package loses reach to a package holding tasks of a job, which is ended (R436) -/
  | packageUnreachable (pkg : BitVec 10)
  /-- A DET job's packages drift apart by more than 2 ns, and the job is ended (R436) -/
  | strokeDrift
  /-- A die nears its thermal limit, and clocks are lowered or tasks pre-empted (R439) -/
  | thermalNearLimit (die : BitVec 1) (preempt : Bool)
  /-- The module passes its absolute limit, stops every core and ends every job (R439) -/
  | thermalAbsoluteLimit
  /-- The host writes a launch record into a launch-queue ring in BAR2 (R430) -/
  | launchRingWrite (off : BitVec 26) (v : BitVec 64)
  /-- A doorbell write submits a mailbox command with an unknown opcode or non-zero bytes 1 to 7, which is refused, or is discarded while BUSY is 1 (R429) -/
  | mbxdb (v : BitVec 64)
  deriving DecidableEq, Repr

end Sys2Proof
end

