-- ==== Sys2Proof/WellFormed.lean ====
section
/-! DEFINITION. Encoding checks of one operation (03 R89): a value these refuse raises ENC at issue whatever the
guard. The checks depend on the encoding alone. -/

namespace Sys2Proof

/-- Is this format code one of Table 1 of 02? -/
def fmtOk (f : BitVec 5) : Bool := (Fmt.ofCode f.toNat).isSome

/-- The control-register numbers of 01 Table 5 (R24). -/
def ctlExists (n : Nat) : Bool :=
  decide (n ≤ 0x1D) || (decide (0x20 ≤ n) && decide (n ≤ 0x27)) || (decide (0x40 ≤ n) && decide (n ≤ 0x7F))

/-- What a V operation does with its fields (07 Tables 2, 4, 6). -/
structure VSpec where
  /-- accepted fmt -/
  fmts : List Fmt
  /-- how many of sa, sb, sc are sources -/
  n : Nat
  /-- imm14 has a meaning of its own, and these values are accepted -/
  immOwn : Bool := false
  immOk : Nat → Bool := fun k => k == 0
  /-- xs has a meaning of its own -/
  xsOwn : Bool := false
  /-- sat is accepted -/
  sat : Fmt → Bool := fun _ => false
  /-- 0: t free, 1: t must be 0, 2: t must be 1 -/
  tmode : Nat := 0
  /-- rnd 5 raises ENC: the operation rounds a binary result (02 Table 3) -/
  rounds : Fmt → Bool := fun _ => false
  /-- the mask operand: 0 none, 2 sb, 3 sc -/
  mask : Nat := 0

/-- Classes of 07 R219. -/
def fmtsI : List Fmt := [.int8, .uint8, .int16, .int32, .int64]
/-- Signed integer formats. -/
def fmtsIs : List Fmt := [.int8, .int16, .int32, .int64]
/-- BF16, FP16, FP32, FP64. -/
def fmtsF : List Fmt := [.bf16, .fp16, .fp32, .fp64]
/-- BF16, FP16, FP32. -/
def fmtsF3 : List Fmt := [.bf16, .fp16, .fp32]
/-- Every format of 8 bits or more. -/
def fmtsW : List Fmt :=
  [.int8, .uint8, .int16, .int32, .int64, .e4m3, .e5m2, .bf16, .fp16, .fp32, .fp64, .dec64]
/-- Every format. -/
def fmtsAll : List Fmt := .tern2 :: .mask1 :: fmtsW
/-- Formats of 8, 16 or 32 bits (07 R226). -/
def fmtsN : List Fmt := [.int8, .uint8, .int16, .int32, .e4m3, .e5m2, .bf16, .fp16, .fp32]
/-- Formats of the reductions and the scan (07 R226). -/
def fmtsRed : List Fmt := [.int8, .uint8, .int16, .int32, .bf16, .fp16, .fp32]

/-- Integer add, multiply and their fused forms, min and max of binary: rounding ones. -/
def arith (n : Nat) : VSpec :=
  { fmts := fmtsI ++ fmtsF, n := n, sat := Fmt.isInt, rounds := Fmt.isBin }

/-- The special functions of one operand (07 R224). -/
def special (n : Nat) : VSpec := { fmts := fmtsF3, n := n }

/-- The decimal operations (07 R232). -/
def decimal (n : Nat) : VSpec := { fmts := [.dec64], n := n }

/-- An axis operation with an index in imm14, or from X[xs] under bit 6; imm14 bits 13:7 must be 0 (07 R226). Mark: DEDUCED
(log 22): only bits 13:7 raise ENC; bits 5:0 under bit 6, and bits 5:4 of the column forms, are not read. -/
def axisIx (tmode : Nat) : VSpec :=
  { fmts := fmtsN, n := 1, immOwn := true, immOk := fun i => decide (i < 128), xsOwn := true, tmode := tmode }

/-- A reduction or the scan: imm14 bits 1:0 choose the operation, bits 13:7 must be 0; only an add rounds (07 R226). -/
def axisRed (tmode : Nat) (v : VArgs) : VSpec :=
  { fmts := fmtsRed, n := 1, immOwn := true, immOk := fun i => decide (i < 128) && i % 4 != 3, sat := Fmt.isInt, tmode := tmode,
    rounds := fun f => f.isBin && v.imm.toNat % 4 == 0 }

/-- May the source code stand for a data operand? (03 Table 5, 07 R212) -/
def srcOk (s : VSpec) (f : Fmt) (v : VArgs) (c : Nat) : Bool :=
  decide (c < 12) && (c != 9 || !s.immOwn) && (c != 8 || !s.xsOwn) &&
    (c != 11 || ((f == .fp32 || f == .int32) && !v.t))

/-- May the source code stand for a mask operand? (07 R221) -/
def maskOk (c : Nat) : Bool := decide (c ≤ 8) || c == 10

/-- The encoding checks of a V operation: `src` is its source format. -/
def vOk (s : VSpec) (src : Fmt) (v : VArgs) : Bool :=
  let f := fmtOf v.fmt.toNat
  let codes := [v.sa.toNat, v.sb.toNat, v.sc.toNat]
  let used := codes.take s.n
  let data := if s.mask = 0 then used else used.eraseIdx (s.mask - 1)
  fmtOk v.fmt && s.fmts.contains f &&
  data.all (srcOk s src v) &&
  (s.mask == 0 || maskOk (codes.getD (s.mask - 1) 0)) &&
  (codes.drop s.n).all (fun c => c == 0) &&
  (v.dw.toNat != 4 && decide (v.dw.toNat < 6)) &&
  decide (v.rnd.toNat < 6) && (v.rnd.toNat != 5 || !s.rounds f) &&
  (!v.sat || s.sat f) &&
  (s.tmode != 1 || !v.t) && (s.tmode != 2 || v.t) &&
  (if s.immOwn then s.immOk v.imm.toNat
   else if data.contains 9 then s.mask == 0 || s.immOk v.imm.toNat else v.imm.toNat == 0) &&
  (s.xsOwn || used.contains 8 || v.xs == 0) &&
  v.pat == 0

/-- VEXPQ (07 R225). -/
def vexpqOk (v : VArgs) : Bool :=
  let ok (c : Nat) : Bool := decide (c < 12) && c != 8 && c != 9 && (c != 11 || fmtOf v.fmt.toNat == .fp32)
  fmtsF3.contains (fmtOf v.fmt.toNat) && fmtOk v.fmt && ok v.sa.toNat && ok v.sb.toNat && v.sc == 0 &&
  (v.dw.toNat != 4 && decide (v.dw.toNat < 6)) && decide (v.rnd.toNat < 2) && !v.sat && !v.t && v.imm == 0 &&
  v.pat == 0

/-- VCVT (07 R223): the source format stands in imm14 bits 4:0. A conversion from TERN2 or to or from MASK1 never rounds. Mark:
DESIGN CHOICE (log 47): sat 1 on a pair on which R223 gives it no action (wider binary formats, wider integers, into MASK1)
is accepted and acts on nothing. Mark: DESIGN CHOICE (log 59): a conversion that is always exact (BF16 to FP32, INT8 to FP32) counts as
one that rounds, and a reserved rnd raises ENC (02 R54). -/
def vcvtOk (v : VArgs) : Bool :=
  let d := fmtOf v.fmt.toNat
  let s := fmtOf (v.imm.toNat % 32)
  decide (v.imm.toNat < 32) && (Fmt.ofCode v.imm.toNat).isSome && s != d && s != .dec64 && d != .dec64 &&
  (!(v.sat) || !(s.isBin && d.isInt) && d != .tern2) &&
  (!d.isFp8 || decide (v.rnd.toNat < 2)) &&
  vOk { fmts := fmtsAll, n := 1, immOwn := true, immOk := fun _ => true, sat := fun _ => true, rounds := fun _ => (s.isBin || d.isBin) && s != .mask1 && d != .mask1 && s != .tern2 } s v

/-- VSCALE (07 R231). Mark: DEDUCED (log 22): of the codes of sb that R231 does not describe, ZERO stands for a row of zero
exponents by R212, and XS is refused since xs must be 0. -/
def vscaleOk (v : VArgs) : Bool :=
  (v.fmt.toNat == 12 || v.fmt.toNat == 3) && v.sa.toNat == 11 && v.dw.toNat == 4 && !v.t && !v.sat && v.rnd == 0 &&
  v.sc == 0 && v.pat == 0 && v.xs == 0 &&
  (decide (v.sb.toNat < 8) || v.sb.toNat == 10 || v.sb.toNat == 9) &&
  (if v.sb.toNat = 9 then decide (v.imm.toNat < 256) else v.imm == 0)

/-- The encoding checks of each V operation. -/
def Instr.vWf (i : Instr) : Option Bool :=
  let f (v : VArgs) := fmtOf v.fmt.toNat
  match i with
  | .vadd v | .vsub v | .vmul v => some (vOk (arith 2) (f v) v)
  | .vfma v | .vfms v => some (vOk (arith 3) (f v) v)
  | .vmin v | .vmax v => some (vOk { fmts := fmtsI ++ fmtsF, n := 2 } (f v) v)
  | .vabs v | .vneg v => some (vOk { fmts := fmtsIs ++ fmtsF, n := 1, sat := Fmt.isSInt } (f v) v)
  | .vand v | .vor v | .vxor v => some (vOk { fmts := .mask1 :: fmtsI, n := 2 } (f v) v)
  | .vnot v => some (vOk { fmts := .mask1 :: fmtsI, n := 1 } (f v) v)
  | .vshl v | .vshr v | .vsar v => some (vOk { fmts := fmtsI, n := 2 } (f v) v)
  | .vcmp v => some (vOk { fmts := fmtsI ++ fmtsF, n := 2, immOwn := true, immOk := fun k => decide (k < 6) || (k == 6 && !(f v).isInt) } (f v) v)
  | .vsel v => some (vOk { fmts := fmtsW, n := 3, mask := 3, immOk := fun k => decide (k < 8) } (f v) v)
  | .vmsk v => some (vOk { fmts := .mask1 :: fmtsW, n := 2, mask := 2, immOwn := true, immOk := fun k => decide (k < 8) && (k % 4 != 3 || !((f v).isInt || f v == .mask1)) } (f v) v)
  | .vcvt v => some (vcvtOk v)
  | .vclamp v => some (vOk { fmts := fmtsI ++ fmtsF, n := 3 } (f v) v)
  | .vmov v => some (vOk { fmts := fmtsAll, n := 1 } (f v) v)
  | .vsplat v => some (vOk { fmts := fmtsW, n := 1, xsOwn := true } (f v) v)
  | .viota v => some (vOk { fmts := fmtsI, n := 0, immOwn := true, immOk := fun _ => true, xsOwn := true } (f v) v)
  | .vexp v | .vlog2 v | .vrcp v | .vrsq v => some (vOk (special 1) (f v) v)
  | .vexpq v => some (vexpqOk v)
  | .vrefineRcp v => some (vOk { fmts := fmtsF3, n := 2, immOwn := true, immOk := fun k => k == 0, rounds := Fmt.isBin } (f v) v)
  | .vrefineRsq v => some (vOk { fmts := fmtsF3, n := 2, immOwn := true, immOk := fun k => k == 1, rounds := Fmt.isBin } (f v) v)
  | .vrrot v => some (vOk (axisIx 0) (f v) v && (bitAt v.imm 6 || v.xs == 0))
  | .vrbc v => some (vOk (axisIx 0) (f v) v && (bitAt v.imm 6 || v.xs == 0))
  | .vcrot v => some (vOk (axisIx 2) (f v) v && (bitAt v.imm 6 || v.xs == 0))
  | .vcbc v => some (vOk (axisIx 2) (f v) v && (bitAt v.imm 6 || v.xs == 0))
  | .vrred v => some (vOk (axisRed 0 v) (f v) v && (!v.sat || v.imm.toNat % 4 == 0))
  | .vcred v => some (vOk (axisRed 2 v) (f v) v && (!v.sat || v.imm.toNat % 4 == 0))
  | .vrscan v => some (vOk (axisRed 0 v) (f v) v && (!v.sat || v.imm.toNat % 4 == 0))
  -- Mark: DEDUCED (log 22). R228 gives imm14 no meaning but 0, so by R212 every source code stands in VSHUF, IMM with 0 too.
  | .vshuf v => some (vOk { fmts := fmtsN, n := 2 } (f v) { v with pat := 0 } && v.imm == 0)
  | .vscale v => some (vscaleOk v)
  | .dadd v | .dsub v | .dmul v | .dquant v => some (vOk (decimal 2) (f v) v)
  | .dfma v => some (vOk (decimal 3) (f v) v)
  | .drnd v => some (vOk (decimal 1) (f v) v)
  | .dcmp v => some (vOk { fmts := [.dec64], n := 2, immOwn := true, immOk := fun k => decide (k < 7) } .dec64 v)
  | .dcvtTo v => some (vOk { fmts := [.int64, .fp64], n := 1, immOwn := true, immOk := fun k => k == 0 } (f v) v)
  | .dcvtFrom v => some (vOk { fmts := [.int64, .fp64], n := 1, immOwn := true, immOk := fun k => k == 1 } .dec64 v)
  | _ => none

/-- Source and destination endpoint codes a P command allows (09 Table 2), and the flag checks of 09 R270. -/
def pOk (sk dk : List Nat) (p : PArgs) : Bool :=
  let fs := p.flags.toNat
  let s := fs / 8192
  let d := fs / 2048 % 4
  let cv := fs / 1024 % 2
  let cf := fs / 32 % 32
  sk.contains s && dk.contains d && (cv == 1 || cf == 0) && (Fmt.ofCode cf).isSome &&
  (s != 2 || p.hs == 0) && (d != 2 || p.hd == 0)

/-- The encoding checks of an M, P or micro operation. -/
def Instr.mpWf (i : Instr) : Option Bool :=
  match i with
  | .mcall _ _ ovm ov _ =>
    let n := popcount 8 ovm.toNat
    some (decide (n ≤ 6) && ov.toNat / 2 ^ (8 * n) == 0)
  | .mclaim _ slot cnt | .mrel _ slot cnt => some (decide (slot.toNat + cnt.toNat ≤ 63))
  | .mwait _ k t => some (!t || k == 0)
  | .pcopy p | .pbcast p => some (pOk [0, 1, 2] [0, 1, 2] p)
  | .pgatherList p | .pgatherPairs p => some (pOk [0, 2] [0, 1, 2] p)
  | .pscatter p | .preduce p => some (pOk [0, 1, 2] [0, 2] p)
  | .pfill p => some (pOk [0] [0, 1, 2] p)
  | .pinvm p => some (p.hs == 0 && p.hd == 0 && p.flags == 0)
  | .mldb mode _ _ _ _ => some (decide (mode.toNat < 6))
  | .mmac mode _ _ => some (decide (mode.toNat < 6))
  | .mout _ _ _ _ _ _ _ fromma ofmt sat => some (if fromma then ofmt == 0 && !sat else fmtOk ofmt)
  | _ => none

/-- The encoding checks of an S operation. -/
def Instr.sWf (i : Instr) : Bool :=
  match i with
  | .sext _ w _ _ | .zext _ w _ _ => w != 3
  | .afadd _ f _ _ _ | .accres _ f _ _ _ _ | .accrel _ f _ _ _ _ => f != 3
  | .loop _ link _ => link != 0
  | .fence _ _ scope => decide (scope.toNat < 5)
  | .sync _ mask scope =>
    (scope == 1 && decide (mask.toNat < 4096)) || scope == 2 || ((scope == 3 || scope == 4) && mask == 0)
  | .cread _ _ num | .cwrite _ _ num => ctlExists num.toNat
  | .talloc _ _ fmt _ _ | .tsymZero _ _ fmt | .tsymConst _ _ _ fmt | .tretype _ _ fmt => fmtOk fmt
  | .tsymRamp _ _ _ fmt rax => fmtOk fmt && rax != 3
  | .townGive _ _ own => decide (1 ≤ own.toNat ∧ own.toNat ≤ 10)
  | .hmkv _ _ _ _ _ fmt _ => fmtOk fmt || fmt == 31
  | .portsetBind _ _ port | .portsetClr _ port | .portget _ _ _ port => decide (port.toNat < 12)
  | .portadvStep _ _ port _ | .portadvSet _ _ port => decide (port.toNat < 12)
  | .patld _ _ r0 e0 n =>
    decide (1 ≤ n.toNat ∧ n.toNat ≤ 16 ∧ r0.toNat + n.toNat ≤ 16 ∧ e0.toNat + n.toNat ≤ 64)
  | .oalloc _ _ _ _ _ _ fmt geom tier _ => fmtOk fmt && geom != 3 && tier != 3
  | .wlcfg _ _ lv word => decide (lv.toNat < 6 ∧ word.toNat < 11)
  | .wltpl _ _ _ lv tpl => decide (lv.toNat < 6) && tpl != 3
  | .wlrun _ lv => decide (lv.toNat < 6)
  | .wlstat _ _ lv item => decide (item.toNat < 17) && (item.toNat == 15 || decide (lv.toNat < 6))
  | _ => true

/-- An operation whose encoding no rule refuses. -/
def Instr.wf (i : Instr) : Bool :=
  match i.vWf with
  | some b => b
  | none => match i.mpWf with
    | some b => b
    | none => i.sWf

end Sys2Proof
end

