-- ==== Sys2Proof/Decode.lean ====
section
/-! DEFINITION. The decoder, total on any bytes (03 R78 to R94, R105 to R108; 08 Table 3), and after it the encoder,
written from the same encoding tables. -/

namespace Sys2Proof

/-- The fields every S format shares, with bits 35:0 whole (03 Table 3). -/
structure SRaw where
  op  : BitVec 8
  g   : Guard
  sub : BitVec 3
  d   : BitVec 6
  a   : BitVec 6
  lo  : BitVec 36
  deriving DecidableEq, Repr

/-- The 64 bits of an S slot. -/
def SRaw.pack (r : SRaw) : BitVec 64 :=
  (r.op ++ r.g.qp ++ BitVec.ofBool r.g.qn ++ r.sub ++ r.d ++ r.a ++ r.lo : BitVec 64)

/-- The fields of an S slot. -/
def SRaw.unpack (w : BitVec 64) : SRaw :=
  { op := fld w 56 8, g := { qp := fld w 52 4, qn := bitAt w 51 }, sub := fld w 48 3, d := fld w 42 6, a := fld w 36 6,
    lo := fld w 0 36 }

/-- SR bits 35:0: b, cls, zero. -/
def SRaw.loSR (b : BitVec 6) (cls : BitVec 4) : BitVec 36 := (b ++ cls ++ 0#26 : BitVec 36)
/-- SI bits 35:0: cls, imm32. -/
def SRaw.loSI (cls : BitVec 4) (imm : BitVec 32) : BitVec 36 := (cls ++ imm : BitVec 36)
/-- SH bits 35:0: xb, xc, imm24. -/
def SRaw.loSH (xb xc : BitVec 6) (imm : BitVec 24) : BitVec 36 := (xb ++ xc ++ imm : BitVec 36)
/-- SR: field b. -/
def SRaw.b (r : SRaw) : BitVec 6 := fld r.lo 30 6
/-- SR: field cls. -/
def SRaw.cls (r : SRaw) : BitVec 4 := fld r.lo 26 4
/-- SR: the zero field. -/
def SRaw.z26 (r : SRaw) : BitVec 26 := fld r.lo 0 26
/-- SI: field cls (in SB, four bits of its zero field). -/
def SRaw.cls2 (r : SRaw) : BitVec 4 := fld r.lo 32 4
/-- SI and SB: imm32. -/
def SRaw.imm32 (r : SRaw) : BitVec 32 := fld r.lo 0 32
/-- SH: field xb. -/
def SRaw.xb (r : SRaw) : BitVec 6 := fld r.lo 30 6
/-- SH: field xc. -/
def SRaw.xc (r : SRaw) : BitVec 6 := fld r.lo 24 6
/-- SH: imm24. -/
def SRaw.imm24 (r : SRaw) : BitVec 24 := fld r.lo 0 24

/-- The S operation of raw fields, where every unused field is zero and sub is defined (03 R89, Table 11). -/
def decodeSRaw (r : SRaw) : Option Instr :=
  match r.op.toNat with
  | 0x00 => if r.sub = 0 ∧ r.cls = 0 ∧ r.z26 = 0 then some (.add r.g r.d r.a r.b) else none
  | 0x01 => if r.sub = 0 ∧ r.cls = 0 ∧ r.z26 = 0 then some (.sub r.g r.d r.a r.b) else none
  | 0x02 => if r.sub = 0 ∧ r.cls = 0 ∧ r.z26 = 0 then some (.and_ r.g r.d r.a r.b) else none
  | 0x03 => if r.sub = 0 ∧ r.cls = 0 ∧ r.z26 = 0 then some (.or_ r.g r.d r.a r.b) else none
  | 0x04 => if r.sub = 0 ∧ r.cls = 0 ∧ r.z26 = 0 then some (.xor r.g r.d r.a r.b) else none
  | 0x05 => if r.sub = 0 ∧ r.cls = 0 ∧ r.z26 = 0 then some (.shl r.g r.d r.a r.b) else none
  | 0x06 => if r.sub = 0 ∧ r.cls = 0 ∧ r.z26 = 0 then some (.shr r.g r.d r.a r.b) else none
  | 0x07 => if r.sub = 0 ∧ r.cls = 0 ∧ r.z26 = 0 then some (.sar r.g r.d r.a r.b) else none
  | 0x08 => if r.sub = 0 ∧ r.cls = 0 ∧ r.z26 = 0 then some (.mul r.g r.d r.a r.b) else none
  | 0x09 => if r.sub = 0 ∧ r.cls = 0 ∧ r.z26 = 0 then some (.mulh r.g r.d r.a r.b) else none
  | 0x0A => if r.sub = 0 ∧ r.cls = 0 ∧ r.z26 = 0 then some (.mulhu r.g r.d r.a r.b) else none
  | 0x0B => if r.sub = 0 ∧ r.cls = 0 ∧ r.z26 = 0 then some (.div r.g r.d r.a r.b) else none
  | 0x0C => if r.sub = 0 ∧ r.cls = 0 ∧ r.z26 = 0 then some (.divu r.g r.d r.a r.b) else none
  | 0x0D => if r.sub = 0 ∧ r.cls = 0 ∧ r.z26 = 0 then some (.rem r.g r.d r.a r.b) else none
  | 0x0E => if r.sub = 0 ∧ r.cls = 0 ∧ r.z26 = 0 then some (.remu r.g r.d r.a r.b) else none
  | 0x0F => if r.sub = 0 ∧ r.cls = 0 ∧ r.z26 = 0 then some (.min_ r.g r.d r.a r.b) else none
  | 0x10 => if r.sub = 0 ∧ r.cls = 0 ∧ r.z26 = 0 then some (.max_ r.g r.d r.a r.b) else none
  | 0x11 => if r.sub = 0 ∧ r.cls = 0 ∧ r.z26 = 0 then some (.minu r.g r.d r.a r.b) else none
  | 0x12 => if r.sub = 0 ∧ r.cls = 0 ∧ r.z26 = 0 then some (.maxu r.g r.d r.a r.b) else none
  | 0x13 => if r.sub = 0 ∧ r.b = 0 ∧ r.cls = 0 ∧ r.z26 = 0 then some (.clz r.g r.d r.a) else none
  | 0x14 => if r.sub = 0 ∧ r.b = 0 ∧ r.cls = 0 ∧ r.z26 = 0 then some (.popc r.g r.d r.a) else none
  | 0x15 => if bitAt r.sub 2 = false ∧ r.b = 0 ∧ r.cls = 0 ∧ r.z26 = 0 then some (.sext r.g (fld r.sub 0 2) r.d r.a) else none
  | 0x16 => if bitAt r.sub 2 = false ∧ r.b = 0 ∧ r.cls = 0 ∧ r.z26 = 0 then some (.zext r.g (fld r.sub 0 2) r.d r.a) else none
  | 0x17 => if r.sub = 0 ∧ r.cls2 = 0 then some (.addi r.g r.d r.a r.imm32) else none
  | 0x18 => if r.sub = 0 ∧ r.cls2 = 0 then some (.andi r.g r.d r.a r.imm32) else none
  | 0x19 => if r.sub = 0 ∧ r.cls2 = 0 then some (.ori r.g r.d r.a r.imm32) else none
  | 0x1A => if r.sub = 0 ∧ r.cls2 = 0 then some (.xori r.g r.d r.a r.imm32) else none
  | 0x1B => if r.sub = 0 ∧ fld r.imm32 6 26 = 0 ∧ r.cls2 = 0 then some (.shlImm r.g r.d r.a (fld r.imm32 0 6)) else none
  | 0x1C => if r.sub = 0 ∧ fld r.imm32 6 26 = 0 ∧ r.cls2 = 0 then some (.shrImm r.g r.d r.a (fld r.imm32 0 6)) else none
  | 0x1D => if r.sub = 0 ∧ fld r.imm32 6 26 = 0 ∧ r.cls2 = 0 then some (.sarImm r.g r.d r.a (fld r.imm32 0 6)) else none
  | 0x1E => if r.sub = 0 ∧ r.a = 0 ∧ r.cls2 = 0 then some (.movi r.g r.d r.imm32) else none
  | 0x1F => if r.sub = 0 ∧ r.cls2 = 0 then some (.movhi r.g r.d r.a r.imm32) else none
  | 0x20 => if fld r.sub 1 2 = 0 ∧ r.cls = 0 ∧ r.z26 = 0 then some (.fadd r.g (bitAt r.sub 0) r.d r.a r.b) else none
  | 0x21 => if fld r.sub 1 2 = 0 ∧ r.cls = 0 ∧ r.z26 = 0 then some (.fsub r.g (bitAt r.sub 0) r.d r.a r.b) else none
  | 0x22 => if fld r.sub 1 2 = 0 ∧ r.cls = 0 ∧ r.z26 = 0 then some (.fmul r.g (bitAt r.sub 0) r.d r.a r.b) else none
  | 0x23 => if fld r.sub 1 2 = 0 ∧ r.cls = 0 ∧ r.z26 = 0 then some (.ffma r.g (bitAt r.sub 0) r.d r.a r.b) else none
  | 0x24 => if fld r.sub 1 2 = 0 ∧ r.cls = 0 ∧ r.z26 = 0 then some (.fmin r.g (bitAt r.sub 0) r.d r.a r.b) else none
  | 0x25 => if fld r.sub 1 2 = 0 ∧ r.cls = 0 ∧ r.z26 = 0 then some (.fmax r.g (bitAt r.sub 0) r.d r.a r.b) else none
  | 0x26 => if r.sub = 0 ∧ r.b = 0 ∧ r.cls = 0 ∧ r.z26 = 0 then some (.fcvtS2d r.g r.d r.a) else if r.sub = 1 ∧ r.b = 0 ∧ r.cls = 0 ∧ r.z26 = 0 then some (.fcvtD2s r.g r.d r.a) else if r.sub = 2 ∧ r.b = 0 ∧ r.cls = 0 ∧ r.z26 = 0 then some (.fcvtS2l r.g r.d r.a) else if r.sub = 3 ∧ r.b = 0 ∧ r.cls = 0 ∧ r.z26 = 0 then some (.fcvtD2l r.g r.d r.a) else if r.sub = 4 ∧ r.b = 0 ∧ r.cls = 0 ∧ r.z26 = 0 then some (.fcvtL2s r.g r.d r.a) else if r.sub = 5 ∧ r.b = 0 ∧ r.cls = 0 ∧ r.z26 = 0 then some (.fcvtL2d r.g r.d r.a) else none
  | 0x27 => if fld r.sub 1 2 = 0 ∧ fld r.d 4 2 = 0 ∧ r.cls = 0 ∧ r.z26 = 0 then some (.fcmpEq r.g (bitAt r.sub 0) (fld r.d 0 4) r.a r.b) else if fld r.sub 1 2 = 1 ∧ fld r.d 4 2 = 0 ∧ r.cls = 0 ∧ r.z26 = 0 then some (.fcmpLt r.g (bitAt r.sub 0) (fld r.d 0 4) r.a r.b) else if fld r.sub 1 2 = 2 ∧ fld r.d 4 2 = 0 ∧ r.cls = 0 ∧ r.z26 = 0 then some (.fcmpLe r.g (bitAt r.sub 0) (fld r.d 0 4) r.a r.b) else if fld r.sub 1 2 = 3 ∧ fld r.d 4 2 = 0 ∧ r.cls = 0 ∧ r.z26 = 0 then some (.fcmpUn r.g (bitAt r.sub 0) (fld r.d 0 4) r.a r.b) else none
  | 0x28 => if fld r.sub 1 2 = 0 ∧ r.b = 0 ∧ r.cls = 0 ∧ r.z26 = 0 then some (.fclass r.g (bitAt r.sub 0) r.d r.a) else none
  | 0x30 => if r.sub = 0 ∧ fld r.d 4 2 = 0 ∧ r.cls = 0 ∧ r.z26 = 0 then some (.cmpEq r.g (fld r.d 0 4) r.a r.b) else if r.sub = 1 ∧ fld r.d 4 2 = 0 ∧ r.cls = 0 ∧ r.z26 = 0 then some (.cmpNe r.g (fld r.d 0 4) r.a r.b) else if r.sub = 2 ∧ fld r.d 4 2 = 0 ∧ r.cls = 0 ∧ r.z26 = 0 then some (.cmpLt r.g (fld r.d 0 4) r.a r.b) else if r.sub = 3 ∧ fld r.d 4 2 = 0 ∧ r.cls = 0 ∧ r.z26 = 0 then some (.cmpGe r.g (fld r.d 0 4) r.a r.b) else if r.sub = 4 ∧ fld r.d 4 2 = 0 ∧ r.cls = 0 ∧ r.z26 = 0 then some (.cmpLtu r.g (fld r.d 0 4) r.a r.b) else if r.sub = 5 ∧ fld r.d 4 2 = 0 ∧ r.cls = 0 ∧ r.z26 = 0 then some (.cmpGeu r.g (fld r.d 0 4) r.a r.b) else if r.sub = 6 ∧ fld r.d 4 2 = 0 ∧ r.cls = 0 ∧ r.z26 = 0 then some (.cmpBt r.g (fld r.d 0 4) r.a r.b) else none
  | 0x31 => if r.sub = 0 ∧ fld r.d 4 2 = 0 ∧ r.cls2 = 0 then some (.cmpiEq r.g (fld r.d 0 4) r.a r.imm32) else if r.sub = 1 ∧ fld r.d 4 2 = 0 ∧ r.cls2 = 0 then some (.cmpiNe r.g (fld r.d 0 4) r.a r.imm32) else if r.sub = 2 ∧ fld r.d 4 2 = 0 ∧ r.cls2 = 0 then some (.cmpiLt r.g (fld r.d 0 4) r.a r.imm32) else if r.sub = 3 ∧ fld r.d 4 2 = 0 ∧ r.cls2 = 0 then some (.cmpiGe r.g (fld r.d 0 4) r.a r.imm32) else if r.sub = 4 ∧ fld r.d 4 2 = 0 ∧ r.cls2 = 0 then some (.cmpiLtu r.g (fld r.d 0 4) r.a r.imm32) else if r.sub = 5 ∧ fld r.d 4 2 = 0 ∧ r.cls2 = 0 then some (.cmpiGeu r.g (fld r.d 0 4) r.a r.imm32) else if r.sub = 6 ∧ fld r.d 4 2 = 0 ∧ r.cls2 = 0 then some (.cmpiBt r.g (fld r.d 0 4) r.a r.imm32) else none
  | 0x32 => if r.sub = 0 ∧ fld r.d 4 2 = 0 ∧ fld r.a 4 2 = 0 ∧ fld r.b 4 2 = 0 ∧ r.cls = 0 ∧ r.z26 = 0 then some (.plogAnd r.g (fld r.d 0 4) (fld r.a 0 4) (fld r.b 0 4)) else if r.sub = 1 ∧ fld r.d 4 2 = 0 ∧ fld r.a 4 2 = 0 ∧ fld r.b 4 2 = 0 ∧ r.cls = 0 ∧ r.z26 = 0 then some (.plogOr r.g (fld r.d 0 4) (fld r.a 0 4) (fld r.b 0 4)) else if r.sub = 2 ∧ fld r.d 4 2 = 0 ∧ fld r.a 4 2 = 0 ∧ fld r.b 4 2 = 0 ∧ r.cls = 0 ∧ r.z26 = 0 then some (.plogXor r.g (fld r.d 0 4) (fld r.a 0 4) (fld r.b 0 4)) else if r.sub = 3 ∧ fld r.d 4 2 = 0 ∧ fld r.a 4 2 = 0 ∧ fld r.b 4 2 = 0 ∧ r.cls = 0 ∧ r.z26 = 0 then some (.plogAndn r.g (fld r.d 0 4) (fld r.a 0 4) (fld r.b 0 4)) else if r.sub = 4 ∧ fld r.d 4 2 = 0 ∧ fld r.a 4 2 = 0 ∧ fld r.b 4 2 = 0 ∧ r.cls = 0 ∧ r.z26 = 0 then some (.plogOrn r.g (fld r.d 0 4) (fld r.a 0 4) (fld r.b 0 4)) else if r.sub = 5 ∧ fld r.d 4 2 = 0 ∧ fld r.a 4 2 = 0 ∧ fld r.b 4 2 = 0 ∧ r.cls = 0 ∧ r.z26 = 0 then some (.plogNand r.g (fld r.d 0 4) (fld r.a 0 4) (fld r.b 0 4)) else if r.sub = 6 ∧ fld r.d 4 2 = 0 ∧ fld r.a 4 2 = 0 ∧ fld r.b 4 2 = 0 ∧ r.cls = 0 ∧ r.z26 = 0 then some (.plogNor r.g (fld r.d 0 4) (fld r.a 0 4) (fld r.b 0 4)) else if r.sub = 7 ∧ fld r.d 4 2 = 0 ∧ fld r.a 4 2 = 0 ∧ fld r.b 4 2 = 0 ∧ r.cls = 0 ∧ r.z26 = 0 then some (.plogXnor r.g (fld r.d 0 4) (fld r.a 0 4) (fld r.b 0 4)) else none
  | 0x33 => if r.sub = 0 ∧ r.z26 = 0 then some (.sel r.g r.d r.a r.b r.cls) else none
  | 0x34 => if r.sub = 0 ∧ r.a = 0 ∧ r.b = 0 ∧ r.cls = 0 ∧ r.z26 = 0 then some (.movpGet r.g r.d) else if r.sub = 1 ∧ r.d = 0 ∧ r.b = 0 ∧ r.cls = 0 ∧ r.z26 = 0 then some (.movpPut r.g r.a) else if r.sub = 2 ∧ fld r.a 4 2 = 0 ∧ r.b = 0 ∧ r.cls = 0 ∧ r.z26 = 0 then some (.movpQx r.g r.d (fld r.a 0 4)) else if r.sub = 3 ∧ fld r.d 4 2 = 0 ∧ r.b = 0 ∧ r.cls = 0 ∧ r.z26 = 0 then some (.movpXq r.g (fld r.d 0 4) r.a) else none
  | 0x40 => if r.sub = 0 ∧ r.d = 0 ∧ r.a = 0 ∧ r.cls2 = 0 then some (.br r.g r.imm32) else none
  | 0x41 => if r.sub = 0 ∧ r.d = 0 ∧ r.b = 0 ∧ r.cls = 0 ∧ r.z26 = 0 then some (.brx r.g r.a) else none
  | 0x42 => if r.sub = 0 ∧ r.a = 0 ∧ r.cls2 = 0 then some (.call r.g r.d r.imm32) else none
  | 0x43 => if r.sub = 0 ∧ r.d = 0 ∧ r.b = 0 ∧ r.cls = 0 ∧ r.z26 = 0 then some (.ret r.g r.a) else none
  | 0x44 => if r.sub = 0 ∧ r.a = 0 ∧ r.cls2 = 0 then some (.loop r.g r.d r.imm32) else none
  | 0x50 => some (.ld r.g (bitAt r.sub 2) (fld r.sub 0 2) r.d r.a r.cls2 r.imm32)
  | 0x51 => some (.st r.g (bitAt r.sub 2) (fld r.sub 0 2) r.d r.a r.cls2 r.imm32)
  | 0x52 => if fld r.xc 4 2 = 0 then some (.ldw r.g (bitAt r.sub 2) (fld r.sub 0 2) r.d r.a r.xb (fld r.xc 0 4) (fld r.imm24 20 4) (fld r.imm24 0 20)) else none
  | 0x53 => if fld r.sub 0 2 = 0 ∧ r.a = 0 ∧ r.xc = 0 then some (.ldh r.g (bitAt r.sub 2) r.d r.xb (fld r.imm24 20 4) (fld r.imm24 0 20)) else none
  | 0x54 => if fld r.sub 0 2 = 0 ∧ r.d = 0 ∧ r.xc = 0 then some (.sth r.g (bitAt r.sub 2) r.a r.xb (fld r.imm24 20 4) (fld r.imm24 0 20)) else none
  | 0x60 => if fld r.sub 1 2 = 1 ∧ r.z26 = 0 then some (.aadd r.g (bitAt r.sub 0) r.d r.a r.b r.cls) else none
  | 0x61 => if bitAt r.sub 1 = true ∧ r.z26 = 0 then some (.amax r.g (bitAt r.sub 0) (bitAt r.sub 2) r.d r.a r.b r.cls) else none
  | 0x62 => if bitAt r.sub 1 = true ∧ r.z26 = 0 then some (.amin r.g (bitAt r.sub 0) (bitAt r.sub 2) r.d r.a r.b r.cls) else none
  | 0x63 => if fld r.sub 1 2 = 1 ∧ r.z26 = 0 then some (.axchg r.g (bitAt r.sub 0) r.d r.a r.b r.cls) else none
  | 0x64 => if fld r.sub 1 2 = 1 ∧ r.z26 = 0 then some (.acas r.g (bitAt r.sub 0) r.d r.a r.b r.cls) else none
  | 0x65 => if bitAt r.sub 2 = false ∧ r.d = 0 ∧ r.z26 = 0 then some (.afadd r.g (fld r.sub 0 2) r.a r.b r.cls) else none
  | 0x66 => if bitAt r.sub 2 = false ∧ r.z26 = 0 then some (.accres r.g (fld r.sub 0 2) r.d r.a r.b r.cls) else none
  | 0x67 => if bitAt r.sub 2 = false ∧ r.z26 = 0 then some (.accrel r.g (fld r.sub 0 2) r.d r.a r.b r.cls) else none
  | 0x70 => if r.sub = 0 ∧ fld r.imm32 19 13 = 0 ∧ r.d = 0 ∧ r.a = 0 ∧ r.cls2 = 0 then some (.fence r.g (fld r.imm32 0 16) (fld r.imm32 16 3)) else none
  | 0x71 => if r.sub = 0 ∧ fld r.imm32 19 13 = 0 ∧ r.d = 0 ∧ r.a = 0 ∧ r.cls2 = 0 then some (.sync r.g (fld r.imm32 0 16) (fld r.imm32 16 3)) else none
  | 0x72 => if r.sub = 0 ∧ r.b = 0 ∧ r.cls = 0 ∧ r.z26 = 0 then some (.stkwait r.g r.d r.a) else none
  | 0x73 => if r.d = 0 ∧ r.cls2 = 0 then some (.pwait r.g r.sub r.a r.imm32) else none
  | 0x74 => if r.sub = 0 ∧ r.d = 0 ∧ r.xb = 0 ∧ r.xc = 0 ∧ r.imm24 = 0 then some (.owait r.g r.a) else none
  | 0x75 => if r.sub = 0 ∧ r.a = 0 ∧ r.cls2 = 0 then some (.cread r.g r.d r.imm32) else none
  | 0x76 => if r.sub = 0 ∧ r.d = 0 ∧ r.cls2 = 0 then some (.cwrite r.g r.a r.imm32) else none
  | 0x77 => if r.sub = 0 ∧ r.d = 0 ∧ r.a = 0 ∧ r.cls2 = 0 then some (.trap r.g r.imm32) else none
  | 0x78 => if r.sub = 0 ∧ r.d = 0 ∧ r.a = 0 ∧ r.b = 0 ∧ r.cls = 0 ∧ r.z26 = 0 then some (.tret r.g) else none
  | 0x79 => if r.sub = 0 ∧ r.d = 0 ∧ r.a = 0 ∧ r.b = 0 ∧ r.cls = 0 ∧ r.z26 = 0 then some (.halt r.g) else none
  | 0x7A => if r.sub = 0 ∧ r.d = 0 ∧ r.a = 0 ∧ r.xc = 0 ∧ r.imm24 = 0 then some (.launch r.g r.xb) else none
  | 0x80 => if r.sub = 0 ∧ fld r.imm24 7 17 = 0 ∧ r.d = 0 ∧ r.xb = 0 ∧ r.xc = 0 then some (.talloc r.g r.a (fld r.imm24 0 5) (bitAt r.imm24 5) (bitAt r.imm24 6)) else none
  | 0x81 => if r.sub = 0 ∧ r.d = 0 ∧ r.xb = 0 ∧ r.xc = 0 ∧ r.imm24 = 0 then some (.tfree r.g r.a) else none
  | 0x82 => if r.sub = 0 ∧ fld r.imm24 5 19 = 0 ∧ r.d = 0 ∧ r.xb = 0 ∧ r.xc = 0 then some (.tsymZero r.g r.a (fld r.imm24 0 5)) else if r.sub = 1 ∧ fld r.imm24 5 19 = 0 ∧ r.d = 0 ∧ r.xc = 0 then some (.tsymConst r.g r.a r.xb (fld r.imm24 0 5)) else if r.sub = 2 ∧ fld r.imm24 7 17 = 0 ∧ r.d = 0 ∧ r.xc = 0 then some (.tsymRamp r.g r.a r.xb (fld r.imm24 0 5) (fld r.imm24 5 2)) else if r.sub = 3 ∧ r.xb = 0 ∧ r.xc = 0 ∧ r.imm24 = 0 then some (.tsymRepeat r.g r.d r.a) else none
  | 0x83 => if r.sub = 0 ∧ r.xb = 0 ∧ r.xc = 0 ∧ r.imm24 = 0 then some (.tprobeLo r.g r.d r.a) else if r.sub = 1 ∧ r.xb = 0 ∧ r.xc = 0 ∧ r.imm24 = 0 then some (.tprobeHi r.g r.d r.a) else none
  | 0x84 => if r.sub = 0 ∧ fld r.imm24 5 19 = 0 ∧ r.d = 0 ∧ r.xb = 0 ∧ r.xc = 0 then some (.tretype r.g r.a (fld r.imm24 0 5)) else none
  | 0x85 => if r.sub = 0 ∧ fld r.imm24 4 20 = 0 ∧ r.d = 0 ∧ r.xb = 0 ∧ r.xc = 0 then some (.townGive r.g r.a (fld r.imm24 0 4)) else if r.sub = 1 ∧ fld r.imm24 4 20 = 0 ∧ r.d = 0 ∧ r.xb = 0 ∧ r.xc = 0 then some (.townTake r.g r.a (fld r.imm24 0 4)) else none
  | 0x86 => if r.sub = 0 ∧ fld r.imm24 2 2 = 0 ∧ fld r.imm24 6 18 = 0 ∧ r.d = 0 ∧ r.xb = 0 ∧ r.xc = 0 then some (.tflag r.g r.a (bitAt r.imm24 0) (bitAt r.imm24 1) (bitAt r.imm24 4) (bitAt r.imm24 5)) else none
  | 0x87 => if r.sub = 0 ∧ fld r.imm24 10 14 = 0 ∧ r.xc = 0 then some (.tld r.g r.d r.a r.xb (fld r.imm24 0 10)) else none
  | 0x88 => if r.sub = 0 ∧ fld r.imm24 10 14 = 0 ∧ r.d = 0 then some (.tst r.g r.a r.xb r.xc (fld r.imm24 0 10)) else none
  | 0x90 => if r.sub = 0 ∧ r.xb = 0 ∧ r.xc = 0 ∧ r.imm24 = 0 then some (.hmov r.g r.d r.a) else none
  | 0x91 => if r.sub = 0 ∧ fld r.imm24 2 22 = 0 ∧ r.a = 0 ∧ r.xc = 0 then some (.hset r.g r.d r.xb (fld r.imm24 0 2)) else none
  | 0x92 => if r.sub = 0 ∧ fld r.imm24 2 22 = 0 ∧ r.xb = 0 ∧ r.xc = 0 then some (.hget r.g r.d r.a (fld r.imm24 0 2)) else none
  | 0x93 => if r.sub = 0 ∧ fld r.imm24 12 12 = 0 ∧ r.a = 0 ∧ r.xc = 0 then some (.hmkt r.g r.d r.xb (fld r.imm24 0 12)) else none
  | 0x94 => if r.sub = 0 ∧ r.a = 0 then some (.hmkw r.g r.d r.xb r.xc (fld r.imm24 0 24)) else none
  | 0x95 => if r.sub = 0 ∧ fld r.imm24 6 18 = 0 then some (.hmkv r.g r.d r.a r.xb r.xc (fld r.imm24 0 5) (bitAt r.imm24 5)) else none
  | 0x96 => if r.sub = 0 ∧ fld r.imm24 0 20 = 0 ∧ r.d = 0 ∧ r.xb = 0 ∧ r.xc = 0 then some (.portsetBind r.g r.a (fld r.imm24 20 4)) else if r.sub = 1 ∧ fld r.imm24 0 20 = 0 ∧ r.d = 0 ∧ r.a = 0 ∧ r.xb = 0 ∧ r.xc = 0 then some (.portsetClr r.g (fld r.imm24 20 4)) else none
  | 0x97 => if r.sub = 0 ∧ fld r.imm24 0 20 = 0 ∧ r.a = 0 ∧ r.xb = 0 then some (.portget r.g r.d r.xc (fld r.imm24 20 4)) else none
  | 0x98 => if r.sub = 0 ∧ r.d = 0 ∧ r.a = 0 ∧ r.xc = 0 then some (.portadvStep r.g r.xb (fld r.imm24 20 4) (fld r.imm24 0 20)) else if r.sub = 1 ∧ fld r.imm24 0 20 = 0 ∧ r.d = 0 ∧ r.a = 0 ∧ r.xc = 0 then some (.portadvSet r.g r.xb (fld r.imm24 20 4)) else none
  | 0x99 => if r.sub = 0 ∧ r.b = 0 ∧ r.cls = 0 ∧ r.z26 = 0 then some (.stgPut r.g r.d r.a) else if r.sub = 1 ∧ r.b = 0 ∧ r.cls = 0 ∧ r.z26 = 0 then some (.stgGet r.g r.d r.a) else none
  | 0x9A => if r.sub = 0 ∧ fld r.d 3 3 = 0 ∧ r.b = 0 ∧ r.cls = 0 ∧ r.z26 = 0 then some (.maput r.g (fld r.d 0 3) r.a) else none
  | 0x9B => if r.sub = 0 ∧ fld r.imm24 15 9 = 0 ∧ r.d = 0 ∧ r.xb = 0 ∧ r.xc = 0 then some (.patld r.g r.a (fld r.imm24 0 4) (fld r.imm24 4 6) (fld r.imm24 10 5)) else none
  | 0x9C => if r.sub = 0 ∧ r.d = 0 ∧ r.a = 0 ∧ r.cls2 = 0 ∧ r.imm32 = 0 then some (.patsw r.g) else none
  | 0xA0 => if r.sub = 0 ∧ fld r.xc 4 2 = 0 ∧ fld r.imm24 15 9 = 0 ∧ r.a = 0 then some (.oalloc r.g r.d r.xb (fld r.xc 0 4) (fld r.imm24 0 4) (bitAt r.imm24 4) (fld r.imm24 5 5) (fld r.imm24 10 2) (fld r.imm24 12 2) (bitAt r.imm24 14)) else none
  | 0xA1 => if r.sub = 0 ∧ r.xb = 0 ∧ r.xc = 0 ∧ r.imm24 = 0 then some (.oref r.g r.d r.a) else none
  | 0xA2 => if r.sub = 0 ∧ r.d = 0 ∧ r.xb = 0 ∧ r.xc = 0 ∧ r.imm24 = 0 then some (.odrop r.g r.a) else none
  | 0xA3 => if r.sub = 0 ∧ r.xb = 0 ∧ r.xc = 0 ∧ r.imm24 = 0 then some (.oweak r.g r.d r.a) else none
  | 0xA4 => if r.sub = 0 ∧ fld r.xc 4 2 = 0 ∧ r.d = 0 ∧ r.xb = 0 ∧ r.imm24 = 0 then some (.ounweak r.g r.a (fld r.xc 0 4)) else none
  | 0xA5 => if r.sub = 0 ∧ fld r.xc 4 2 = 0 ∧ r.xb = 0 ∧ r.imm24 = 0 then some (.oupg r.g r.d r.a (fld r.xc 0 4)) else none
  | 0xA6 => if r.sub = 0 ∧ fld r.xc 4 2 = 0 ∧ fld r.imm24 4 20 = 0 ∧ r.d = 0 ∧ r.xb = 0 then some (.oprio r.g r.a (fld r.xc 0 4) (fld r.imm24 0 4)) else none
  | 0xA7 => if r.sub = 0 ∧ fld r.imm24 2 22 = 0 ∧ r.xb = 0 ∧ r.xc = 0 then some (.ostat r.g r.d r.a (fld r.imm24 0 2)) else none
  | 0xB0 => if r.sub = 0 ∧ r.d = 0 ∧ r.a = 0 ∧ r.xb = 0 ∧ r.xc = 0 ∧ r.imm24 = 0 then some (.ktclr r.g) else none
  | 0xB1 => if r.sub = 0 ∧ r.a = 0 ∧ r.imm24 = 0 then some (.ktadd r.g r.d r.xb r.xc) else none
  | 0xB2 => if r.sub = 0 ∧ r.d = 0 ∧ r.a = 0 ∧ r.imm24 = 0 then some (.ktset r.g r.xb r.xc) else none
  | 0xB3 => if r.sub = 0 ∧ r.a = 0 ∧ r.xc = 0 ∧ r.imm24 = 0 then some (.ktgetNode r.g r.d r.xb) else if r.sub = 1 ∧ r.a = 0 ∧ r.xc = 0 ∧ r.imm24 = 0 then some (.ktgetDepth r.g r.d r.xb) else if r.sub = 2 ∧ r.a = 0 ∧ r.xb = 0 ∧ r.xc = 0 ∧ r.imm24 = 0 then some (.ktgetNodes r.g r.d) else none
  | 0xB4 => if r.sub = 0 ∧ r.d = 0 ∧ r.imm24 = 0 then some (.ktanc r.g r.a r.xb r.xc) else none
  | 0xB5 => if r.sub = 0 ∧ r.d = 0 ∧ r.xc = 0 ∧ r.imm24 = 0 then some (.ktpos r.g r.a r.xb) else none
  | 0xB6 => if r.sub = 0 ∧ r.imm24 = 0 then some (.ktprune r.g r.d r.a r.xb r.xc) else none
  | 0xB8 => if r.sub = 0 ∧ fld r.imm24 7 17 = 0 ∧ r.d = 0 ∧ r.a = 0 ∧ r.xc = 0 then some (.wlcfg r.g r.xb (fld r.imm24 0 3) (fld r.imm24 3 4)) else none
  | 0xB9 => if r.sub = 0 ∧ fld r.imm24 5 19 = 0 ∧ r.d = 0 ∧ r.a = 0 then some (.wltpl r.g r.xb r.xc (fld r.imm24 0 3) (fld r.imm24 3 2)) else none
  | 0xBA => if r.sub = 0 ∧ fld r.imm24 3 21 = 0 ∧ r.d = 0 ∧ r.a = 0 ∧ r.xb = 0 ∧ r.xc = 0 then some (.wlrun r.g (fld r.imm24 0 3)) else none
  | 0xBB => if r.sub = 0 ∧ r.d = 0 ∧ r.a = 0 ∧ r.xb = 0 ∧ r.xc = 0 ∧ r.imm24 = 0 then some (.wlstop r.g) else none
  | 0xBC => if r.sub = 0 ∧ fld r.imm24 8 16 = 0 ∧ r.a = 0 ∧ r.xb = 0 ∧ r.xc = 0 then some (.wlstat r.g r.d (fld r.imm24 0 3) (fld r.imm24 3 5)) else none
  | 0xBD => if r.sub = 0 ∧ r.d = 0 ∧ r.a = 0 ∧ r.xc = 0 ∧ r.imm24 = 0 then some (.setseq r.g r.xb) else none
  | _ => none

/-- The fields of a V slot (03 Table 4). -/
def unpackV (w : BitVec 64) : VArgs :=
  { g := { qp := fld w 52 4, qn := bitAt w 51 }, fmt := fld w 46 5, rnd := fld w 43 3, sa := fld w 39 4, sb := fld w 35 4,
    sc := fld w 31 4, dw := fld w 28 3, sat := bitAt w 27, t := bitAt w 26, xs := fld w 20 6, pat := fld w 14 6,
    imm := fld w 0 14 }

/-- The 64 bits of a V slot. -/
def packV (op : BitVec 8) (v : VArgs) : BitVec 64 :=
  (op ++ v.g.qp ++ BitVec.ofBool v.g.qn ++ v.fmt ++ v.rnd ++ v.sa ++ v.sb ++ v.sc ++ v.dw ++ BitVec.ofBool v.sat ++
    BitVec.ofBool v.t ++ v.xs ++ v.pat ++ v.imm : BitVec 64)

/-- The V operation of an opcode value (03 Table 13). -/
def decodeVOp (op : Nat) (v : VArgs) : Option Instr :=
  match op with
  | 0x00 => some (.vadd v)
  | 0x01 => some (.vsub v)
  | 0x02 => some (.vmul v)
  | 0x03 => some (.vfma v)
  | 0x04 => some (.vfms v)
  | 0x05 => some (.vmin v)
  | 0x06 => some (.vmax v)
  | 0x07 => some (.vabs v)
  | 0x08 => some (.vneg v)
  | 0x09 => some (.vand v)
  | 0x0A => some (.vor v)
  | 0x0B => some (.vxor v)
  | 0x0C => some (.vnot v)
  | 0x0D => some (.vshl v)
  | 0x0E => some (.vshr v)
  | 0x0F => some (.vsar v)
  | 0x10 => some (.vcmp v)
  | 0x11 => some (.vsel v)
  | 0x12 => some (.vmsk v)
  | 0x13 => some (.vcvt v)
  | 0x14 => some (.vclamp v)
  | 0x15 => some (.vmov v)
  | 0x16 => some (.vsplat v)
  | 0x17 => some (.viota v)
  | 0x40 => some (.vexp v)
  | 0x41 => some (.vexpq v)
  | 0x42 => some (.vlog2 v)
  | 0x43 => some (.vrcp v)
  | 0x44 => some (.vrsq v)
  | 0x45 => some (if bitAt v.imm 0 then .vrefineRsq v else .vrefineRcp v)
  | 0x48 => some (.vrrot v)
  | 0x49 => some (.vcrot v)
  | 0x4A => some (.vrbc v)
  | 0x4B => some (.vcbc v)
  | 0x4C => some (.vrred v)
  | 0x4D => some (.vcred v)
  | 0x4E => some (.vrscan v)
  | 0x50 => some (.vshuf v)
  | 0x51 => some (.vscale v)
  | 0x60 => some (.dadd v)
  | 0x61 => some (.dsub v)
  | 0x62 => some (.dmul v)
  | 0x63 => some (.dfma v)
  | 0x64 => some (.dquant v)
  | 0x65 => some (.drnd v)
  | 0x66 => some (.dcmp v)
  | 0x67 => some (if bitAt v.imm 0 then .dcvtFrom v else .dcvtTo v)
  | _ => none

/-- The fields of a P slot (03 Table 7). -/
def unpackP (w : BitVec 48) : PArgs :=
  { g := { qp := fld w 38 4, qn := bitAt w 37 }, ch := fld w 34 3, cls := fld w 30 4, set := fld w 27 3, hs := fld w 21 6,
    hd := fld w 15 6, flags := fld w 0 15 }

/-- The 48 bits of a P slot. -/
def packP (op : BitVec 6) (p : PArgs) : BitVec 48 :=
  (op ++ p.g.qp ++ BitVec.ofBool p.g.qn ++ p.ch ++ p.cls ++ p.set ++ p.hs ++ p.hd ++ p.flags : BitVec 48)

/-- The P command of an opcode value (03 R107). PGATHER's mode stands in a staging register: its words decode to the
list form, and issue takes the pair form where S3 says so (09 R277). -/
def decodePOp (op : Nat) (p : PArgs) : Option Instr :=
  match op with
  | 0 => some (.pcopy p) | 1 => some (.pgatherList p) | 2 => some (.pscatter p) | 3 => some (.preduce p)
  | 4 => some (.pbcast p) | 5 => some (.pfill p) | 6 => some (.pinvm p)
  | _ => none

/-- The fields of an M slot (03 Table 6): opcode, guard, RIX, OVM, OV5 to OV0, TAG. -/
structure MRaw where
  op  : BitVec 8
  g   : Guard
  rix : BitVec 10
  ovm : BitVec 8
  ov  : BitVec 48
  tag : Bool
  deriving DecidableEq, Repr

/-- The 80 bits of an M slot. -/
def MRaw.pack (r : MRaw) : BitVec 80 :=
  (r.op ++ r.g.qp ++ BitVec.ofBool r.g.qn ++ r.rix ++ r.ovm ++ r.ov ++ BitVec.ofBool r.tag : BitVec 80)

/-- The fields of an M slot. -/
def MRaw.unpack (w : BitVec 80) : MRaw :=
  { op := fld w 72 8, g := { qp := fld w 68 4, qn := bitAt w 67 }, rix := fld w 57 10, ovm := fld w 49 8, ov := fld w 1 48,
    tag := bitAt w 0 }

/-- The M operation of raw fields (08 Table 1). -/
def decodeMRaw (r : MRaw) : Option Instr :=
  match r.op.toNat with
  | 0 => some (.mcall r.g r.rix r.ovm r.ov r.tag)
  | 1 => if r.ovm = 0 ∧ r.ov = 0 ∧ r.tag = false then some (.mclaim r.g (fld r.rix 0 6) (fld r.rix 6 4)) else none
  | 2 => if r.ovm = 0 ∧ r.ov = 0 ∧ r.tag = false then some (.mrel r.g (fld r.rix 0 6) (fld r.rix 6 4)) else none
  | 3 => if r.ovm = 0 ∧ r.ov = 0 ∧ r.tag = false ∧ fld r.rix 2 7 = 0 then
      some (.mwait r.g (fld r.rix 0 2) (bitAt r.rix 9)) else none
  | _ => none

/-- The fields of a micro-word (08 Table 3). -/
structure URaw where
  uop  : BitVec 6
  form : BitVec 4
  acc  : BitVec 2
  ma   : BitVec 3
  off  : BitVec 6
  s0   : BitVec 4
  s1   : BitVec 4
  arg  : BitVec 35
  deriving DecidableEq, Repr

/-- The 64 bits of a micro-word. -/
def URaw.pack (r : URaw) : BitVec 64 :=
  (r.uop ++ r.form ++ r.acc ++ r.ma ++ r.off ++ r.s0 ++ r.s1 ++ r.arg : BitVec 64)

/-- The fields of a micro-word. -/
def URaw.unpack (w : BitVec 64) : URaw :=
  { uop := fld w 58 6, form := fld w 54 4, acc := fld w 52 2, ma := fld w 49 3, off := fld w 43 6, s0 := fld w 39 4,
    s1 := fld w 35 4, arg := fld w 0 35 }

/-- No address fields. -/
def URaw.noAddr (r : URaw) : Bool := r.ma == 0 && r.off == 0 && r.s0 == 0 && r.s1 == 0

/-- The micro-op of raw fields, every unnamed bit zero (08 R250). -/
def decodeURaw (r : URaw) : Option Instr :=
  match r.uop.toNat with
  | 0x00 => if r.form = 0 ∧ r.acc = 0 ∧ r.noAddr = true ∧ r.arg = 0 then some .mend else none
  | 0x01 => if r.form = 0 ∧ r.acc = 0 ∧ r.arg = 0 then some (.mlda r.ma r.off r.s0 r.s1) else none
  | 0x02 => if bitAt r.form 3 = false ∧ r.acc = 0 ∧ r.arg = 0 then
      some (.mldb (fld r.form 0 3) r.ma r.off r.s0 r.s1) else none
  | 0x03 => if r.noAddr = true ∧ r.arg = 0 then some (.mmac (fld r.form 0 3) (bitAt r.form 3) r.acc) else none
  | 0x04 => if r.form = 0 ∧ r.acc = 0 ∧ r.noAddr = true ∧ fld r.arg 1 34 = 0 then some (.mps (bitAt r.arg 0)) else none
  | 0x05 => if fld r.form 2 2 = 0 ∧ fld r.arg 8 27 = 0 then
      some (.mout r.acc (fld r.form 0 2) r.ma r.off r.s0 r.s1 (bitAt r.arg 0) (bitAt r.arg 1) (fld r.arg 2 5) (bitAt r.arg 7))
      else none
  | 0x06 => if r.form = 0 ∧ r.acc = 0 ∧ r.noAddr = true ∧ fld r.arg 4 31 = 0 then some (.mclr (fld r.arg 0 4)) else none
  | 0x07 => if fld r.form 2 2 = 0 ∧ r.acc = 0 ∧ r.off = 0 ∧ r.s0 = 0 ∧ r.s1 = 0 ∧ fld r.arg 27 8 = 0 then
      some (.mloop (bitAt r.form 0) (bitAt r.form 1) r.ma (fld r.arg 0 11) (fld r.arg 11 16)) else none
  | 0x08 => if r.form = 0 ∧ r.acc = 0 ∧ r.noAddr = true ∧ fld r.arg 11 24 = 0 then some (.mifz (fld r.arg 0 11)) else none
  | 0x09 => if fld r.form 1 3 = 0 ∧ r.acc = 0 ∧ r.off = 0 ∧ r.s0 = 0 ∧ r.s1 = 0 ∧ fld r.arg 12 23 = 0 then
      some (.mscl (fld r.arg 0 4) (fld r.arg 4 8) (bitAt r.form 0) r.ma) else none
  | 0x0A => if r.form = 0 ∧ r.acc = 0 ∧ r.arg = 0 then some (.msig r.ma r.off r.s0 r.s1) else none
  | _ => none

/-- An operation whose encoding checks pass, or nothing. -/
def keepWf (i : Option Instr) : Option Instr :=
  match i with
  | some j => if j.wf then some j else none
  | none => none

/-- The operation of an S slot. -/
def decodeS (w : BitVec 64) : Option Instr := keepWf (decodeSRaw (SRaw.unpack w))
/-- The operation of a V slot. -/
def decodeV (w : BitVec 64) : Option Instr := keepWf (decodeVOp (fld w 56 8).toNat (unpackV w))
/-- The operation of an M slot. -/
def decodeM (w : BitVec 80) : Option Instr := keepWf (decodeMRaw (MRaw.unpack w))
/-- The command of a P slot. -/
def decodeP (w : BitVec 48) : Option Instr := keepWf (decodePOp (fld w 42 6).toNat (unpackP w))
/-- The micro-op of a micro-word. -/
def decodeU (w : BitVec 64) : Option Instr := keepWf (decodeURaw (URaw.unpack w))

/-- The operation of slot `k` (0 S, 1 V0, 2 V1, 3 M, 4 P0, 5 P1) from its parcels, highest bits first (03 R82). -/
def decodeSlot (k : Nat) (ps : List Parcel) : Option Instr :=
  let n := parcelsNat ps
  match k with
  | 0 => decodeS (BitVec.ofNat 64 n)
  | 1 | 2 => decodeV (BitVec.ofNat 64 n)
  | 3 => decodeM (BitVec.ofNat 80 n)
  | _ => decodeP (BitVec.ofNat 48 n)

/-- Parcels of slot `k` (03 R81). -/
def slotLen (k : Nat) : Nat := if k ≤ 2 then 4 else if k = 3 then 5 else 3

/-- A bundle: its header flags, its present slots with the operation of each (none: its encoding is refused), whether
a header bit or an absent field is refused (03 R80, R83), and its length in the parcel stream. -/
structure Bundle where
  mask : BitVec 6
  stop : Bool
  seg  : Bool
  tple : Bool
  bad  : Bool
  ops  : List (Nat × Option Instr)
  len  : Nat
  deriving DecidableEq, Repr

/-- Length in parcels of a literal bundle of this header (03 R81). -/
def literalLen (h : Parcel) : Nat :=
  2 + ((List.range 6).filter (fun k => bitAt h k)).foldl (fun n k => n + slotLen k) 0

/-- The present slots read one after another. -/
def readSlots : List Nat → List Parcel → List (Nat × Option Instr)
  | [], _ => []
  | k :: t, ps => (k, decodeSlot k (ps.take (slotLen k))) :: readSlots t (ps.drop (slotLen k))

/-- A literal bundle from its header and the parcels after it (03 R81). -/
def literalBundle (h : Parcel) (rest : List Parcel) : Bundle :=
  { mask := fld h 0 6, stop := bitAt h 6, seg := bitAt h 7, tple := bitAt h 8, bad := fldN h 9 7 != 0,
    ops := readSlots ((List.range 6).filter (fun k => bitAt h k)) rest, len := literalLen h }

/-- First parcel of slot `k` in a dictionary entry (03 R80). -/
def entryPos (k : Nat) : Nat :=
  match k with | 0 => 1 | 1 => 5 | 2 => 9 | 3 => 13 | 4 => 18 | _ => 21

/-- The bundle of a dictionary entry: one parcel in the stream, an absent field that is not zero is refused. -/
def entryBundle (e : List Parcel) : Bundle :=
  let h := e.headD 0
  let fieldOf (k : Nat) : List Parcel := (e.drop (entryPos k)).take (slotLen k)
  { mask := fld h 0 6, stop := bitAt h 6, seg := bitAt h 7, tple := bitAt h 8,
    bad := fldN h 9 7 != 0 || (List.range 6).any (fun k => !bitAt h k && (fieldOf k).any (fun p => p != 0)),
    ops := ((List.range 6).filter (fun k => bitAt h k)).map (fun k => (k, decodeSlot k (fieldOf k))), len := 1 }

/-- The 24 parcels of a stored dictionary entry. -/
def entryParcels (e : BitVec 384) : List Parcel := tab 24 (fun i => fld e (16 * i) 16)

/-- Parcels 0 to `n - 1` of a parcel stream given as a number, parcel 0 lowest. -/
def streamParcels : Nat → Nat → List Parcel
  | 0, _ => []
  | n + 1, w => BitVec.ofNat 16 w :: streamParcels n (w / 65536)

/-- What a stream of parcels that begins with a literal bundle holds, as one instruction: the single operation of the
bundle, the empty bundle, or a reserved encoding named by its slot (0xF for the leading parcel and the header). -/
def decodeStream (ps : List Parcel) : Option Instr :=
  match ps with
  | p :: h :: rest =>
    if p.toNat < 0x8000 then none
    else if p ≠ 0xFFFF then some (.reservedEncoding 15)
    else
      let b := literalBundle h rest
      if b.bad then some (.reservedEncoding 15)
      else match b.ops with
        | [] => some (.emptyBundle b.seg)
        | [(k, none)] => some (.reservedEncoding (BitVec.ofNat 4 k))
        | [(_, some i)] => some i
        | _ => none
  | _ => none

/-- The instruction of a table word: the parcel stream of a literal bundle, parcel 0 in bits 15:0. -/
def decodeTableWord (_nbits w : Nat) : Option Instr := decodeStream (streamParcels 25 w)

/-- The 64 bits of an S operation (05, 06, 07 R229, R230, 09 R288). -/
def encodeS (i : Instr) : Option (BitVec 64) :=
  match i with
  | .add g d a b => some (SRaw.pack { op := 0x00, g := g, sub := 0, d := d, a := a, lo := SRaw.loSR b 0 })
  | .sub g d a b => some (SRaw.pack { op := 0x01, g := g, sub := 0, d := d, a := a, lo := SRaw.loSR b 0 })
  | .and_ g d a b => some (SRaw.pack { op := 0x02, g := g, sub := 0, d := d, a := a, lo := SRaw.loSR b 0 })
  | .or_ g d a b => some (SRaw.pack { op := 0x03, g := g, sub := 0, d := d, a := a, lo := SRaw.loSR b 0 })
  | .xor g d a b => some (SRaw.pack { op := 0x04, g := g, sub := 0, d := d, a := a, lo := SRaw.loSR b 0 })
  | .shl g d a b => some (SRaw.pack { op := 0x05, g := g, sub := 0, d := d, a := a, lo := SRaw.loSR b 0 })
  | .shr g d a b => some (SRaw.pack { op := 0x06, g := g, sub := 0, d := d, a := a, lo := SRaw.loSR b 0 })
  | .sar g d a b => some (SRaw.pack { op := 0x07, g := g, sub := 0, d := d, a := a, lo := SRaw.loSR b 0 })
  | .mul g d a b => some (SRaw.pack { op := 0x08, g := g, sub := 0, d := d, a := a, lo := SRaw.loSR b 0 })
  | .mulh g d a b => some (SRaw.pack { op := 0x09, g := g, sub := 0, d := d, a := a, lo := SRaw.loSR b 0 })
  | .mulhu g d a b => some (SRaw.pack { op := 0x0A, g := g, sub := 0, d := d, a := a, lo := SRaw.loSR b 0 })
  | .div g d a b => some (SRaw.pack { op := 0x0B, g := g, sub := 0, d := d, a := a, lo := SRaw.loSR b 0 })
  | .divu g d a b => some (SRaw.pack { op := 0x0C, g := g, sub := 0, d := d, a := a, lo := SRaw.loSR b 0 })
  | .rem g d a b => some (SRaw.pack { op := 0x0D, g := g, sub := 0, d := d, a := a, lo := SRaw.loSR b 0 })
  | .remu g d a b => some (SRaw.pack { op := 0x0E, g := g, sub := 0, d := d, a := a, lo := SRaw.loSR b 0 })
  | .min_ g d a b => some (SRaw.pack { op := 0x0F, g := g, sub := 0, d := d, a := a, lo := SRaw.loSR b 0 })
  | .max_ g d a b => some (SRaw.pack { op := 0x10, g := g, sub := 0, d := d, a := a, lo := SRaw.loSR b 0 })
  | .minu g d a b => some (SRaw.pack { op := 0x11, g := g, sub := 0, d := d, a := a, lo := SRaw.loSR b 0 })
  | .maxu g d a b => some (SRaw.pack { op := 0x12, g := g, sub := 0, d := d, a := a, lo := SRaw.loSR b 0 })
  | .clz g d a => some (SRaw.pack { op := 0x13, g := g, sub := 0, d := d, a := a, lo := SRaw.loSR 0 0 })
  | .popc g d a => some (SRaw.pack { op := 0x14, g := g, sub := 0, d := d, a := a, lo := SRaw.loSR 0 0 })
  | .sext g w d a => some (SRaw.pack { op := 0x15, g := g, sub := (0#1 ++ w : BitVec 3), d := d, a := a, lo := SRaw.loSR 0 0 })
  | .zext g w d a => some (SRaw.pack { op := 0x16, g := g, sub := (0#1 ++ w : BitVec 3), d := d, a := a, lo := SRaw.loSR 0 0 })
  | .addi g d a imm => some (SRaw.pack { op := 0x17, g := g, sub := 0, d := d, a := a, lo := SRaw.loSI 0 imm })
  | .andi g d a imm => some (SRaw.pack { op := 0x18, g := g, sub := 0, d := d, a := a, lo := SRaw.loSI 0 imm })
  | .ori g d a imm => some (SRaw.pack { op := 0x19, g := g, sub := 0, d := d, a := a, lo := SRaw.loSI 0 imm })
  | .xori g d a imm => some (SRaw.pack { op := 0x1A, g := g, sub := 0, d := d, a := a, lo := SRaw.loSI 0 imm })
  | .shlImm g d a k => some (SRaw.pack { op := 0x1B, g := g, sub := 0, d := d, a := a, lo := SRaw.loSI 0 (0#26 ++ k : BitVec 32) })
  | .shrImm g d a k => some (SRaw.pack { op := 0x1C, g := g, sub := 0, d := d, a := a, lo := SRaw.loSI 0 (0#26 ++ k : BitVec 32) })
  | .sarImm g d a k => some (SRaw.pack { op := 0x1D, g := g, sub := 0, d := d, a := a, lo := SRaw.loSI 0 (0#26 ++ k : BitVec 32) })
  | .movi g d imm => some (SRaw.pack { op := 0x1E, g := g, sub := 0, d := d, a := 0, lo := SRaw.loSI 0 imm })
  | .movhi g d a imm => some (SRaw.pack { op := 0x1F, g := g, sub := 0, d := d, a := a, lo := SRaw.loSI 0 imm })
  | .fadd g dbl d a b => some (SRaw.pack { op := 0x20, g := g, sub := (0#2 ++ BitVec.ofBool dbl : BitVec 3), d := d, a := a, lo := SRaw.loSR b 0 })
  | .fsub g dbl d a b => some (SRaw.pack { op := 0x21, g := g, sub := (0#2 ++ BitVec.ofBool dbl : BitVec 3), d := d, a := a, lo := SRaw.loSR b 0 })
  | .fmul g dbl d a b => some (SRaw.pack { op := 0x22, g := g, sub := (0#2 ++ BitVec.ofBool dbl : BitVec 3), d := d, a := a, lo := SRaw.loSR b 0 })
  | .ffma g dbl d a b => some (SRaw.pack { op := 0x23, g := g, sub := (0#2 ++ BitVec.ofBool dbl : BitVec 3), d := d, a := a, lo := SRaw.loSR b 0 })
  | .fmin g dbl d a b => some (SRaw.pack { op := 0x24, g := g, sub := (0#2 ++ BitVec.ofBool dbl : BitVec 3), d := d, a := a, lo := SRaw.loSR b 0 })
  | .fmax g dbl d a b => some (SRaw.pack { op := 0x25, g := g, sub := (0#2 ++ BitVec.ofBool dbl : BitVec 3), d := d, a := a, lo := SRaw.loSR b 0 })
  | .fcvtS2d g d a => some (SRaw.pack { op := 0x26, g := g, sub := 0, d := d, a := a, lo := SRaw.loSR 0 0 })
  | .fcvtD2s g d a => some (SRaw.pack { op := 0x26, g := g, sub := 1, d := d, a := a, lo := SRaw.loSR 0 0 })
  | .fcvtS2l g d a => some (SRaw.pack { op := 0x26, g := g, sub := 2, d := d, a := a, lo := SRaw.loSR 0 0 })
  | .fcvtD2l g d a => some (SRaw.pack { op := 0x26, g := g, sub := 3, d := d, a := a, lo := SRaw.loSR 0 0 })
  | .fcvtL2s g d a => some (SRaw.pack { op := 0x26, g := g, sub := 4, d := d, a := a, lo := SRaw.loSR 0 0 })
  | .fcvtL2d g d a => some (SRaw.pack { op := 0x26, g := g, sub := 5, d := d, a := a, lo := SRaw.loSR 0 0 })
  | .fcmpEq g dbl d a b => some (SRaw.pack { op := 0x27, g := g, sub := (0#2 ++ BitVec.ofBool dbl : BitVec 3), d := (0#2 ++ d : BitVec 6), a := a, lo := SRaw.loSR b 0 })
  | .fcmpLt g dbl d a b => some (SRaw.pack { op := 0x27, g := g, sub := (1#2 ++ BitVec.ofBool dbl : BitVec 3), d := (0#2 ++ d : BitVec 6), a := a, lo := SRaw.loSR b 0 })
  | .fcmpLe g dbl d a b => some (SRaw.pack { op := 0x27, g := g, sub := (2#2 ++ BitVec.ofBool dbl : BitVec 3), d := (0#2 ++ d : BitVec 6), a := a, lo := SRaw.loSR b 0 })
  | .fcmpUn g dbl d a b => some (SRaw.pack { op := 0x27, g := g, sub := (3#2 ++ BitVec.ofBool dbl : BitVec 3), d := (0#2 ++ d : BitVec 6), a := a, lo := SRaw.loSR b 0 })
  | .fclass g dbl d a => some (SRaw.pack { op := 0x28, g := g, sub := (0#2 ++ BitVec.ofBool dbl : BitVec 3), d := d, a := a, lo := SRaw.loSR 0 0 })
  | .cmpEq g d a b => some (SRaw.pack { op := 0x30, g := g, sub := 0, d := (0#2 ++ d : BitVec 6), a := a, lo := SRaw.loSR b 0 })
  | .cmpNe g d a b => some (SRaw.pack { op := 0x30, g := g, sub := 1, d := (0#2 ++ d : BitVec 6), a := a, lo := SRaw.loSR b 0 })
  | .cmpLt g d a b => some (SRaw.pack { op := 0x30, g := g, sub := 2, d := (0#2 ++ d : BitVec 6), a := a, lo := SRaw.loSR b 0 })
  | .cmpGe g d a b => some (SRaw.pack { op := 0x30, g := g, sub := 3, d := (0#2 ++ d : BitVec 6), a := a, lo := SRaw.loSR b 0 })
  | .cmpLtu g d a b => some (SRaw.pack { op := 0x30, g := g, sub := 4, d := (0#2 ++ d : BitVec 6), a := a, lo := SRaw.loSR b 0 })
  | .cmpGeu g d a b => some (SRaw.pack { op := 0x30, g := g, sub := 5, d := (0#2 ++ d : BitVec 6), a := a, lo := SRaw.loSR b 0 })
  | .cmpBt g d a b => some (SRaw.pack { op := 0x30, g := g, sub := 6, d := (0#2 ++ d : BitVec 6), a := a, lo := SRaw.loSR b 0 })
  | .cmpiEq g d a imm => some (SRaw.pack { op := 0x31, g := g, sub := 0, d := (0#2 ++ d : BitVec 6), a := a, lo := SRaw.loSI 0 imm })
  | .cmpiNe g d a imm => some (SRaw.pack { op := 0x31, g := g, sub := 1, d := (0#2 ++ d : BitVec 6), a := a, lo := SRaw.loSI 0 imm })
  | .cmpiLt g d a imm => some (SRaw.pack { op := 0x31, g := g, sub := 2, d := (0#2 ++ d : BitVec 6), a := a, lo := SRaw.loSI 0 imm })
  | .cmpiGe g d a imm => some (SRaw.pack { op := 0x31, g := g, sub := 3, d := (0#2 ++ d : BitVec 6), a := a, lo := SRaw.loSI 0 imm })
  | .cmpiLtu g d a imm => some (SRaw.pack { op := 0x31, g := g, sub := 4, d := (0#2 ++ d : BitVec 6), a := a, lo := SRaw.loSI 0 imm })
  | .cmpiGeu g d a imm => some (SRaw.pack { op := 0x31, g := g, sub := 5, d := (0#2 ++ d : BitVec 6), a := a, lo := SRaw.loSI 0 imm })
  | .cmpiBt g d a imm => some (SRaw.pack { op := 0x31, g := g, sub := 6, d := (0#2 ++ d : BitVec 6), a := a, lo := SRaw.loSI 0 imm })
  | .plogAnd g d a b => some (SRaw.pack { op := 0x32, g := g, sub := 0, d := (0#2 ++ d : BitVec 6), a := (0#2 ++ a : BitVec 6), lo := SRaw.loSR (0#2 ++ b : BitVec 6) 0 })
  | .plogOr g d a b => some (SRaw.pack { op := 0x32, g := g, sub := 1, d := (0#2 ++ d : BitVec 6), a := (0#2 ++ a : BitVec 6), lo := SRaw.loSR (0#2 ++ b : BitVec 6) 0 })
  | .plogXor g d a b => some (SRaw.pack { op := 0x32, g := g, sub := 2, d := (0#2 ++ d : BitVec 6), a := (0#2 ++ a : BitVec 6), lo := SRaw.loSR (0#2 ++ b : BitVec 6) 0 })
  | .plogAndn g d a b => some (SRaw.pack { op := 0x32, g := g, sub := 3, d := (0#2 ++ d : BitVec 6), a := (0#2 ++ a : BitVec 6), lo := SRaw.loSR (0#2 ++ b : BitVec 6) 0 })
  | .plogOrn g d a b => some (SRaw.pack { op := 0x32, g := g, sub := 4, d := (0#2 ++ d : BitVec 6), a := (0#2 ++ a : BitVec 6), lo := SRaw.loSR (0#2 ++ b : BitVec 6) 0 })
  | .plogNand g d a b => some (SRaw.pack { op := 0x32, g := g, sub := 5, d := (0#2 ++ d : BitVec 6), a := (0#2 ++ a : BitVec 6), lo := SRaw.loSR (0#2 ++ b : BitVec 6) 0 })
  | .plogNor g d a b => some (SRaw.pack { op := 0x32, g := g, sub := 6, d := (0#2 ++ d : BitVec 6), a := (0#2 ++ a : BitVec 6), lo := SRaw.loSR (0#2 ++ b : BitVec 6) 0 })
  | .plogXnor g d a b => some (SRaw.pack { op := 0x32, g := g, sub := 7, d := (0#2 ++ d : BitVec 6), a := (0#2 ++ a : BitVec 6), lo := SRaw.loSR (0#2 ++ b : BitVec 6) 0 })
  | .sel g d a b q => some (SRaw.pack { op := 0x33, g := g, sub := 0, d := d, a := a, lo := SRaw.loSR b q })
  | .movpGet g d => some (SRaw.pack { op := 0x34, g := g, sub := 0, d := d, a := 0, lo := SRaw.loSR 0 0 })
  | .movpPut g a => some (SRaw.pack { op := 0x34, g := g, sub := 1, d := 0, a := a, lo := SRaw.loSR 0 0 })
  | .movpQx g d a => some (SRaw.pack { op := 0x34, g := g, sub := 2, d := d, a := (0#2 ++ a : BitVec 6), lo := SRaw.loSR 0 0 })
  | .movpXq g d a => some (SRaw.pack { op := 0x34, g := g, sub := 3, d := (0#2 ++ d : BitVec 6), a := a, lo := SRaw.loSR 0 0 })
  | .br g disp => some (SRaw.pack { op := 0x40, g := g, sub := 0, d := 0, a := 0, lo := SRaw.loSI 0 disp })
  | .brx g a => some (SRaw.pack { op := 0x41, g := g, sub := 0, d := 0, a := a, lo := SRaw.loSR 0 0 })
  | .call g link disp => some (SRaw.pack { op := 0x42, g := g, sub := 0, d := link, a := 0, lo := SRaw.loSI 0 disp })
  | .ret g a => some (SRaw.pack { op := 0x43, g := g, sub := 0, d := 0, a := a, lo := SRaw.loSR 0 0 })
  | .loop g link disp => some (SRaw.pack { op := 0x44, g := g, sub := 0, d := link, a := 0, lo := SRaw.loSI 0 disp })
  | .ld g strong w d a cls imm => some (SRaw.pack { op := 0x50, g := g, sub := (BitVec.ofBool strong ++ w : BitVec 3), d := d, a := a, lo := SRaw.loSI cls imm })
  | .st g strong w d a cls imm => some (SRaw.pack { op := 0x51, g := g, sub := (BitVec.ofBool strong ++ w : BitVec 3), d := d, a := a, lo := SRaw.loSI cls imm })
  | .ldw g strong w hd ha xb xc cls off => some (SRaw.pack { op := 0x52, g := g, sub := (BitVec.ofBool strong ++ w : BitVec 3), d := hd, a := ha, lo := SRaw.loSH xb (0#2 ++ xc : BitVec 6) (cls ++ off : BitVec 24) })
  | .ldh g strong hd xb cls off => some (SRaw.pack { op := 0x53, g := g, sub := (BitVec.ofBool strong ++ 0#2 : BitVec 3), d := hd, a := 0, lo := SRaw.loSH xb 0 (cls ++ off : BitVec 24) })
  | .sth g strong ha xb cls off => some (SRaw.pack { op := 0x54, g := g, sub := (BitVec.ofBool strong ++ 0#2 : BitVec 3), d := 0, a := ha, lo := SRaw.loSH xb 0 (cls ++ off : BitVec 24) })
  | .aadd g w64 d a b cls => some (SRaw.pack { op := 0x60, g := g, sub := (1#2 ++ BitVec.ofBool w64 : BitVec 3), d := d, a := a, lo := SRaw.loSR b cls })
  | .amax g w64 u d a b cls => some (SRaw.pack { op := 0x61, g := g, sub := (BitVec.ofBool u ++ 1#1 ++ BitVec.ofBool w64 : BitVec 3), d := d, a := a, lo := SRaw.loSR b cls })
  | .amin g w64 u d a b cls => some (SRaw.pack { op := 0x62, g := g, sub := (BitVec.ofBool u ++ 1#1 ++ BitVec.ofBool w64 : BitVec 3), d := d, a := a, lo := SRaw.loSR b cls })
  | .axchg g w64 d a b cls => some (SRaw.pack { op := 0x63, g := g, sub := (1#2 ++ BitVec.ofBool w64 : BitVec 3), d := d, a := a, lo := SRaw.loSR b cls })
  | .acas g w64 d a b cls => some (SRaw.pack { op := 0x64, g := g, sub := (1#2 ++ BitVec.ofBool w64 : BitVec 3), d := d, a := a, lo := SRaw.loSR b cls })
  | .afadd g f a b cls => some (SRaw.pack { op := 0x65, g := g, sub := (0#1 ++ f : BitVec 3), d := 0, a := a, lo := SRaw.loSR b cls })
  | .accres g f d a b cls => some (SRaw.pack { op := 0x66, g := g, sub := (0#1 ++ f : BitVec 3), d := d, a := a, lo := SRaw.loSR b cls })
  | .accrel g f d a b cls => some (SRaw.pack { op := 0x67, g := g, sub := (0#1 ++ f : BitVec 3), d := d, a := a, lo := SRaw.loSR b cls })
  | .fence g mask scope => some (SRaw.pack { op := 0x70, g := g, sub := 0, d := 0, a := 0, lo := SRaw.loSI 0 (0#13 ++ scope ++ mask : BitVec 32) })
  | .sync g mask scope => some (SRaw.pack { op := 0x71, g := g, sub := 0, d := 0, a := 0, lo := SRaw.loSI 0 (0#13 ++ scope ++ mask : BitVec 32) })
  | .stkwait g d a => some (SRaw.pack { op := 0x72, g := g, sub := 0, d := d, a := a, lo := SRaw.loSR 0 0 })
  | .pwait g ch a imm => some (SRaw.pack { op := 0x73, g := g, sub := ch, d := 0, a := a, lo := SRaw.loSI 0 imm })
  | .owait g ha => some (SRaw.pack { op := 0x74, g := g, sub := 0, d := 0, a := ha, lo := SRaw.loSH 0 0 0 })
  | .cread g d num => some (SRaw.pack { op := 0x75, g := g, sub := 0, d := d, a := 0, lo := SRaw.loSI 0 num })
  | .cwrite g a num => some (SRaw.pack { op := 0x76, g := g, sub := 0, d := 0, a := a, lo := SRaw.loSI 0 num })
  | .trap g imm => some (SRaw.pack { op := 0x77, g := g, sub := 0, d := 0, a := 0, lo := SRaw.loSI 0 imm })
  | .tret g => some (SRaw.pack { op := 0x78, g := g, sub := 0, d := 0, a := 0, lo := SRaw.loSR 0 0 })
  | .halt g => some (SRaw.pack { op := 0x79, g := g, sub := 0, d := 0, a := 0, lo := SRaw.loSR 0 0 })
  | .launch g xb => some (SRaw.pack { op := 0x7A, g := g, sub := 0, d := 0, a := 0, lo := SRaw.loSH xb 0 0 })
  | .talloc g ha fmt det keep => some (SRaw.pack { op := 0x80, g := g, sub := 0, d := 0, a := ha, lo := SRaw.loSH 0 0 (0#17 ++ BitVec.ofBool keep ++ BitVec.ofBool det ++ fmt : BitVec 24) })
  | .tfree g ha => some (SRaw.pack { op := 0x81, g := g, sub := 0, d := 0, a := ha, lo := SRaw.loSH 0 0 0 })
  | .tsymZero g ha fmt => some (SRaw.pack { op := 0x82, g := g, sub := 0, d := 0, a := ha, lo := SRaw.loSH 0 0 (0#19 ++ fmt : BitVec 24) })
  | .tsymConst g ha xb fmt => some (SRaw.pack { op := 0x82, g := g, sub := 1, d := 0, a := ha, lo := SRaw.loSH xb 0 (0#19 ++ fmt : BitVec 24) })
  | .tsymRamp g ha xb fmt rax => some (SRaw.pack { op := 0x82, g := g, sub := 2, d := 0, a := ha, lo := SRaw.loSH xb 0 (0#17 ++ rax ++ fmt : BitVec 24) })
  | .tsymRepeat g hd ha => some (SRaw.pack { op := 0x82, g := g, sub := 3, d := hd, a := ha, lo := SRaw.loSH 0 0 0 })
  | .tprobeLo g hd ha => some (SRaw.pack { op := 0x83, g := g, sub := 0, d := hd, a := ha, lo := SRaw.loSH 0 0 0 })
  | .tprobeHi g hd ha => some (SRaw.pack { op := 0x83, g := g, sub := 1, d := hd, a := ha, lo := SRaw.loSH 0 0 0 })
  | .tretype g ha fmt => some (SRaw.pack { op := 0x84, g := g, sub := 0, d := 0, a := ha, lo := SRaw.loSH 0 0 (0#19 ++ fmt : BitVec 24) })
  | .townGive g ha own => some (SRaw.pack { op := 0x85, g := g, sub := 0, d := 0, a := ha, lo := SRaw.loSH 0 0 (0#20 ++ own : BitVec 24) })
  | .townTake g ha own => some (SRaw.pack { op := 0x85, g := g, sub := 1, d := 0, a := ha, lo := SRaw.loSH 0 0 (0#20 ++ own : BitVec 24) })
  | .tflag g ha det keep wdet wkeep => some (SRaw.pack { op := 0x86, g := g, sub := 0, d := 0, a := ha, lo := SRaw.loSH 0 0 (0#18 ++ BitVec.ofBool wkeep ++ BitVec.ofBool wdet ++ 0#2 ++ BitVec.ofBool keep ++ BitVec.ofBool det : BitVec 24) })
  | .tld g hd ha xb ix => some (SRaw.pack { op := 0x87, g := g, sub := 0, d := hd, a := ha, lo := SRaw.loSH xb 0 (0#14 ++ ix : BitVec 24) })
  | .tst g ha xb xc ix => some (SRaw.pack { op := 0x88, g := g, sub := 0, d := 0, a := ha, lo := SRaw.loSH xb xc (0#14 ++ ix : BitVec 24) })
  | .hmov g hd ha => some (SRaw.pack { op := 0x90, g := g, sub := 0, d := hd, a := ha, lo := SRaw.loSH 0 0 0 })
  | .hset g hd xb k => some (SRaw.pack { op := 0x91, g := g, sub := 0, d := hd, a := 0, lo := SRaw.loSH xb 0 (0#22 ++ k : BitVec 24) })
  | .hget g hd ha k => some (SRaw.pack { op := 0x92, g := g, sub := 0, d := hd, a := ha, lo := SRaw.loSH 0 0 (0#22 ++ k : BitVec 24) })
  | .hmkt g hd xb imm => some (SRaw.pack { op := 0x93, g := g, sub := 0, d := hd, a := 0, lo := SRaw.loSH xb 0 (0#12 ++ imm : BitVec 24) })
  | .hmkw g hd xb xc imm => some (SRaw.pack { op := 0x94, g := g, sub := 0, d := hd, a := 0, lo := SRaw.loSH xb xc imm })
  | .hmkv g hd ha xb xc fmt keep => some (SRaw.pack { op := 0x95, g := g, sub := 0, d := hd, a := ha, lo := SRaw.loSH xb xc (0#18 ++ BitVec.ofBool keep ++ fmt : BitVec 24) })
  | .portsetBind g ha port => some (SRaw.pack { op := 0x96, g := g, sub := 0, d := 0, a := ha, lo := SRaw.loSH 0 0 (port ++ 0#20 : BitVec 24) })
  | .portsetClr g port => some (SRaw.pack { op := 0x96, g := g, sub := 1, d := 0, a := 0, lo := SRaw.loSH 0 0 (port ++ 0#20 : BitVec 24) })
  | .portget g hd xc port => some (SRaw.pack { op := 0x97, g := g, sub := 0, d := hd, a := 0, lo := SRaw.loSH 0 xc (port ++ 0#20 : BitVec 24) })
  | .portadvStep g xb port n => some (SRaw.pack { op := 0x98, g := g, sub := 0, d := 0, a := 0, lo := SRaw.loSH xb 0 (port ++ n : BitVec 24) })
  | .portadvSet g xb port => some (SRaw.pack { op := 0x98, g := g, sub := 1, d := 0, a := 0, lo := SRaw.loSH xb 0 (port ++ 0#20 : BitVec 24) })
  | .stgPut g d a => some (SRaw.pack { op := 0x99, g := g, sub := 0, d := d, a := a, lo := SRaw.loSR 0 0 })
  | .stgGet g d a => some (SRaw.pack { op := 0x99, g := g, sub := 1, d := d, a := a, lo := SRaw.loSR 0 0 })
  | .maput g d a => some (SRaw.pack { op := 0x9A, g := g, sub := 0, d := (0#3 ++ d : BitVec 6), a := a, lo := SRaw.loSR 0 0 })
  | .patld g ha r0 e0 n => some (SRaw.pack { op := 0x9B, g := g, sub := 0, d := 0, a := ha, lo := SRaw.loSH 0 0 (0#9 ++ n ++ e0 ++ r0 : BitVec 24) })
  | .patsw g => some (SRaw.pack { op := 0x9C, g := g, sub := 0, d := 0, a := 0, lo := SRaw.loSI 0 0 })
  | .oalloc g hd xb xc prio cow fmt geom tier write => some (SRaw.pack { op := 0xA0, g := g, sub := 0, d := hd, a := 0, lo := SRaw.loSH xb (0#2 ++ xc : BitVec 6) (0#9 ++ BitVec.ofBool write ++ tier ++ geom ++ fmt ++ BitVec.ofBool cow ++ prio : BitVec 24) })
  | .oref g hd ha => some (SRaw.pack { op := 0xA1, g := g, sub := 0, d := hd, a := ha, lo := SRaw.loSH 0 0 0 })
  | .odrop g ha => some (SRaw.pack { op := 0xA2, g := g, sub := 0, d := 0, a := ha, lo := SRaw.loSH 0 0 0 })
  | .oweak g hd ha => some (SRaw.pack { op := 0xA3, g := g, sub := 0, d := hd, a := ha, lo := SRaw.loSH 0 0 0 })
  | .ounweak g ha xc => some (SRaw.pack { op := 0xA4, g := g, sub := 0, d := 0, a := ha, lo := SRaw.loSH 0 (0#2 ++ xc : BitVec 6) 0 })
  | .oupg g hd ha xc => some (SRaw.pack { op := 0xA5, g := g, sub := 0, d := hd, a := ha, lo := SRaw.loSH 0 (0#2 ++ xc : BitVec 6) 0 })
  | .oprio g ha xc prio => some (SRaw.pack { op := 0xA6, g := g, sub := 0, d := 0, a := ha, lo := SRaw.loSH 0 (0#2 ++ xc : BitVec 6) (0#20 ++ prio : BitVec 24) })
  | .ostat g hd ha k => some (SRaw.pack { op := 0xA7, g := g, sub := 0, d := hd, a := ha, lo := SRaw.loSH 0 0 (0#22 ++ k : BitVec 24) })
  | .ktclr g => some (SRaw.pack { op := 0xB0, g := g, sub := 0, d := 0, a := 0, lo := SRaw.loSH 0 0 0 })
  | .ktadd g hd xb xc => some (SRaw.pack { op := 0xB1, g := g, sub := 0, d := hd, a := 0, lo := SRaw.loSH xb xc 0 })
  | .ktset g xb xc => some (SRaw.pack { op := 0xB2, g := g, sub := 0, d := 0, a := 0, lo := SRaw.loSH xb xc 0 })
  | .ktgetNode g hd xb => some (SRaw.pack { op := 0xB3, g := g, sub := 0, d := hd, a := 0, lo := SRaw.loSH xb 0 0 })
  | .ktgetDepth g hd xb => some (SRaw.pack { op := 0xB3, g := g, sub := 1, d := hd, a := 0, lo := SRaw.loSH xb 0 0 })
  | .ktgetNodes g hd => some (SRaw.pack { op := 0xB3, g := g, sub := 2, d := hd, a := 0, lo := SRaw.loSH 0 0 0 })
  | .ktanc g ha xb xc => some (SRaw.pack { op := 0xB4, g := g, sub := 0, d := 0, a := ha, lo := SRaw.loSH xb xc 0 })
  | .ktpos g ha xb => some (SRaw.pack { op := 0xB5, g := g, sub := 0, d := 0, a := ha, lo := SRaw.loSH xb 0 0 })
  | .ktprune g hd ha xb xc => some (SRaw.pack { op := 0xB6, g := g, sub := 0, d := hd, a := ha, lo := SRaw.loSH xb xc 0 })
  | .wlcfg g xb lv word => some (SRaw.pack { op := 0xB8, g := g, sub := 0, d := 0, a := 0, lo := SRaw.loSH xb 0 (0#17 ++ word ++ lv : BitVec 24) })
  | .wltpl g xb xc lv tpl => some (SRaw.pack { op := 0xB9, g := g, sub := 0, d := 0, a := 0, lo := SRaw.loSH xb xc (0#19 ++ tpl ++ lv : BitVec 24) })
  | .wlrun g lv => some (SRaw.pack { op := 0xBA, g := g, sub := 0, d := 0, a := 0, lo := SRaw.loSH 0 0 (0#21 ++ lv : BitVec 24) })
  | .wlstop g => some (SRaw.pack { op := 0xBB, g := g, sub := 0, d := 0, a := 0, lo := SRaw.loSH 0 0 0 })
  | .wlstat g hd lv item => some (SRaw.pack { op := 0xBC, g := g, sub := 0, d := hd, a := 0, lo := SRaw.loSH 0 0 (0#16 ++ item ++ lv : BitVec 24) })
  | .setseq g xb => some (SRaw.pack { op := 0xBD, g := g, sub := 0, d := 0, a := 0, lo := SRaw.loSH xb 0 0 })
  | _ => none

/-- The 64 bits of a V operation. -/
def encodeV (i : Instr) : Option (BitVec 64) :=
  match i with
  | .vadd v => some (packV 0x00 v)
  | .vsub v => some (packV 0x01 v)
  | .vmul v => some (packV 0x02 v)
  | .vfma v => some (packV 0x03 v)
  | .vfms v => some (packV 0x04 v)
  | .vmin v => some (packV 0x05 v)
  | .vmax v => some (packV 0x06 v)
  | .vabs v => some (packV 0x07 v)
  | .vneg v => some (packV 0x08 v)
  | .vand v => some (packV 0x09 v)
  | .vor v => some (packV 0x0A v)
  | .vxor v => some (packV 0x0B v)
  | .vnot v => some (packV 0x0C v)
  | .vshl v => some (packV 0x0D v)
  | .vshr v => some (packV 0x0E v)
  | .vsar v => some (packV 0x0F v)
  | .vcmp v => some (packV 0x10 v)
  | .vsel v => some (packV 0x11 v)
  | .vmsk v => some (packV 0x12 v)
  | .vcvt v => some (packV 0x13 v)
  | .vclamp v => some (packV 0x14 v)
  | .vmov v => some (packV 0x15 v)
  | .vsplat v => some (packV 0x16 v)
  | .viota v => some (packV 0x17 v)
  | .vexp v => some (packV 0x40 v)
  | .vexpq v => some (packV 0x41 v)
  | .vlog2 v => some (packV 0x42 v)
  | .vrcp v => some (packV 0x43 v)
  | .vrsq v => some (packV 0x44 v)
  | .vrefineRcp v => some (packV 0x45 v)
  | .vrefineRsq v => some (packV 0x45 v)
  | .vrrot v => some (packV 0x48 v)
  | .vcrot v => some (packV 0x49 v)
  | .vrbc v => some (packV 0x4A v)
  | .vcbc v => some (packV 0x4B v)
  | .vrred v => some (packV 0x4C v)
  | .vcred v => some (packV 0x4D v)
  | .vrscan v => some (packV 0x4E v)
  | .vshuf v => some (packV 0x50 v)
  | .vscale v => some (packV 0x51 v)
  | .dadd v => some (packV 0x60 v)
  | .dsub v => some (packV 0x61 v)
  | .dmul v => some (packV 0x62 v)
  | .dfma v => some (packV 0x63 v)
  | .dquant v => some (packV 0x64 v)
  | .drnd v => some (packV 0x65 v)
  | .dcmp v => some (packV 0x66 v)
  | .dcvtTo v => some (packV 0x67 v)
  | .dcvtFrom v => some (packV 0x67 v)
  | _ => none

/-- The 80 bits of an M operation. -/
def encodeM (i : Instr) : Option (BitVec 80) :=
  match i with
  | .mcall g rix ovm ov tag => some (MRaw.pack { op := 0, g := g, rix := rix, ovm := ovm, ov := ov, tag := tag })
  | .mclaim g slot cnt => some (MRaw.pack { op := 1, g := g, rix := (cnt ++ slot : BitVec 10), ovm := 0, ov := 0, tag := false })
  | .mrel g slot cnt => some (MRaw.pack { op := 2, g := g, rix := (cnt ++ slot : BitVec 10), ovm := 0, ov := 0, tag := false })
  | .mwait g k t =>
    some (MRaw.pack { op := 3, g := g, rix := (BitVec.ofBool t ++ 0#7 ++ k : BitVec 10), ovm := 0, ov := 0, tag := false })
  | _ => none

/-- The 48 bits of a P command. -/
def encodeP (i : Instr) : Option (BitVec 48) :=
  match i with
  | .pcopy p => some (packP 0 p) | .pgatherList p => some (packP 1 p) | .pgatherPairs p => some (packP 1 p)
  | .pscatter p => some (packP 2 p) | .preduce p => some (packP 3 p) | .pbcast p => some (packP 4 p)
  | .pfill p => some (packP 5 p) | .pinvm p => some (packP 6 p)
  | _ => none

/-- The 64 bits of a micro-op (08 Tables 3, 7). -/
def encodeU (i : Instr) : Option (BitVec 64) :=
  match i with
  | .mend => some (URaw.pack { uop := 0, form := 0, acc := 0, ma := 0, off := 0, s0 := 0, s1 := 0, arg := 0 })
  | .mlda ma off s0 s1 => some (URaw.pack { uop := 1, form := 0, acc := 0, ma := ma, off := off, s0 := s0, s1 := s1, arg := 0 })
  | .mldb mode ma off s0 s1 =>
    some (URaw.pack { uop := 2, form := (0#1 ++ mode : BitVec 4), acc := 0, ma := ma, off := off, s0 := s0, s1 := s1, arg := 0 })
  | .mmac mode z acc =>
    some (URaw.pack { uop := 3, form := (BitVec.ofBool z ++ mode : BitVec 4), acc := acc, ma := 0, off := 0, s0 := 0, s1 := 0, arg := 0 })
  | .mps on => some (URaw.pack { uop := 4, form := 0, acc := 0, ma := 0, off := 0, s0 := 0, s1 := 0, arg := (0#34 ++ BitVec.ofBool on : BitVec 35) })
  | .mout acc cnt ma off s0 s1 clr fromma ofmt sat =>
    some (URaw.pack { uop := 5, form := (0#2 ++ cnt : BitVec 4), acc := acc, ma := ma, off := off, s0 := s0, s1 := s1,
                      arg := (0#27 ++ BitVec.ofBool sat ++ ofmt ++ BitVec.ofBool fromma ++ BitVec.ofBool clr : BitVec 35) })
  | .mclr mask => some (URaw.pack { uop := 6, form := 0, acc := 0, ma := 0, off := 0, s0 := 0, s1 := 0, arg := (0#31 ++ mask : BitVec 35) })
  | .mloop j fromma ma target count =>
    some (URaw.pack { uop := 7, form := (0#2 ++ BitVec.ofBool fromma ++ BitVec.ofBool j : BitVec 4), acc := 0, ma := ma, off := 0, s0 := 0,
                      s1 := 0, arg := (0#8 ++ count ++ target : BitVec 35) })
  | .mifz target => some (URaw.pack { uop := 8, form := 0, acc := 0, ma := 0, off := 0, s0 := 0, s1 := 0, arg := (0#24 ++ target : BitVec 35) })
  | .mscl mask k fromma ma =>
    some (URaw.pack { uop := 9, form := (0#3 ++ BitVec.ofBool fromma : BitVec 4), acc := 0, ma := ma, off := 0, s0 := 0, s1 := 0,
                      arg := (0#23 ++ k ++ mask : BitVec 35) })
  | .msig ma off s0 s1 => some (URaw.pack { uop := 10, form := 0, acc := 0, ma := ma, off := off, s0 := s0, s1 := s1, arg := 0 })
  | _ => none

/-- The parcels of a literal bundle that holds one operation in its first fitting slot, with STOP set. -/
def encodeLiteral (i : Instr) : Option (List Parcel) :=
  match encodeS i with
  | some w => some (0xFFFF :: 0x0041 :: natParcels 4 w.toNat)
  | none => match encodeV i with
    | some w => some (0xFFFF :: 0x0042 :: natParcels 4 w.toNat)
    | none => match encodeM i with
      | some w => some (0xFFFF :: 0x0048 :: natParcels 5 w.toNat)
      | none => match encodeP i with
        | some w => some (0xFFFF :: 0x0050 :: natParcels 3 w.toNat)
        | none => none

end Sys2Proof
end

