-- ==== Sys2Proof/Machine/Sparse.lean ====
section
/-! DEFINITION. Sparse arrays as plain data: a list of (index, value) pairs, indices strictly rising, no entry equal
to the value an unlisted index reads as, so that equal arrays are equal lists. -/

namespace Sys2Proof

/-- A sparse array. -/
abbrev Sparse (α : Type) := List (Nat × α)

/-- Reading: an unlisted index reads as `d`. -/
def Sparse.get {α : Type} (d : α) : Sparse α → Nat → α
  | [], _ => d
  | (k, v) :: t, i => if i = k then v else if i < k then d else Sparse.get d t i

/-- A listed value. -/
def Sparse.find {α : Type} (m : Sparse α) (i : Nat) : Option α := (m.find? (fun e => e.1 == i)).map (·.2)

/-- Inserting or replacing an entry. -/
def Sparse.put {α : Type} : Sparse α → Nat → α → Sparse α
  | [], i, v => [(i, v)]
  | (k, w) :: t, i, v =>
    if i = k then (i, v) :: t else if i < k then (i, v) :: (k, w) :: t else (k, w) :: Sparse.put t i v

/-- Removing an entry. -/
def Sparse.del {α : Type} : Sparse α → Nat → Sparse α
  | [], _ => []
  | (k, w) :: t, i => if i = k then t else if i < k then (k, w) :: t else (k, w) :: Sparse.del t i

/-- Writing, in canonical form: writing what an unlisted index reads as removes the entry. -/
def Sparse.set {α : Type} [DecidableEq α] (d : α) (m : Sparse α) (i : Nat) (v : α) : Sparse α :=
  if v = d then m.del i else m.put i v

/-- Every listed index is at least `lo`, indices rise strictly, and no entry equals `d`. -/
def Sparse.wfFrom {α : Type} [DecidableEq α] (d : α) : Nat → Sparse α → Bool
  | _, [] => true
  | lo, (k, v) :: t => decide (lo ≤ k) && decide (v ≠ d) && Sparse.wfFrom d (k + 1) t

/-- The canonical form. -/
def Sparse.wf {α : Type} [DecidableEq α] (d : α) (m : Sparse α) : Bool := Sparse.wfFrom d 0 m

/-- The entries whose index satisfies `p` are removed. -/
def Sparse.drop {α : Type} (p : Nat → Bool) (m : Sparse α) : Sparse α := m.filter (fun e => !p e.1)

/-- Writing consecutive values from index `i`. -/
def Sparse.setMany {α : Type} [DecidableEq α] (d : α) : Sparse α → Nat → List α → Sparse α
  | m, _, [] => m
  | m, i, v :: t => Sparse.setMany d (Sparse.set d m i v) (i + 1) t

/-- Reading `n` consecutive values from index `i`. -/
def Sparse.getMany {α : Type} (d : α) (m : Sparse α) (i : Nat) : Nat → List α
  | 0 => []
  | n + 1 => Sparse.get d m i :: Sparse.getMany d m (i + 1) n

/-- A fixed file of `2^k` registers. -/
abbrev Regs (α : Type) (k : Nat) := Vector α (2 ^ k)

/-- One register of a file. -/
def Regs.get {α : Type} {k : Nat} (r : Regs α k) (i : BitVec k) : α := r[i.toNat]'i.isLt

/-- A file with one register replaced. -/
def Regs.set {α : Type} {k : Nat} (r : Regs α k) (i : BitVec k) (v : α) : Regs α k := Vector.set r i.toNat v i.isLt

/-- Register `i mod 2^k`. -/
def Regs.at {α : Type} {k : Nat} (r : Regs α k) (i : Nat) : α := Regs.get r (BitVec.ofNat k i)

/-- A file with register `i mod 2^k` replaced. -/
def Regs.setAt {α : Type} {k : Nat} (r : Regs α k) (i : Nat) (v : α) : Regs α k := Regs.set r (BitVec.ofNat k i) v

/-- A file whose registers all hold `v`. -/
def Regs.all {α : Type} (k : Nat) (v : α) : Regs α k := Vector.replicate (2 ^ k) v

/-- Drop duplicates, keeping first occurrences (structural). -/
def dedupN : List Nat → List Nat
  | [] => []
  | x :: t => x :: (dedupN t).filter (fun y => y != x)

/-- Insert into an ascending list without repeats. -/
def insN (x : Nat) : List Nat → List Nat
  | [] => [x]
  | y :: t => if x < y then x :: y :: t else if x = y then y :: t else y :: insN x t

/-- The numbers of a list, ascending, without repeats. -/
def sortN (l : List Nat) : List Nat := l.foldr insN []

end Sys2Proof
end

