-- ==== Sys2Proof/Machine/State.lean ====
section
/-! DEFINITION. The state of the machine as plain data: the focused core, the other cores, memory, address spaces,
jobs, slot tables, the host interface, and the model's own turn, inputs and free-value counter. -/

namespace Sys2Proof.Machine

open Sys2Proof

/-- Why the machine stops. No step of this model stops: the spec gives every instruction an effect, and what it leaves open is
a free value. -/
inductive Fault where
  deriving DecidableEq, Repr

/-- Why the model has no meaning for a step. -/
inductive Refusal where
  /-- Raised by an arm of exec that has no meaning yet. Safe. -/
  | notModelled (mnemonic : String)
  deriving DecidableEq, Repr

/-! ### A core -/

/-- What a trap writes (01 R27, 16 R391, R392). `pc` is TRAPPC. -/
structure Trap where
  code : Nat
  slot : Nat := 15
  addr : Word := 0
  info : Vector Word 4 := #v[0, 0, 0, 0]
  deriving DecidableEq, Repr

/-- A tile-table entry (01 Table 11). `pass` is what 01 R36 needs of the current write pass and no bit of the entry
holds: a mask of the rows written since WP was 0, and bit 16 once a NaN or an infinity was written. `gseq` is the issue number
from which on operations came to issue after the grant of the tile to its owner (10 R307). -/
structure Tile where
  kind : Nat := 0
  fmt  : Nat := 0
  own  : Nat := 0
  exc  : Bool := false
  det  : Bool := false
  keep : Bool := false
  linv : Bool := false
  base : Nat := 0
  ext  : Nat := 0
  lin  : Nat := 0
  rpc  : Nat := 0
  wp   : Nat := 0
  rax  : Nat := 0
  val  : Word := 0
  pass : Nat := 0
  gseq : Nat := 0
  deriving DecidableEq, Repr

/-- A symbol a tile may become: ZERO, CONST, RAMP, REPEAT (01 R34). -/
inductive Sym where
  | zero
  | const (v : Word)
  | ramp (rax : Nat) (v : Word)
  | rep (src : Nat)
  deriving DecidableEq, Repr

/-- A change of a tile-table entry, applied at its visible cycle to the entry as it then stands (06 R178 to R190). -/
inductive TileOp where
  | alloc (t : Nat) (fmt : Nat) (det keep : Bool) (base : Nat)
  | free (t : Nat)
  | sym (t : Nat) (fmt : Nat) (s : Sym)
  | retype (t : Nat) (fmt : Nat)
  | own (t : Nat) (o : Nat)
  | flags (t : Nat) (wdet det wkeep keep : Bool)
  deriving DecidableEq, Repr

/-- The state of a port (01 R20). -/
structure Port where
  bound : Bool := false
  walk  : Handle := 0
  i0    : Nat := 0
  i1    : Nat := 0
  i2    : Nat := 0
  wrap  : Bool := false
  deriving DecidableEq, Repr

/-- How a whole-tile operation is resolved in the table (07 R217): the value every element has, ZERO where it is zero;
the value of a reduction, always CONST; or a ramp's result. -/
inductive Resolve where
  | elem
  | red
  | ramp (s : Sym)
  deriving DecidableEq, Repr

/-- Where a vector operation's results go. -/
inductive VDest where
  | discard
  | rows (l : List (Nat × Nat))
  | sym (t : Nat) (r : Resolve)
  deriving DecidableEq, Repr

/-- A vector operation in flight (07 R233 to R236): its encoding, the rounding mode read at issue, its destination, the
first element still to be written, the index, start or pattern read at issue, each element's operands, its result with
flags, a flag raised by reading its operands, the register sum of VEXPQ, and the elements that a resume record does not write
because a later-issued write of the cycle of its trap did (07 R237). -/
structure VecOp where
  i    : Instr
  mode : Nat
  dest : VDest
  from_ : Nat
  aux  : Nat
  ops  : List (Nat × Nat × Nat)
  res  : List Res
  read : Flags
  sum  : Option (XReg × Word × Flags)
  skip : List Nat := []
  deriving DecidableEq, Repr

/-- One write that becomes visible at a cycle (03 R99, 01 R42). -/
inductive Write where
  | x (d : XReg) (v : Word)
  | q (d : QReg) (v : Bool)
  | qAll (v : BitVec 16)
  | h (d : HReg) (v : Handle)
  | ma (d : BitVec 3) (v : BitVec 32)
  | stg (d : BitVec 6) (v : Word)
  | ctl (num : Nat) (v : Word)
  | fp (fl : Flags)
  | xfp (d : XReg) (v : Word) (fl : Flags)
  | qfp (d : QReg) (v : Bool) (fl : Flags)
  | tile (o : TileOp)
  | elem (t ix : Nat) (v : Word)
  | rows (t : Nat) (els : List Nat) (prune : Option (XReg × Word))
  | node (i : Nat) (v : Word)
  | treeClear
  | port (p : Nat) (s : Port) (bind : Bool)
  | portStep (p n : Nat)
  | portSet (p : Nat) (w : Word)
  | wlWord (lv word : Nat) (v : Word)
  | seqlen (v : Word)
  | pattern (bank entry : Nat) (v : BitVec 512)
  | patSwitch
  | claim (lo n : Nat)
  | release (lo n : Nat)
  | grant (t o : Nat) (fmt : Option Nat)
  | slotOwn (o : Nat)
  | slotFree (o : Nat)
  | vec (v : VecOp)
  deriving DecidableEq, Repr

/-- A result in flight: visible cycle, issue order, slot of its operation; `ans` marks an answer of memory that a leader has
forwarded to its checker (17 R407), which no trap captures. -/
structure Pend where
  due  : Nat
  seq  : Nat
  slot : Nat
  w    : Write
  ans  : Bool := false
  deriving DecidableEq, Repr

/-- A detection under way (06 R188). -/
structure Detect where
  tile : Nat
  due  : Nat
  sym  : Sym
  deriving DecidableEq, Repr

/-- An operand-memory slot descriptor (01 Table 12); `holds` counts the queued routines that hold the slot (08 R243). A
slot with CLM 0 that is not FREE waits for its holders (R242). -/
structure Omd where
  clm   : Bool := false
  own   : Bool := false
  exc   : Bool := false
  kind  : Nat := 0
  fmt   : Nat := 0
  holds : Nat := 0
  deriving DecidableEq, Repr

/-- What an access of the memory unit does (10 R299): loads; stores; atomics (0 add, 1 max, 2 min, 3 exchange, 4 compare
and swap) with their destination, if any; the floating add of a format with its reservation check; the exact-accumulator
operations; a fence of a class mask and scope; the posting of a launch record. -/
inductive MuKind where
  | load (d : XReg)
  | loadW (d : XReg) (q : QReg) (gone : Bool)
  | loadH (d : HReg)
  | store
  | atomic (k : Nat) (u : Bool) (d : XReg) (cmp : Word)
  | afadd (f : Nat) (exact : Bool)
  | accres (f : Nat) (d : XReg) (len : Nat)
  | accrel (f : Nat) (d : XReg) (len : Nat)
  | fence (mask scope : Nat)
  | launch
  deriving DecidableEq, Repr

/-- One access of the memory unit, in program order: class, strength, virtual address, physical pieces (address,
length) found at issue, data, the earliest cycle at which it may be performed, the sump's data where it is forwarded with the
entry that holds it, the value that names its bundle, its opcode, the cycle of its issue; the parts still to be performed
(offset, length), each single-copy atomic (10 R298), for a load with the data so far in `data`; whether a weak load passes L1
by (10 R322); whether it is a load that a pre-emption abandoned before it was performed (13 R353); the cycle of its answer, for an
exact-accumulator operation (05 R159, R161). -/
structure MuItem where
  seq    : Nat
  kind   : MuKind
  cls    : Nat
  strong : Bool
  va     : Nat
  width  : Nat
  phys   : List (Nat × Nat)
  data   : Nat
  ready  : Nat
  fwd    : Option Nat
  pcv    : Word
  op     : Nat
  at_    : Nat := 0
  src    : Option Nat := none
  left   : List (Nat × Nat) := []
  bypass : Bool := false
  held   : Bool := false
  due    : Nat := 0
  deriving DecidableEq, Repr

/-- A sump entry (01 R44); `bad` is the trap code and reason of the report that waits once its mapping was declared
invalid (13 R351); `left` the parts that a replay under way has still to perform, the next from `ready` on; `rot` the index of the entry
in its array where its word has become uncorrectable (17 R405). -/
structure Sump where
  seq    : Nat
  kind   : MuKind
  cls    : Nat
  op     : Nat
  width  : Nat
  va     : Nat
  data   : Nat
  strong : Bool
  bad    : Option (Nat × Nat)
  pcv    : Word
  at_    : Nat := 0
  left   : List (Nat × Nat) := []
  ready  : Nat := 0
  rot    : Option Nat := none
  deriving DecidableEq, Repr

/-- An object operation under way (06 R199): its place in program order, the value that names its bundle, its operation, its operands, the cycle at
which the home slice acts, whether it reclaims (13 R360), and the answer once the home slice has performed it: a trap, or
the H, X and Q results. -/
structure ObjOp where
  seq  : Nat := 0
  pcv  : Word
  i    : Instr
  h    : Handle
  x    : Word
  due  : Nat
  reclaims : Bool
  ans  : Option (Option Trap × Handle × Word × Bool)
  deriving DecidableEq, Repr

/-- A promotion hold (06 R186): the tiles, each with the run of granules (first, count) taken for it where it holds no kept
storage; the cycle the hold ends; the repeaters (tile, source) that a TSYM REPEAT of the pair makes first. -/
structure Promo where
  tiles : List (Nat × Option (Nat × Nat))
  until_ : Nat
  reps : List (Nat × Nat) := []
  deriving DecidableEq, Repr

/-- A SYNC wait (05 R164): scope, participant mask, cycle of arrival, cycle of restart once released (at system scope
the stroke of restart), and whether the core has restarted. -/
structure SyncWait where
  scope   : Nat
  mask    : Nat
  arrived : Nat
  restart : Option Nat
  go      : Bool := false
  deriving DecidableEq, Repr

/-- What holds issue, kept while the bundle waits (03 R102): a promotion; the tile that a TSYM REPEAT of the pair has
already made a symbol, at the hold's end; the object operations sent, one more than the bundle's own where a trap struck while one was under way; an object
check (object, cycle of its answer); a page walk (page, cycle of its end); a SYNC. -/
structure Hold where
  promo : Option Promo := none
  symDone : Option Nat := none
  obj   : List ObjOp := []
  chk   : Option (Nat × Nat) := none
  walk  : Option (Nat × Nat) := none
  sync  : Option SyncWait := none
  deriving DecidableEq, Repr

/-- What the operations of the issuing bundle have decided: go on, hold the bundle, or raise a trap. -/
inductive Verdict where
  | ok
  | held
  | trap (t : Trap)
  deriving DecidableEq, Repr

/-- One side of an accepted pump command: a run of tile rows, slot rows, a symbol taken at issue, or a region of memory,
E0 bytes in each of E1 runs of E2 planes, strides S1 and S2; `ext` is the object it must lie in (09 R272). A side whose
units an index list names has units of E0 bytes at multiples of S1. -/
inductive End where
  | nothing
  | tile (t row : Nat)
  | slot (o row : Nat)
  | sym (e : Tile)
  | mem (base : Int) (e0 e1 e2 : Nat) (s1 s2 : Int) (ext : Option (Nat × Nat))
  deriving DecidableEq, Repr

/-- A pump fault (09 R285). -/
structure PumpFault where
  code   : Nat
  addr   : Word
  reason : Nat
  op     : Nat
  deriving DecidableEq, Repr

/-- An accepted pump command or a marker, with its progress (09 R266 to R285). A marker holds the first page and count of
its range and the changes it publishes (10 R310). `nr` counts rows, or the entries of the index list; `copies` and `dist`
are PBCAST's; `itile`, `mode` and `list` the index list's; `comb` PREDUCE's combination. `slots` are the slots it writes. `pos` counts the source rows or
units done, `out` the bytes or rows of the destination, `buf` the bytes read and not yet written; `rows` are PBCAST's
source rows and `units` the units of pair mode. `marks` holds, per tile or slot, the rows written and bit 16 for a NaN or
an infinity; `pfs` and `pfd` the format of the first page of a side. `got` are the bytes read so far of a source row or unit;
`hand` the elements of the row on its way into a tile or slot, of which `part` are written, and `fls` the flags that converting
the elements of the row raised (R273). `follow` marks a checker's command whose destination
is memory, and `fwd` is what its leader has forwarded, with the cycle from which the checker has it (17 R407). `pre` are bytes of memory that the command counts as having read, by
physical address, because a later command of the core has read them first (10 R303 item 2). -/
structure PumpCmd where
  seq    : Nat
  op     : Nat
  marker : Option (Nat × Nat × List Nat) := none
  src    : End := .nothing
  dst    : End := .nothing
  fs     : Nat := 0
  fd     : Nat := 0
  sat    : Bool := false
  cls    : Nat := 0
  nr     : Nat := 0
  copies : Nat := 1
  dist   : Int := 0
  mode   : Nat := 0
  itile  : Nat := 0
  comb   : Nat := 0
  tiles  : List Nat := []
  wtiles : List Nat := []
  slots  : List Nat := []
  gone   : Bool := false
  count  : Nat := 0
  follow : Bool := false
  issued : Nat := 0
  begun  : Bool := false
  ready  : Nat := 0
  rows   : List (List Nat) := []
  list   : List Nat := []
  units  : List (Nat × List Byte) := []
  pos    : Nat := 0
  out    : Nat := 0
  buf    : List Byte := []
  got    : List Byte := []
  hand   : List Nat := []
  part   : Nat := 0
  fls    : List Flags := []
  flags  : Flags := 0
  marks  : List (Nat × Nat) := []
  pfs    : Option Nat := none
  pfd    : Option Nat := none
  fin    : Bool := false
  bad    : Option PumpFault := none
  fwd    : List (Nat × List Byte) := []
  pre    : List (Nat × Byte) := []
  deriving DecidableEq, Repr

/-- A pump channel: its queue of at most 16 commands, its pending fault with the flags its report raises, pointer advances
not yet visible, and the cycle of its last completion. -/
structure Chan where
  queue : List PumpCmd := []
  fault : Option PumpFault := none
  flags : Flags := 0
  adv   : List (Nat × Nat) := []
  last  : Nat := 0
  deriving DecidableEq, Repr

/-- An accepted MCALL (08 R243): routine, call values of MA0 to MA7, TAG, its output tiles and slots, the cycle of
issue, its sequence number, and the cycle before which it does not start because a pump command before it that writes one of
its slots or tiles completed (R244). -/
structure Call where
  rix   : Nat
  ma    : Vector (BitVec 32) 8
  tag   : Bool
  tiles : List Nat
  slots : List Nat
  issued : Nat
  seq   : Nat
  after : Nat := 0
  deriving DecidableEq, Repr

/-- A latched operand slot: KIND, EXC, FMT and its 512 words (08 R238). -/
structure Latch where
  kind : Nat
  exc  : Bool
  fmt  : Nat
  words : List Word
  deriving DecidableEq, Repr

/-- A block on its way to its accumulators (08 R254 to R258): cycle of its update or of its next row at the port, first
accumulator, mode, latches, whether it presents at the partial-sum port, the next row, skipped or not, the output-path
operations queued before it that remain, and the micro-address of its MMAC. -/
structure Block where
  due  : Nat
  acc  : Nat
  mode : Nat
  a    : Latch
  b    : List Latch
  ps   : Bool
  row  : Nat
  skip : Bool
  ahead : Nat
  uaddr : Nat
  deriving DecidableEq, Repr

/-- An operation of the output path (08 R250, R260, R261). -/
inductive OutOp where
  | out (acc cnt tile : Nat) (exp : Int) (keep sat : Bool) (ofmt : Nat) (clr : Bool) (uaddr : Nat)
  | clear (mask : Nat)
  | scale (mask : Nat) (k : Int)
  | sig (tile : Nat) (uaddr : Nat)
  deriving DecidableEq, Repr

/-- The matrix unit (08 R238). `types`: 0 empty, 1 FP32, 2 INT32 per accumulator. `upc` is the word of the running routine
that the sequencer takes at `seqAt`; `psRow` the row at the partial-sum port: its format, 16 times its accumulator plus its
row, its elements, and which of them are accumulated, present at `psAt`; `accAt` the cycle from which the output path may read an accumulator; `windows` the scale windows (first cycle, one past the last); `ended`
the cycle of the last end of routines with their TAGs; `fault` the pending fault: code, tile or slot, reason, slot bit,
micro-address. -/
structure Mat where
  queue  : List Call := []
  running : Bool := false
  start  : Nat := 0
  upc    : Nat := 0
  seqAt  : Nat := 0
  acc    : Sparse (BitVec 32) := []
  types  : Vector Nat 4 := #v[0, 0, 0, 0]
  l0     : Nat := 0
  l1     : Nat := 0
  nextA  : Option Latch := none
  nextB  : List Latch := []
  curA   : Option Latch := none
  curB   : List Latch := []
  psMode : Bool := false
  arrayFree : Nat := 0
  portFree : Nat := 0
  blocks : List Block := []
  outq   : List OutOp := []
  outRow : Nat := 0
  outAt  : Nat := 0
  accAt  : Vector Nat 4 := #v[0, 0, 0, 0]
  psRow  : Option (Nat × Nat × List Nat × List Bool) := none
  psAt   : Nat := 0
  windows : List (Nat × Nat) := []
  ended  : Nat × List Bool := (0, [])
  fault  : Option (Nat × Nat × Nat × Nat × Nat) := none
  deriving DecidableEq, Repr

/-- A routine of the microprogram store (08 R246): first micro-address, words (the header first). -/
structure Routine where
  base  : Nat
  words : List (BitVec 64)
  deriving DecidableEq, Repr

/-- The kernel loaded into a core (04 R137). -/
structure Kern where
  text    : Nat := 0
  entry   : Nat := 0
  handler : Option Nat := none
  l1cfg   : Nat := 2
  skip    : Bool := false
  excmask : Nat := 0
  n       : Nat := 1
  deriving DecidableEq, Repr

/-- The Windlass (09 R287 to R296): stored words, captured words, trip counts, levels, counters, position, LV. -/
structure Wl where
  cfg    : Sparse Word := []
  cap    : Sparse Word := []
  trips  : Vector Nat 6 := #v[0, 0, 0, 0, 0, 0]
  depth  : Nat := 0
  wc     : Vector Nat 6 := #v[0, 0, 0, 0, 0, 0]
  active : Bool := false
  susp   : Bool := false
  runIx  : ParcelIx := 0
  retIx  : ParcelIx := 0
  entry  : Nat := 0
  level  : Nat := 0
  tpl    : Nat := 0
  fin    : Bool := false
  stop   : Bool := false
  lv     : Word := 0
  look   : Option (Nat × Word) := none
  seen   : Option Nat := none
  itile  : Option Nat := none
  deriving DecidableEq, Repr

/-- Issue bookkeeping: verdict of the issuing bundle, slot of the operation, first parcel of the pair and of the
operation's bundle, parcel after it, registers the group has written, V slots and divider held in issue cycles, the
cycle issue resumes, the next issue number, the tiles the bundle's operations ask to promote, with the slot that asked
first, the repeaters (tile, source) its TSYM REPEAT makes, the control registers a checker takes from its leader
(17 R407), whether a halt abandons a load that is held (13 R353), which bundle of the pair the operation stands in, and whether
the Windlass replays the bundle (09 R293). -/
structure Iss where
  verdict : Verdict := .ok
  slot    : Nat := 0
  pairPc  : ParcelIx := 0
  pc      : ParcelIx := 0
  next    : ParcelIx := 0
  written : List Nat := []
  vHold   : Vector Nat 2 := #v[0, 0]
  divHold : Nat := 0
  ready   : Nat := 0
  drain   : Bool := false
  seq     : Nat := 0
  want    : List Nat := []
  wantSlot : Nat := 0
  reps    : List (Nat × Nat) := []
  fwd     : List (Nat × Word) := []
  abandon : Bool := false
  part    : Nat := 0
  replay  : Bool := false
  deriving DecidableEq, Repr

/-- How the task stands on its core: none bound, waiting for its first bundle, issuing, ending after HALT or a trap,
halting for a pre-emption, saving. -/
inductive Phase where
  | idle
  | starting
  | running
  | ending (failed : Bool) (cause : Nat) (endpc : ParcelIx) (dbl : Bool)
  | killed
  | halting (since : Nat)
  | saving (since : Nat)
  deriving DecidableEq, Repr

/-- The task bound to a core (16 R380, R383). `haltSeq` is the issue number at which a pre-emption has reached the core, `haltAt` the
cycle: a halt waits for scale windows of earlier MCALLs only (08 R265), and a trap of that cycle comes first (16 R394). `fresh`:
the core has not issued since it was bound; `begun`: its first bundle, in a DET job, has come to the stroke at which it may issue (16
R384). `resumed`: it is bound again, and has issued no bundle yet (17 R416). `ended`: Shogiwald has ended the task, whose core stops as a pre-emption would (16 R381). -/
structure Task where
  phase : Phase := .idle
  die   : Nat := 0
  recIx : Nat := 0
  job   : Nat := 0
  asid  : Nat := 0
  task  : Nat := 0
  gsize : Nat := 1
  skew  : Nat := 0
  lead  : Nat := 0
  gpos  : Nat := 0
  preempt : Option Nat := none
  lastJob : Option Nat := none
  requested : Nat := 0
  haltSeq : Nat := 0
  haltAt : Nat := 0
  fresh : Bool := false
  begun : Bool := false
  resumed : Bool := false
  ended : Bool := false
  saveAt : Option Nat := none
  deriving DecidableEq, Repr

/-- The registers of a core (01 R13 to R30) that traps, TRET and context saves treat together. -/
structure Arch where
  x     : Regs Word 6
  q     : Regs Bool 4
  h     : Regs Handle 6
  ma    : Regs (BitVec 32) 3
  stg   : Regs Word 6
  kstat : Word := 0
  tcause : Word := 0
  tpc   : Word := 0
  taddr : Word := 0
  tinfo : Vector Word 4 := #v[0, 0, 0, 0]
  excmask : Word := 0
  fpstat : Word := 0
  decstat : Word := 0
  rmode : Word := 0
  tasknum : Word := 0
  seqlen : Word := 0
  cycles : Nat := 0
  segcount : Nat := 0
  rwcount : Nat := 0
  scalemiss : Nat := 0
  freegr : Nat := 14336
  l1cfg : Nat := 2
  prcount : Nat := 0
  patbank : Bool := false
  wptr  : Vector Nat 8 := #v[0, 0, 0, 0, 0, 0, 0, 0]
  deriving DecidableEq, Repr

/-- A pair's log entry: the operation, its address, its source values, what it returned, the pointer advance of a pump
command or, of an object check, the object's base, whether a replay has met it, its issue cycle and number, the trap with which an object
operation was refused (17 R409). -/
structure LogEntry where
  op   : Nat
  addr : Nat
  src  : List Nat
  ret  : List Write
  adv  : Nat
  used : Bool
  at_  : Nat
  seq  : Nat
  trap : Option Trap := none
  deriving DecidableEq, Repr

/-- A pair's checkpoint at a segment's entry (17 R410): what a rewind restores, with the issue number that the segment began
at. -/
structure Ckpt where
  r     : Arch
  pc    : ParcelIx
  ports : Vector Port 12
  sp    : Sparse Word
  free  : List (Nat × Nat)
  tiles : Sparse Tile
  om    : Sparse Word
  omd   : Sparse Omd
  acc   : Sparse (BitVec 32)
  types : Vector Nat 4
  tree  : Sparse Word
  pats  : Sparse (BitVec 512)
  wl    : Wl
  flight : List Pend
  captured : List Pend
  resume : Option Pend
  heldCls : List Nat
  dets  : List Detect
  mfault : Option (Nat × Nat × Nat × Nat × Nat)
  pfaults : List (Option PumpFault × Flags)
  at_   : Nat
  seq   : Nat
  deriving DecidableEq, Repr

/-- An issue of a lead core on its way to the other members of its gang, or to a checker (16 R385, 17 R407): the clock of
the lead's issue, the bundles with the parcels at and after each, the lead's pc afterwards, its Windlass before and after
the issue, the control registers it read, the answer of its object operation, a trap that
the checker takes with its leader, with its TRAPPC and how many bundles count as issued, and whether the leader's halt abandons a
load of it (13 R353). -/
structure Bcast where
  at_   : Nat
  pairs : List (ParcelIx × Bundle × ParcelIx)
  after : ParcelIx
  wl    : Wl
  post  : Wl := {}
  fwd   : List (Nat × Word) := []
  ans   : Option (Option Trap × Handle × Word × Bool) := none
  trap  : Option (Trap × ParcelIx × Nat) := none
  held  : Bool := false
  deriving DecidableEq, Repr

/-- One core. `fences` are fences of well scope or wider that an event before them still follows (issue number, class mask), `l1old` the
lines of L1 that serve the classes of a mask no more (10 R303 item 4). `badfetch` is the line whose fetch an abort completion has answered,
with the physical address (17 R404); `strike` an event of 17 R412 that is to begin a rewind, with the physical address of an abort
completion; `segRun` the issues of the open segment (R411); `stood` an arrival at a SYNC that a rewind has left standing (R413). `dictBad` are the dictionary entries with a parity error, with the cycle of the clean copy's arrival once it has been
fetched (17 R402). -/
structure Core where
  r     : Arch
  pc    : ParcelIx := 0
  ports : Vector Port 12
  sp    : Sparse Word := []
  free  : List (Nat × Nat) := [(0, 14336)]
  tiles : Sparse Tile := []
  dets  : List Detect := []
  om    : Sparse Word := []
  omd   : Sparse Omd := []
  tree  : Sparse Word := []
  pats  : Sparse (BitVec 512) := []
  mat   : Mat := {}
  rtns  : List (Nat × Routine) := []
  kern  : Kern := {}
  dict  : Sparse (BitVec 384) := []
  dictBad : List (Nat × Option Nat) := []
  lines : List (Nat × BitVec 512) := []
  codeSeen : List (Nat × BitVec 512) := []
  fetch : Option (Nat × Nat) := none
  badfetch : Option (Nat × Nat) := none
  flight : List Pend := []
  captured : List Pend := []
  resume : Option Pend := none
  mu    : List MuItem := []
  sump  : List Sump := []
  heldCls : List Nat := []
  l1    : List (Nat × BitVec 512) := []
  l1old : List (Nat × Nat) := []
  fences : List (Nat × Nat) := []
  tlb   : List Nat := []
  ocache : List Nat := []
  declared : List (Nat × Bool × Option Nat) := []
  chans : Vector Chan 8
  wl    : Wl := {}
  iss   : Iss := {}
  hold  : Hold := {}
  task  : Task := {}
  ranges : List (Nat × Nat × Nat) := []
  bcast : List Bcast := []
  gclock : Nat := 0
  sigs  : List (Nat × List Nat) := []
  sigNow : List Nat := []
  log   : List LogEntry := []
  segOpen : Bool := false
  reseg : Bool := false
  strike : Option (Option Nat) := none
  back  : Option Nat := none
  halted : List Pend := []
  segAt : Nat := 0
  segRun : Nat := 0
  stood : Option SyncWait := none
  undoRows : List Nat := []
  undoEnts : List Nat := []
  ckpt  : Option Ckpt := none
  rewinds : Nat := 0
  badWords : List (Nat × Nat) := []
  abort : Option Nat := none
  clock : Int := 0
  deriving DecidableEq, Repr

/-! ### Reset values of a core -/

/-- A port that is not bound (01 R20). -/
def Port.reset : Port := {}

/-- Registers as at task start, before the task's own values (01 R12 to R30). Q0 reads true (R14). -/
def Arch.reset : Arch :=
  { x := Regs.all 6 0, q := Regs.set (Regs.all 4 false) 0 true, h := Regs.all 6 0, ma := Regs.all 3 0,
    stg := Regs.all 6 0 }

/-- A core with no task bound. -/
def Core.reset : Core :=
  { r := Arch.reset, ports := Vector.replicate 12 Port.reset, chans := Vector.replicate 8 {} }

/-! ### Memory, address spaces, jobs -/

/-- Consecutive pages mapped by the loader or by MAP: first page, count, entry of the first page (04 R136). -/
structure Region where
  page : Nat
  n    : Nat
  pte  : BitVec 128
  deriving DecidableEq, Repr

/-- A change of page-table entries whose markers have not all completed (13 R347): its number, the prior entries (first key,
count of a run of keys, the first one's entry), the first page and count it covers, the channels (core times 16 plus channel)
whose marker has not completed, the memory units (core, issue number) with earlier accesses under way, the pages to count
free once it is done (index in `freePages`, count), and the ranges (channel, first page, count) for which a PINVM has published
it to a channel (10 R310). -/
structure Change where
  id   : Nat
  olds : List (Nat × Nat × BitVec 128)
  page : Nat
  n    : Nat
  wait : List Nat
  muWait : List (Nat × Nat)
  back : List (Nat × Nat)
  past : List (Nat × Nat × Nat) := []
  deriving DecidableEq, Repr

/-- An object-table entry (06 Table 8) with what the model keeps beside it: the page attributes, the first frame, the count of
pages that were placed on die 0, and whether its pages are mapped with W = 0 because of COW (13 R352). -/
structure Obj where
  ustamp : Nat := 0
  cow    : Bool := false
  state  : Nat := 0
  prio   : Nat := 0
  gen    : Nat := 0
  weak   : Nat := 0
  strong : Nat := 0
  pages  : Nat := 0
  base   : Nat := 0
  fmt    : Nat := 0
  geom   : Nat := 0
  tier   : Nat := 0
  write  : Bool := false
  frame  : Nat := 0
  onDie0 : Nat := 0
  ro     : Bool := false
  deriving DecidableEq, Repr

/-- A kernel of a loaded TOF (04 R132); `tier` is the slowest tier of its DICT, TEXT and MPRG sections (16 R383). -/
structure KDesc where
  text    : Nat
  entry   : Nat
  handler : Option Nat
  l1cfg   : Nat
  skip    : Bool
  excmask : Nat
  dict    : List (BitVec 384)
  rtns    : List (Nat × List (BitVec 64))
  tier    : Nat := 0
  deriving DecidableEq, Repr

/-- A page that is being moved (13 R355): the address of its first byte, the key of its first entry, its 4 KiB entries (one of
4 KiB, 16 of 64 KiB; 512 stand for the one entry of a 2 MiB page), its leaf as it was, the new first frame and tier; the
number of the change that cleared W, and whether the copy has been made since. -/
structure Move where
  va    : Nat
  key   : Nat
  n     : Nat
  leaf  : BitVec 128
  frame : Nat
  tier  : Nat
  chg   : Nat := 0
  copied : Bool := false
  deriving DecidableEq, Repr

/-- An address space: page table, object table, loaded kernels, the pages that are being moved, the objects that the loader
made (OID, GEN) (04 R127, 13 R342, R355, R358). `ptes` holds the entries that have been written, by key: 512 times the number
of their node plus their index. -/
structure Space where
  ptes    : Sparse (BitVec 128) := []
  regions : List Region := []
  changes : List Change := []
  objs    : Sparse Obj := []
  osize   : Nat := 65536
  kernels : List KDesc := []
  moving  : List Move := []
  nextVa  : Nat := 0x100000
  loaded  : List (Nat × Nat) := []
  deriving DecidableEq, Repr

/-- A job (16 R374 to R379). `taking` and `giving` are the reserved ranges that an ACCRES or an ACCREL in progress takes or releases (05
R159, R161). `afar` are the tasks bound on other packages that have arrived at the system-scope SYNC under way (R164). `posted` are the launch records that its tasks have posted: address, class of the launching task
(R376). -/
structure Job where
  asid   : Nat
  kid    : Nat
  ntasks : Nat
  argva  : Nat
  gang   : Nat
  skew   : Nat
  cls    : Nat
  flags  : Nat
  wells  : Nat
  jsva   : Nat
  next   : Nat := 0
  tdone  : Nat := 0
  tfail  : Nat := 0
  ftask  : Nat := 0
  fcause : Nat := 0
  fflags : Nat := 0
  fpc    : Nat := 0
  latepromo : Nat := 0
  npre   : Nat := 0
  done   : Bool := false
  seq    : Option Nat := none
  queue  : Option Nat := none
  posted : List (Nat × Nat) := []
  ended  : List Nat := []
  cores  : List Nat := []
  afar   : List Nat := []
  ranges : List (Nat × Nat × Nat) := []
  taking : List (Nat × Nat × Nat) := []
  giving : List (Nat × Nat × Nat) := []
  deriving DecidableEq, Repr

/-- A reserved target's exact accumulator (05 R158 to R161): sum in units of 2^-1074, specials seen, and whether every
contribution and the initial value were -0. -/
structure AccT where
  job  : Nat
  va   : Nat
  pa   : Nat
  fmt  : Nat
  sum  : Int
  nan  : Bool
  snan : Bool
  pinf : Bool
  ninf : Bool
  negz : Bool
  deriving DecidableEq, Repr

/-- The kind of an access that faults (13 R348, Table 4). -/
inductive AccKind where
  | load
  | store
  | atomic
  | pumpRead
  | pumpWrite
  | fetch
  deriving DecidableEq, Repr

/-- A fault record that waits for Shogiwald: address, kind, core, class and job of the access, and the accesses that its
answer serves (core, issue number; none for a fetch of code) (13 R348). -/
structure FaultRec where
  asid  : Nat
  va    : Nat
  kind  : AccKind
  core  : Nat
  cls   : Nat
  job   : Nat
  who   : List (Nat × Option Nat)
  deriving DecidableEq, Repr

/-- A hotness entry: controller, block, counters by package (13 R354). -/
structure Hot where
  ctl   : Nat
  block : Nat
  cnt   : List (Nat × Nat)
  deriving DecidableEq, Repr

/-- A launch queue's registers (20 Table 2). -/
structure LQueue where
  base : Word := 0
  cfg  : Word := 0
  head : Word := 0
  tail : Word := 0
  deriving DecidableEq, Repr

/-- The host interface (20 R426 to R433). `readyAt` is the cycle at which READY returns after a Function Level Reset;
`old` holds words of published launch records that the host has overwritten, as they stood before; `bar4` is the window's
space, first address and length; `drive` the drive command under way: a read or not, its journal number, space, object,
first page and count. -/
structure HostIf where
  status  : Word := 0
  jseq    : Nat := 0
  mbxcmd  : BitVec 512 := 0
  mbxrsp  : BitVec 512 := 0
  mbxstat : Word := 0
  queues  : Sparse LQueue := []
  bar2    : Sparse Word := []
  journal : Sparse (BitVec 128) := []
  bar4    : Option (Nat × Nat × Nat) := none
  old     : List (Nat × Word) := []
  readyAt : Option Nat := none
  bar4read : Word := 0
  drive   : Option (Bool × Nat × Nat × Nat × Nat × Nat) := none
  msix    : List Nat := []
  bus     : List (Nat × Nat) := []
  deriving DecidableEq, Repr

/-- A turn of the current cycle: a core's events, or the issue of a lead core. -/
inductive Turn where
  | events (c : Nat)
  | issue (c : Nat)
  deriving DecidableEq, Repr

/-- A register of Shogiwald's own side that it writes: HOTTHR of a controller (13 R354), FREEHI and FREELO of a die's tier
(13 R360), STKLEN (16 R387); and what the fabric tells of a task that is bound on another package, its arrival at a system-scope SYNC
or its end (20 R435). -/
inductive FwWrite where
  | hotthr (ctl v : Nat)
  | freeThr (die tier hi lo : Nat)
  | stklen (v : Nat)
  | far (job task : Nat) (ended : Bool)
  deriving DecidableEq, Repr

/-- The machine. `strokePos` counts the cycles of the current stroke that have begun: 1 in its first. `wtlb` holds the shared translation caches
of the wells: spaces and pages, the newest last (13 R346). -/
structure State where
  core   : Core
  cid    : Nat := 0
  others : Sparse Core := []
  turn   : List Turn := []
  cycle  : Nat := 0
  free   : Nat := 0
  inputs : List (Nat × Instr) := []
  fw     : List (Nat × FwWrite) := []
  mem    : List Host.Cell := []
  unc    : List (Nat × Nat) := []
  spaces : List (Nat × Space) := []
  jobs   : List (Nat × Job) := []
  slots  : Sparse (BitVec 512) := []
  accs   : List AccT := []
  faults : List FaultRec := []
  hot    : List Hot := []
  hotthr : Sparse Nat := []
  wtlb   : Sparse (List (Nat × Nat)) := []
  walks  : List (Nat × Nat × Nat × Nat) := []
  nextChange : Nat := 0
  drains : List (Nat × Nat × Nat) := []
  nextFrame : Nat := 16
  notes  : List (Nat × Nat) := []
  ustamp : Nat := 0
  freePages : Vector Nat 6 := #v[262144, 18874368, 0, 262144, 18874368, 0]
  freeHi : Vector Nat 6 := #v[8192, 262144, 0, 8192, 262144, 0]
  freeLo : Vector Nat 6 := #v[2048, 65536, 0, 2048, 65536, 0]
  host   : HostIf := {}
  stroke : Nat := 0
  stklen : Nat := 65536
  strokePos : Nat := 1
  saves  : List ((Nat × Nat) × Core) := []
  fabric : BitVec 16 := 0
  therm  : BitVec 3 := 0
  deriving DecidableEq, Repr

/-- The machine right after a conventional reset has begun: STATUS.READY is 0, every core idle, memory not yet
written and reading as zero, no input waiting (01 R12, 20 R428, R437). -/
def State.reset : State := { core := Core.reset }

end Sys2Proof.Machine
end

