-- ==== Sys2Proof/Machine/Ops.lean ====
section
/-! DEFINITION. The named operations over registers, granules, tiles and physical memory; scheduling of results; taking
a trap and returning from one. -/

namespace Sys2Proof.Machine

open Sys2Proof

/-- The outcome type of this machine. -/
abbrev Out := Host.Outcome State Fault Refusal

/-! ### Registers -/

/-- X registers: X0 reads zero (01 R13). -/
def Core.x (c : Core) (i : XReg) : Word := if i = 0 then 0 else c.r.x.get i
/-- Q registers: Q0 reads true (01 R14). -/
def Core.q (c : Core) (i : QReg) : Bool := if i = 0 then true else c.r.q.get i
/-- H registers. -/
def Core.h (c : Core) (i : HReg) : Handle := c.r.h.get i
/-- MA registers. -/
def Core.ma (c : Core) (i : BitVec 3) : BitVec 32 := c.r.ma.get i
/-- Staging registers: 0 to 31 SA, 32 to 63 SB (06 R191). -/
def Core.stg (c : Core) (i : BitVec 6) : Word := c.r.stg.get i

/-- The registers with X[d] written; a write to X0 is discarded. -/
def Arch.setX (r : Arch) (d : XReg) (v : Word) : Arch := if d = 0 then r else { r with x := r.x.set d v }
/-- The registers with Q[d] written; a write to Q0 is discarded. -/
def Arch.setQ (r : Arch) (d : QReg) (v : Bool) : Arch := if d = 0 then r else { r with q := r.q.set d v }
/-- The registers with H[d] written. -/
def Arch.setH (r : Arch) (d : HReg) (v : Handle) : Arch := { r with h := r.h.set d v }
/-- Q1 to Q15 from bits 15:1 (05 R149). -/
def Arch.setQAll (r : Arch) (v : BitVec 16) : Arch :=
  { r with q := Vector.ofFn fun i => if i.val = 0 then true else bitAt v i.val }
/-- Sticky flags of binary and integer operations (01 R28). -/
def Arch.raise (r : Arch) (fl : Flags) : Arch := { r with fpstat := r.fpstat ||| (fl &&& 0x7F).setWidth 64 }
/-- Sticky decimal flags. -/
def Arch.raiseDec (r : Arch) (fl : Flags) : Arch := { r with decstat := r.decstat ||| (fl &&& 0x1F).setWidth 64 }

/-- KSTAT fields (01 Table 7). -/
def Arch.gsize (r : Arch) : Nat := fldN r.kstat 12 4
/-- KSTAT.SKEW. -/
def Arch.skew (r : Arch) : Nat := fldN r.kstat 8 4
/-- KSTAT.INH. -/
def Arch.inh (r : Arch) : Bool := bitAt r.kstat 6
/-- KSTAT.SKIPMODE: RELAXED. -/
def Arch.relaxed (r : Arch) : Bool := bitAt r.kstat 5
/-- KSTAT.PROT. -/
def Arch.prot (r : Arch) : Bool := bitAt r.kstat 4
/-- KSTAT.CHK: the checker of a pair. -/
def Arch.chk (r : Arch) : Bool := bitAt r.kstat 3
/-- KSTAT.DET. -/
def Arch.det (r : Arch) : Bool := bitAt r.kstat 2
/-- KSTAT with INH set to `b`. -/
def Arch.setInh (r : Arch) (b : Bool) : Arch := { r with kstat := setFld r.kstat 6 (BitVec.ofBool b) }
/-- KSTAT with WLACT set to `b`. -/
def Arch.setWlact (r : Arch) (b : Bool) : Arch := { r with kstat := setFld r.kstat 1 (BitVec.ofBool b) }
/-- The binary rounding mode RM. -/
def Arch.rm (r : Arch) : Nat := fldN r.rmode 0 2
/-- The decimal rounding mode DRM. -/
def Arch.drm (r : Arch) : Nat := fldN r.rmode 4 3

/-- Does the guard let the operation execute? (03 R88) -/
def Core.guard (c : Core) (g : Guard) : Bool := c.q g.qp != g.qn

/-- The focused core updated. -/
def State.onCore (s : State) (f : Core → Core) : State := { s with core := f s.core }

/-! ### Scheduling (03 R99, R100) -/

/-- A core with a result that becomes visible at cycle `due`, in issue order. -/
def Core.push (c : Core) (due : Nat) (w : Write) : Core :=
  { c with flight := c.flight ++ [{ due := due, seq := c.iss.seq, slot := c.iss.slot, w := w }],
           iss := { c.iss with seq := c.iss.seq + 1 } }

/-- A result of latency `lat`. -/
def State.sched (s : State) (lat : Nat) (w : Write) : State := s.onCore (fun c => c.push (s.cycle + lat) w)

/-- An X result of latency `lat`. -/
def State.schedX (s : State) (lat : Nat) (d : XReg) (v : Word) : State := s.sched lat (.x d v)

/-- An operation under its guard: a guard that reads false has no effect (01 R14). -/
def State.guarded (s : State) (g : Guard) (f : State → State) : Out := .next (if s.core.guard g then f s else s)

/-- The value of the free stream, and the state past it. -/
def State.draw (s : State) : Nat × State := (Config.free s.free, { s with free := s.free + 1 })

/-- A free latency between two bounds (05 R156). -/
def State.drawIn (s : State) (lo hi : Nat) : Nat × State :=
  (lo + Config.free s.free % (hi - lo + 1), { s with free := s.free + 1 })

/-! ### Granules (01 R33) -/

/-- The lowest run of `n` free granules, and the map without it. -/
def allocRun : List (Nat × Nat) → Nat → Option (Nat × List (Nat × Nat))
  | [], _ => none
  | (lo, hi) :: t, n =>
    if lo + n ≤ hi then some (lo, if lo + n = hi then t else (lo + n, hi) :: t)
    else match allocRun t n with
      | some (b, t') => some (b, (lo, hi) :: t')
      | none => none

/-- The map with granules `lo` to `hi - 1` returned. -/
def freeRun : List (Nat × Nat) → Nat → Nat → List (Nat × Nat)
  | [], lo, hi => if lo < hi then [(lo, hi)] else []
  | (a, b) :: t, lo, hi =>
    if hi ≤ lo then (a, b) :: t
    else if hi < a then (lo, hi) :: (a, b) :: t
    else if hi = a then (lo, b) :: t
    else if lo = b then
      (match t with
        | (a', b') :: t' => if hi = a' then (a, b') :: t' else (a, hi) :: t
        | [] => [(a, hi)])
    else (a, b) :: freeRun t lo hi

/-- The map without granules `lo` to `hi - 1`. -/
def takeRun : List (Nat × Nat) → Nat → Nat → List (Nat × Nat)
  | [], _, _ => []
  | (a, b) :: t, lo, hi =>
    if a ≤ lo ∧ hi ≤ b then (if a < lo then [(a, lo)] else []) ++ (if hi < b then [(hi, b)] else []) ++ t
    else (a, b) :: takeRun t lo hi

/-- Granules of the scratchpad for an L1CFG (01 R31). -/
def granulesOf (l1cfg : Nat) : Nat := 16384 - 1024 * l1cfg

/-! ### Tiles (01 R32, R34, R35) -/

/-- The entry of a tile. -/
def Core.tile (c : Core) (t : Nat) : Tile := c.tiles.get {} t
/-- A core with one entry replaced. -/
def Core.setTile (c : Core) (t : Nat) (e : Tile) : Core := { c with tiles := c.tiles.set {} t e }
/-- A core with one entry changed. -/
def Core.modTile (c : Core) (t : Nat) (f : Tile → Tile) : Core := c.setTile t (f (c.tile t))

/-- Bits 127:0 of an entry (01 Table 11). -/
def Tile.bits (e : Tile) : Nat :=
  let b (x : Bool) : Nat := if x then 1 else 0
  e.kind * 2 ^ 125 + e.fmt * 2 ^ 120 + e.own * 2 ^ 116 + b e.exc * 2 ^ 115 + b e.det * 2 ^ 114 + b e.keep * 2 ^ 113 +
  b e.linv * 2 ^ 112 + e.base * 2 ^ 98 + e.ext * 2 ^ 91 + e.lin * 2 ^ 79 + e.rpc * 2 ^ 75 + e.wp * 2 ^ 70 +
  e.rax * 2 ^ 68 + e.val.toNat

/-- The entry that 128 bits hold. -/
def Tile.ofBits (n : Nat) : Tile :=
  let b (k : Nat) : Bool := n.testBit k
  { kind := n / 2 ^ 125 % 8, fmt := n / 2 ^ 120 % 32, own := n / 2 ^ 116 % 16, exc := b 115, det := b 114, keep := b 113,
    linv := b 112, base := n / 2 ^ 98 % 2 ^ 14, ext := n / 2 ^ 91 % 128, lin := n / 2 ^ 79 % 4096,
    rpc := n / 2 ^ 75 % 16, wp := n / 2 ^ 70 % 32, rax := n / 2 ^ 68 % 4, val := BitVec.ofNat 64 n }

/-- The first uncorrectable word of `n` words of an array of a core (17 R405). -/
def Core.badIn (c : Core) (arr lo n : Nat) : Option Nat :=
  (c.badWords.find? (fun b => b.1 == arr && decide (lo ≤ b.2 ∧ b.2 < lo + n))).map (·.2)

/-- Words of a scratchpad region. -/
def Core.spWords (c : Core) (w n : Nat) : List Nat := (c.sp.getMany 0 w n).map (·.toNat)

/-- The elements that words of a row hold, `wd` bits each. -/
def unpackRow (wd : Nat) (words : List Nat) : List Nat :=
  let v := packN 64 words
  tab 64 (fun i => itemN wd v i)

/-- The words of a row of 64 elements. -/
def packRow (wd : Nat) (els : List Nat) : List Word :=
  let v := packN wd els
  tab wd (fun i => BitVec.ofNat 64 (itemN 64 v i))

/-- One row of stored elements of an entry. -/
def Core.storedRow (c : Core) (e : Tile) (r : Nat) : List Nat :=
  let w := (fmtOf e.fmt).width
  unpackRow w (c.spWords (e.base * 16 + r * w) w)

/-- Element (r, col) of a RAMP (01 R35). -/
def rampElem (w rax : Nat) (v : Word) (r col : Nat) : Nat :=
  let i := if rax = 0 then 64 * r + col else if rax = 1 then r else col
  wrapN w (sgn 32 v.toNat + sgn 32 (v.toNat / 2 ^ 32) * i)

/-- One row of the elements a tile reads as (01 R35); a repeater reads its source's. -/
def Core.tileRow (c : Core) (t r : Nat) : List Nat :=
  let e := c.tile t
  let w := (fmtOf e.fmt).width
  match e.kind with
  | 1 => c.storedRow e r
  | 3 => List.replicate 64 (e.val.toNat % 2 ^ w)
  | 4 => tab 64 (rampElem w e.rax e.val r)
  | 5 => c.storedRow (c.tile (e.val.toNat % 4096)) r
  | _ => List.replicate 64 0

/-- One element of a tile. -/
def Core.tileElem (c : Core) (t i : Nat) : Nat := (c.tileRow t (i / 64 % 16)).getD (i % 64) 0

/-- Words `lo` to `lo + n - 1` of an array written whole: what was uncorrectable there is so no more. -/
def Core.mend (c : Core) (arr lo n : Nat) : Core :=
  if c.badWords.isEmpty then c
  else { c with badWords := c.badWords.filter (fun b => !(b.1 == arr && decide (lo ≤ b.2 ∧ b.2 < lo + n))) }

/-- Words written into the scratchpad. -/
def Core.putSp (c : Core) (w : Nat) (l : List Word) : Core := { c.mend 1 w l.length with sp := c.sp.setMany 0 w l }

/-- Elements written into a row of an entry's storage. -/
def Core.putRow (c : Core) (e : Tile) (r : Nat) (els : List Nat) : Core :=
  let w := (fmtOf e.fmt).width
  c.putSp (e.base * 16 + r * w) (packRow w els)

/-- One element written into an entry's storage. -/
def Core.putElem (c : Core) (e : Tile) (i v : Nat) : Core :=
  c.putRow e (i / 64 % 16) ((c.storedRow e (i / 64 % 16)).set (i % 64) v)

/-- Is any element a NaN or an infinity? (01 R36) -/
def anySpecial (f : Fmt) (els : List Nat) : Bool := (f.isBin || f == .dec64) && els.any f.isSpecial

/-- The repeaters of a tile copy its EXC (01 R36). -/
def Core.copyExc (c : Core) (t : Nat) : Core :=
  let e := c.tile t
  if e.rpc = 0 then c
  else (c.tiles.filter (fun p => p.2.kind == 5 && p.2.val.toNat % 4096 == t)).foldl
    (fun c p => c.modTile p.1 (fun x => { x with exc := e.exc })) c

/-- An entry written into a STORED tile, whose repeaters copy its EXC. -/
def Core.setStored (c : Core) (t : Nat) (e : Tile) : Core := (c.setTile t e).copyExc t

/-- A core whose free map and FREEGR take back an entry's storage. -/
def Core.giveBack (c : Core) (e : Tile) : Core :=
  if e.ext = 0 then c
  else { c with free := freeRun c.free e.base (e.base + e.ext), r := { c.r with freegr := c.r.freegr + e.ext } }

/-- A core whose tile `s` counts one repeater less. -/
def Core.dropRep (c : Core) (e : Tile) : Core :=
  if e.kind = 5 then c.modTile (e.val.toNat % 4096) (fun s => { s with rpc := s.rpc - 1 }) else c

/-- No detection pending on tile `t` (06 R189). -/
def Core.cancel (c : Core) (t : Nat) : Core := { c with dets := c.dets.filter (fun d => d.tile != t) }

/-- The KIND code of a symbol. -/
def Sym.kind : Sym → Nat
  | .zero => 2 | .const _ => 3 | .ramp _ _ => 4 | .rep _ => 5
/-- The VAL of a symbol. -/
def Sym.val : Sym → Word
  | .zero => 0 | .const v => v | .ramp _ v => v | .rep t => BitVec.ofNat 64 t
/-- The RAX of a symbol. -/
def Sym.rax : Sym → Nat
  | .ramp r _ => r | _ => 0

/-- Tile `t` becomes a symbol of format `fmt` (06 R181): its storage returns unless KEEP holds it at this width. A tile that
gains a repeater stays STORED: no detection is pending on it (06 R188). -/
def Core.makeSym (c : Core) (t fmt : Nat) (s : Sym) : Core :=
  let e := c.tile t
  let keeps := e.keep && e.ext == (fmtOf fmt).extent
  let c := (c.dropRep e).cancel t
  let c := if keeps then c else c.giveBack e
  let exc := match s with
    | .const v => (fmtOf fmt).isSpecial v.toNat
    | .rep t' => (c.tile t').exc
    | _ => false
  let c := match s with
    | .rep t' => (c.modTile t' (fun x => { x with rpc := x.rpc + 1 })).cancel t'
    | _ => c
  c.setTile t { kind := s.kind, fmt := fmt, own := e.own, gseq := e.gseq, exc := exc, det := e.det, keep := e.keep, base := if keeps then e.base else 0,
                ext := if keeps then e.ext else 0, lin := e.lin, rpc := e.rpc, rax := s.rax, val := s.val }

/-- May tile `t` become the symbol as the entries now stand: nothing repeats it, and a repeater's source is STORED with
room for one more repeater (01 R35, 06 R181). -/
def Core.symOk (c : Core) (t : Nat) (s : Sym) : Bool :=
  (c.tile t).rpc == 0 &&
  (match s with
    | .rep t' => t' != t && (c.tile t').kind == 1 && decide ((c.tile t').rpc < 15)
    | _ => true)

/-- The retype rules of 06 Table 5. -/
def Tile.retypeOk (e : Tile) (fmt : Nat) : Bool :=
  let f := fmtOf fmt
  let same := f.width == (fmtOf e.fmt).width
  match e.kind with
  | 1 => e.rpc == 0 && same
  | 2 => true
  | 3 => same
  | 4 => same && f.isInt
  | _ => false

/-- The owner of an entry set; a grant, from OWN 0 to an engine, with the issue number `seq` of the next operation (10 R307). -/
def Tile.setOwn (e : Tile) (o seq : Nat) : Tile := { e with own := o, gseq := if o = 0 then 0 else if e.own = 0 then seq else e.gseq }

/-- A change of the tile table at its visible cycle (06 R178 to R190). A change that the entries as they then stand
no longer admit, because another change became visible since its issue, is not applied: the invariants of 01 R35 hold
at every cycle. -/
def Core.applyTile (c : Core) (o : TileOp) : Core :=
  match o with
  | .alloc t fmt det keep base =>
    let f := fmtOf fmt
    if (c.tile t).kind ≠ 0 then { c with free := freeRun c.free base (base + f.extent) } else
    let c := c.setTile t { kind := 1, fmt := fmt, exc := f.isBin || f == .dec64, det := det, keep := keep, base := base, ext := f.extent }
    { c with r := { c.r with freegr := c.r.freegr - f.extent } }
  | .free t =>
    let e := c.tile t
    if e.rpc ≠ 0 then c else (((c.dropRep e).cancel t).giveBack e).setTile t {}
  | .sym t fmt s =>
    if c.symOk t s then c.makeSym t (match s with | .rep t' => (c.tile t').fmt | _ => fmt) s else c
  | .retype t fmt =>
    let e := c.tile t
    let f := fmtOf fmt
    if !e.retypeOk fmt then c else
    let c := c.cancel t
    let drop := e.kind == 2 && e.ext != 0 && e.ext != f.extent
    let c := if drop then c.giveBack e else c
    let exc := if e.kind = 2 ∨ e.kind = 4 then false else if e.kind = 3 then f.isSpecial e.val.toNat
      else if f.isBin || f == .dec64 then e.exc || e.fmt != fmt else false
    c.setTile t { e with fmt := fmt, exc := exc, base := if drop then 0 else e.base, ext := if drop then 0 else e.ext }
  | .own t o => if (c.tile t).kind = 0 then c else c.modTile t (fun e => e.setOwn o c.iss.seq)
  | .flags t wdet det wkeep keep =>
    let e := c.tile t
    if e.kind = 0 then c else
    let c := if wdet && !det then c.cancel t else c
    let drop := wkeep && !keep && e.kind != 1 && e.ext != 0
    let c := if drop then c.giveBack e else c
    c.setTile t { e with det := if wdet then det else e.det, keep := if wkeep then keep else e.keep,
                         base := if drop then 0 else e.base, ext := if drop then 0 else e.ext }

/-! ### Promotion (06 R186) -/

/-- Tiles that are symbols. -/
def Tile.isSym (e : Tile) : Bool := decide (2 ≤ e.kind ∧ e.kind ≤ 5)

/-- Does the storage planned for a symbol at the hold's start still suit its entry: the kept storage, or a run of the size
its format now has? -/
def Tile.promoFits (e : Tile) (run : Option (Nat × Nat)) : Bool :=
  e.isSym && (match run with
    | none => e.ext == (fmtOf e.fmt).extent
    | some (_, n) => e.ext == 0 && n == (fmtOf e.fmt).extent)

/-- Planned granules that no tile has received return to the free map. -/
def Core.unplan (c : Core) (run : Option (Nat × Nat)) : Core :=
  match run with
  | some (b, n) => { c with free := freeRun c.free b (b + n) }
  | none => c

/-- One tile of the plan becomes STORED with the elements its symbol read as (06 R186 step 3). Mark: DESIGN CHOICE (log 46):
a tile that a result in flight has changed inside the hold, so that the planned storage no longer suits it, is not
promoted and its planned granules return; the bundle, evaluated afresh, promotes what still needs it. -/
def Core.promoteOne (c : Core) (t : Nat) (run : Option (Nat × Nat)) : Core :=
  let e := c.tile t
  if !e.promoFits run then c.unplan run else
  let rows := tab 16 (fun r => c.tileRow t r)
  let f := fmtOf e.fmt
  let c := c.dropRep e
  let e' : Tile := { e with kind := 1, val := 0, rax := 0, pass := 0, base := (run.map (·.1)).getD e.base, ext := f.extent,
                            lin := if e.kind = 5 then e.val.toNat % 4096 else e.lin, linv := if e.kind = 5 then true else e.linv }
  let c := c.setTile t e'
  let c := match run with
    | some _ => { c with r := { c.r with freegr := c.r.freegr - f.extent } }
    | none => c
  (List.range 16).foldl (fun c r => c.putRow e' r (rows.getD r [])) c

/-- A repeater that a TSYM REPEAT of the pair makes before its source is written (06 Table 4). -/
def Core.makeRep (c : Core) (x : Nat × Nat) : Core :=
  if c.symOk x.1 (.rep x.2) then
    { c.makeSym x.1 (c.tile x.2).fmt (.rep x.2) with hold := { c.hold with symDone := some x.1 } }
  else c

/-- The hold is over: its repeaters are made and its promotions become visible (06 R186 step 4). -/
def Core.finishPromo (c : Core) : Core :=
  match c.hold.promo with
  | some p =>
    let c := p.tiles.foldl (fun c x => c.promoteOne x.1 x.2) (p.reps.foldl Core.makeRep c)
    { c with hold := { c.hold with promo := none } }
  | none => c

/-- The hold is abandoned (06 R187, 16 R395): nothing of it has become visible, and its granules return. -/
def Core.dropPromo (c : Core) : Core :=
  match c.hold.promo with
  | some p =>
    let c := p.tiles.foldl (fun c x => c.unplan x.2) c
    { c with hold := { c.hold with promo := none } }
  | none => c

/-! ### Detection (06 R188) -/

/-- Signed 32-bit start and step as a RAMP's VAL. -/
def rampVal (start step : Int) : Word := BitVec.ofNat 64 (wrapN 32 start + 2 ^ 32 * wrapN 32 step)

/-- Start and step as a RAMP holds them in a format of `w` bits, where it can (06 R188, 07 R217). -/
def rampFit (w : Nat) (start step : Int) : Option Word :=
  if w ≤ 32 then some (rampVal (sgn w (wrapN w start)) (sgn w (wrapN w step)))
  else if -(2 ^ 31) ≤ start ∧ start < 2 ^ 31 ∧ -(2 ^ 31) ≤ step ∧ step < 2 ^ 31 then some (rampVal start step)
  else none

/-- The progression check of one axis. -/
def rampCheck (f : Fmt) (els : List Nat) (rax : Nat) : Option Sym :=
  let w := f.width
  let a := els.getD 0 0
  let b := els.getD (if rax = 1 then 64 else 1) 0
  let s := if w ≤ 32 then sgn w a else sgn 64 a
  let q := if w ≤ 32 then sgn w b - sgn w a else sgn 64 b - sgn 64 a
  match rampFit w s q with
  | none => none
  | some v => if (tab 1024 (fun i => rampElem w rax v (i / 64) (i % 64))) = els then some (.ramp rax v) else none

/-- The symbol a completed write detects, if any (06 R188). -/
def Core.detectSym (c : Core) (t : Nat) : Option Sym :=
  let e := c.tile t
  let f := fmtOf e.fmt
  let els := (List.range 16).flatMap (c.tileRow t)
  let a := els.headD 0
  if els.all (fun x => x == 0) then some .zero
  else if els.all (fun x => x == a) then some (.const (BitVec.ofNat 64 a))
  else
    let ramps := if f.isInt then (List.range 3).findSome? (rampCheck f els) else none
    match ramps with
    | some s => some s
    | none =>
      let l := c.tile e.lin
      if e.linv && e.lin != t && l.kind == 1 && l.fmt == e.fmt && decide (l.rpc < 15) &&
          (List.range 16).flatMap (c.tileRow e.lin) == els then some (.rep e.lin)
      else none

/-- Is the task's context being saved, after a pre-emption has halted it? -/
def Task.saves (k : Task) : Bool := match k.phase with | .saving _ => true | _ => false

/-- A write completion on a tile at cycle `now`: detection starts where DET is set and nothing repeats the tile; none is
pending once a pre-emption has halted the task (06 R189). -/
def Core.completion (c : Core) (now t : Nat) : Core :=
  let e := c.tile t
  let c := c.cancel t
  if e.det && e.kind == 1 && e.rpc == 0 && !c.task.saves then
    match c.detectSym t with
    | some s => { c with dets := c.dets ++ [{ tile := t, due := now + 17, sym := s }] }
    | none => c
  else c

/-! ### Counting results in flight (01 R42) -/

/-- Destinations of 01 R42 that one write counts for; a write that X0 or Q0 discards counts none, and neither do the
state of a port, a pattern entry or a Windlass word, which R42 does not list. -/
def Write.count : Write → Nat
  | .x d _ => if d = 0 then 0 else 1
  | .q d _ => if d = 0 then 0 else 1
  | .rows _ _ p => if p.isSome then 18 else 16
  | .port _ _ _ | .portStep _ _ | .portSet _ _ | .pattern _ _ _ | .wlWord _ _ _ => 0
  | .claim _ n | .release _ n => n
  | .grant _ _ _ | .slotOwn _ | .slotFree _ => 0
  | .vec v =>
    (match v.dest with | .rows l => l.length | .sym _ _ => 16 | .discard => 0) + (if v.sum.isSome then 1 else 0)
  | _ => 1

/-- Results in flight. -/
def flightCount (l : List Pend) : Nat := l.foldl (fun n p => n + p.w.count) 0

/-! ### Windlass position (09 R291) -/

/-- The template word of a level: prologue 11, body 12, epilogue 13. -/
def Wl.tplWord (w : Wl) (lv k : Nat) : Word := w.cap.get 0 (lv * 16 + 11 + k)
/-- Entries of a template. -/
def Wl.tplLen (w : Wl) (lv k : Nat) : Nat := fldN (w.tplWord lv k) 16 11
/-- First dictionary entry of a template. -/
def Wl.tplStart (w : Wl) (lv k : Nat) : Nat := fldN (w.tplWord lv k) 0 10

/-- The nest after the end of a pass: at the next pass with at least one entry, or finished. The fuel bounds the
prologues and epilogues of six levels; a body is never empty (R291). -/
def Wl.nextPass : Nat → Wl → Wl
  | 0, w => { w with fin := true }
  | f + 1, w =>
    let enter (w : Wl) : Wl := { w with entry := w.tplStart w.level w.tpl }
    let go (w : Wl) : Wl := if w.tplLen w.level w.tpl = 0 then Wl.nextPass f w else enter w
    let wcAt (w : Wl) (l : Nat) : Nat := w.wc.toList.getD l 0
    let setWc (w : Wl) (l v : Nat) : Wl := { w with wc := w.wc.setIfInBounds l v }
    let loopOn (w : Wl) : Wl :=
      if wcAt w w.level < w.trips.toList.getD w.level 0 then go { w with tpl := 1 } else go { w with tpl := 2 }
    match w.tpl with
    | 0 => loopOn w
    | 1 =>
      if w.level + 1 < w.depth then
        go (setWc { w with level := w.level + 1, tpl := 0, lv := if bitAt (w.cap.get 0 ((w.level + 1) * 16)) 8 then 0 else w.lv,
                           seen := if bitAt (w.cap.get 0 ((w.level + 1) * 16)) 8 then none else w.seen,
                           look := if bitAt (w.cap.get 0 ((w.level + 1) * 16)) 8 then none else w.look } (w.level + 1) 0)
      else loopOn (setWc w w.level (wcAt w w.level + 1))
    | _ =>
      if w.level = 0 then { w with fin := true }
      else
        let w := { w with level := w.level - 1 }
        loopOn (setWc w w.level (wcAt w w.level + 1))

/-- Fuel that suffices for the empty passes between two bundles. -/
def wlFuel : Nat := 32

/-- The position after the bundle at it has issued. -/
def Wl.advance (w : Wl) : Wl :=
  if w.entry + 1 < w.tplStart w.level w.tpl + w.tplLen w.level w.tpl then { w with entry := w.entry + 1 }
  else if w.stop then { w with fin := true }
  else Wl.nextPass wlFuel w

/-- The position WLSTAT item 16 returns (09 R290). -/
def Wl.position (w : Wl) : Word :=
  BitVec.ofNat 64 (w.entry % 1024 + w.level % 8 * 2 ^ 10 + w.tpl % 4 * 2 ^ 13 + (if w.susp then 2 ^ 15 else 0) +
    (if w.active then 2 ^ 16 else 0))

/-- The value that names a replayed bundle in a trap (09 R295), or a stream bundle's own index. -/
def Core.pcValue (c : Core) (ix : ParcelIx) : Word :=
  if c.wl.active then BitVec.ofNat 64 (c.wl.runIx.toNat + c.wl.entry % 1024 * 2 ^ 47 + 2 ^ 63) else ix.setWidth 64

/-- The value that names the issue under way, by its first bundle. -/
def Core.pairValue (c : Core) : Word := if c.iss.replay then c.pcValue c.iss.pairPc else c.iss.pairPc.setWidth 64

/-- The value that names the bundle of the operation at issue: of a pair that is replayed, the second has the next entry. -/
def Core.opValue (c : Core) : Word :=
  if c.iss.replay then BitVec.ofNat 64 (c.wl.runIx.toNat + (c.wl.entry + c.iss.part) % 1024 * 2 ^ 47 + 2 ^ 63) else c.iss.pc.setWidth 64

/-- The ITILE of a suspended or finished replay returns to the core (09 R291), also where its grant is still to take effect. -/
def Core.dropItile (c : Core) : Core :=
  match c.wl.itile with
  | some t => { c.modTile t (fun e => e.setOwn 0 0) with wl := { c.wl with itile := none }, flight := c.flight.filter (fun p => p.w != .grant t 10 none) }
  | none => c

/-! ### Taking a trap (16 R392, R393) -/

/-- Is the write an engine's own, which no trap captures? -/
def Write.engine : Write → Bool
  | .slotFree _ | .grant _ _ _ | .slotOwn _ => true
  | _ => false

/-- The engines' writes among those in flight, and forwarded answers of memory. -/
def engineWrites (l : List Pend) : List Pend := l.filter (fun p => p.w.engine || p.ans)

/-- Results in flight become captured results with the cycles they have left (01 R42). -/
def capture (now : Nat) (l : List Pend) : List Pend :=
  (l.filter (fun p => !(p.w.engine || p.ans))).map (fun p => { p with due := p.due - now })

/-- TRAPCAUSE of a trap. -/
def Trap.cause (t : Trap) : Word := BitVec.ofNat 64 (t.slot % 16 * 256 + t.code % 256)

/-- The Windlass suspended by a trap: `past` counts the bundles that stand as issued, up to TRAP's own (TRAPI) (09 R295). -/
def Core.suspend (c : Core) (past : Nat) : Core :=
  if c.wl.active then
    let w := (List.range past).foldl (fun w _ => w.advance) c.wl
    { c with wl := { w with active := false, susp := true }, r := c.r.setWlact false }
  else c

/-- Issue numbers passed over at a trap, more than an issue can use: accesses of the bundle that did not issue, which a fault record may
name, share none with later ones. -/
def tripSeqs : Nat := 16

/-- Taking trap `t` at cycle `now`, with TRAPPC `pc`: in order, issue stops, results in flight are captured, the cause
registers are written together, INH is set and the pc goes to the handler, whose first bundle issues at `now + 4`.
The trap ends the task where it has no handler, is a gang, has INH set, or has issued HALT. Mark: DESIGN CHOICE (log 48): the
writes of the group that the trap cuts do not count for the group check (03 R95) in the handler. -/
def Core.enterTrap (c : Core) (now : Nat) (t : Trap) (pc : ParcelIx) (past : Nat := 0) : Core :=
  match c.task.phase with
  | .ending f _ endpc _ =>
    if f then { c with flight := engineWrites c.flight }
    else { c with flight := engineWrites c.flight, heldCls := [], task := { c.task with phase := .ending true t.code endpc false } }
  | _ =>
    let pc := if c.wl.active then c.wl.runIx else pc
    match c.kern.handler with
    | some h =>
      if c.r.inh || decide (1 < c.r.gsize) then
        { c with flight := engineWrites c.flight, captured := [], resume := none, heldCls := [],
                 task := { c.task with phase := .ending true t.code pc c.r.inh } }
      else
        let c := (c.suspend past).dropPromo
        let cap := c.captured ++ capture now c.flight ++ c.halted
        { c with flight := engineWrites c.flight, captured := cap, halted := [], hold := { obj := c.hold.obj },
                 r := ({ c.r with tcause := t.cause, tpc := pc.setWidth 64, taddr := t.addr, tinfo := t.info,
                                  prcount := flightCount cap }).setInh true,
                 pc := BitVec.ofNat 47 (c.kern.text + h),
                 declared := c.declared.filter (fun d => match d.2.2 with | some n => decide (n < c.iss.seq) | none => false),
                 iss := { c.iss with ready := now + 4, drain := true, written := [], seq := c.iss.seq + tripSeqs } }
    | none =>
      { c with flight := engineWrites c.flight, captured := [], resume := none, heldCls := [],
               task := { c.task with phase := .ending true t.code pc c.r.inh } }

/-- An issue-time trap raised by the operation in the issuing slot: taken at this cycle, with TRAPPC the first parcel of
the bundle or pair (03 R104). The verdict tells the bundle's issue to undo its earlier operations. -/
def State.trapSlot (s : State) (t : Trap) (past : Nat := 0) : State :=
  s.onCore (fun c => { c.enterTrap s.cycle t c.iss.pairPc past with iss := { (c.enterTrap s.cycle t c.iss.pairPc past).iss with verdict := .trap t } })

/-- A trap of the issuing operation, its slot number filled in. -/
def State.trap (s : State) (code : Nat) (addr : Word := 0) (i0 i1 i2 i3 : Word := 0) : State :=
  s.trapSlot { code := code, slot := s.core.iss.slot, addr := addr, info := #v[i0, i1, i2, i3] }

/-- ENC (16 Table 6), with the refusing rule's value in TRAPINFO1. -/
def State.trapEnc (s : State) (why : Word := 0) : State := s.trap 0x01 0 0 why
/-- HANDLE: TRAPINFO1 names the register. -/
def State.trapHandle (s : State) (r : HReg) : State := s.trap 0x06 0 0 (r.setWidth 64)
/-- TILE with a reason; `slot` marks an operand slot (06 R177, 08 R241). -/
def State.trapTile (s : State) (tix reason : Nat) (want : Nat := 0) (slot : Bool := false) : State :=
  s.trap 0x05 0 (BitVec.ofNat 64 (tix % 4096)) (BitVec.ofNat 64 reason) (BitVec.ofNat 64 want) (if slot then 1 else 0)
/-- DFAULT with a reason (05 Table 10). -/
def State.trapData (s : State) (addr : Word) (reason : Nat) (i2 : Word := 0) : State :=
  s.trap 0x03 addr 0 (BitVec.ofNat 64 reason) i2
/-- PRIV. -/
def State.trapPriv (s : State) : State := s.trap 0x0D

/-- The bundle waits: it is evaluated afresh in a later cycle (03 R102). -/
def State.wait (s : State) : State := s.onCore (fun c => { c with iss := { c.iss with verdict := .held } })

/-! ### Physical memory -/

/-- What an unlisted byte of memory reads as: every memory is written with zeros at boot (20 R437, log 1). -/
def memDefault : Byte := 0

/-- One byte of physical memory. -/
def State.readByte (s : State) (a : Nat) : Byte := Sparse.get memDefault s.mem a

/-- One byte of physical memory written. -/
def State.writeByte (s : State) (a : Nat) (v : Byte) : State := { s with mem := Sparse.set memDefault s.mem a v }

/-- The canonical form of memory. -/
def Memory.wf (m : List Host.Cell) : Bool := Sparse.wf memDefault m

/-- Bytes of physical pieces (address, length). -/
def State.readPieces (s : State) (l : List (Nat × Nat)) : List Byte :=
  l.flatMap (fun p => Sparse.getMany memDefault s.mem p.1 p.2)

/-- Bytes written to physical pieces. -/
def State.writePieces (s : State) : List (Nat × Nat) → List Byte → State
  | [], _ => s
  | (a, n) :: t, bs => State.writePieces { s with mem := Sparse.setMany memDefault s.mem a (bs.take n) } t (bs.drop n)

/-! ### Signatures of a pair (17 R408) -/

/-- A number for a Bool. -/
def bitN (b : Bool) : Nat := if b then 1 else 0

/-- What a symbol contributes. -/
def Sym.sig : Sym → List Nat
  | .zero => [0]
  | .const v => [1, v.toNat]
  | .ramp a v => [2, a, v.toNat]
  | .rep k => [3, k]

/-- What a change of a tile's entry contributes; the granules of a pair's two cores are their own. -/
def TileOp.sig : TileOp → List Nat
  | .alloc t f det keep _ => [0, t, f, bitN det, bitN keep]
  | .free t => [1, t]
  | .sym t f y => [2, t, f] ++ y.sig
  | .retype t f => [3, t, f]
  | .own t o => [4, t, o]
  | .flags t wd d wk k => [5, t, bitN wd, bitN d, bitN wk, bitN k]

/-- Where the result of a vector operation goes, for a signature. -/
def VDest.sig : VDest → List Nat
  | .rows l => 0 :: l.flatMap (fun x => [x.1, x.2])
  | .sym t r => 1 :: t :: (match r with | .elem => [0] | .red => [1] | .ramp y => 2 :: y.sig)
  | .discard => [2]

/-- What a result contributes to the signature of the cycle in which it becomes visible; what passes to an engine is not compared. -/
def Write.sig : Write → List Nat
  | .x d v => [1, d.toNat, v.toNat]
  | .xfp d v fl => [1, d.toNat, v.toNat, fl.toNat]
  | .q d v => [2, d.toNat, bitN v]
  | .qfp d v fl => [2, d.toNat, bitN v, fl.toNat]
  | .fp fl => [14, fl.toNat]
  | .tile o => 15 :: o.sig
  | .treeClear => [16]
  | .port p s _ => [17, p, bitN s.bound, s.walk.toNat, s.i0, s.i1, s.i2, bitN s.wrap]
  | .portStep p n => [18, p, n]
  | .portSet p w => [22, p, w.toNat]
  | .wlWord l k v => [19, l, k, v.toNat]
  | .seqlen v => [20, v.toNat]
  | .patSwitch => [21]
  | .qAll v => [3, v.toNat]
  | .h d v => [4, d.toNat, v.toNat]
  | .ma d v => [5, d.toNat, v.toNat]
  | .stg d v => [6, d.toNat, v.toNat]
  | .ctl n v => [7, n, v.toNat]
  | .elem t ix v => [8, t, ix, v.toNat]
  | .rows t l path => 9 :: t :: l ++ (match path with | some (d, v) => [d.toNat, v.toNat] | none => [])
  | .node k v => [10, k, v.toNat]
  | .claim lo n => [24, lo, n]
  | .release lo n => [25, lo, n]
  | .vec v => 11 :: v.dest.sig ++ v.res.flatMap (fun r => [r.1, r.2.toNat]) ++ (match v.sum with | some (d, y, fl) => [d.toNat, y.toNat, fl.toNat] | none => [])
  | .pattern b e v => [12, b, e, v.toNat]
  | _ => []

/-- A contribution to the signature of the current cycle. -/
def Core.sign (c : Core) (l : List Nat) : Core := if c.r.prot && !l.isEmpty then { c with sigNow := c.sigNow ++ [(Config.crc64 l).toNat] } else c

/-! ### Cores -/

/-- Any core: the focused one or a parked one. -/
def State.coreAt (s : State) (i : Nat) : Core := if i = s.cid then s.core else Sparse.get Core.reset s.others i

/-- A state with one core replaced. -/
def State.putCore (s : State) (i : Nat) (c : Core) : State :=
  if i = s.cid then { s with core := c } else { s with others := Sparse.set Core.reset s.others i c }

/-- The focus moved to core `i`. -/
def State.focus (s : State) (i : Nat) : State :=
  if i = s.cid then s
  else { s with core := Sparse.get Core.reset s.others i, cid := i,
                others := Sparse.set Core.reset (Sparse.del s.others i) s.cid s.core }

/-- `f` done with the focus on core `i`. -/
def State.withCore (s : State) (i : Nat) (f : State → State) : State :=
  let old := s.cid
  (f (s.focus i)).focus old

/-- Die, well and core-in-well of a core number (00 R2). -/
def dieOf (i : Nat) : Nat := i / 192
/-- The well of a core within its die. -/
def wellOf (i : Nat) : Nat := i % 192 / 12
/-- The core within its well. -/
def numOf (i : Nat) : Nat := i % 12
/-- The number of a core. -/
def coreNo (die well num : Nat) : Nat := die * 192 + well * 12 + num

/-- Cores that hold a task: the focused one and the listed ones. -/
def State.busyCores (s : State) : List Nat :=
  sortN ((if s.core.task.phase ≠ .idle then [s.cid] else []) ++
    (s.others.filter (fun e => decide (e.2.task.phase ≠ .idle))).map (·.1))

/-- Every core changed by `f`. -/
def State.mapCores (s : State) (f : Nat → Core → Core) : State :=
  { s with core := f s.cid s.core,
           others := (s.others.map (fun e => (e.1, f e.1 e.2))).filter (fun e => decide (e.2 ≠ Core.reset)) }

end Sys2Proof.Machine
end

