-- ==== Sys2Proof/Machine/Pair.lean ====
section
/-! DEFINITION. Pairs: effects that leave the leader once, and their log (17 R406, R409, R414, R415). -/

namespace Sys2Proof.Machine

open Sys2Proof

/-- The other core of a pair: leader 2k, checker 2k + 1 (17 R406). -/
def peerOf (cid : Nat) : Nat := if cid % 2 = 0 then cid + 1 else cid - 1

/-- Is the focused core the leader of a pair? -/
def State.leads (s : State) : Bool := s.core.r.prot && !s.core.r.chk

/-- Both cores of the focused core's pair changed. -/
def State.onPair (s : State) (f : Core → Core) : State :=
  let p := peerOf s.cid
  (s.putCore p (f (s.coreAt p))).onCore f

/-- The task of a pair ends FAILED with CAUSE 0xF1: a rewind is impossible (17 R415). What has not been released never
leaves the pair (17 R409). -/
def State.failPair (s : State) : State :=
  s.onPair (fun c =>
    { c with flight := [], captured := [], resume := none,
             mu := c.mu.filter (fun i => decide (i.at_ + 3 < s.cycle)), sump := c.sump.filter (fun e => decide (e.at_ + 3 < s.cycle)),
             chans := c.chans.map (fun h => { h with queue := h.queue.filter (fun k => k.marker.isSome || decide (k.issued + 3 < s.cycle)) }),
             sigs := [], sigNow := [], segOpen := false, strike := none, back := none, bcast := [],
             task := { c.task with phase := .ending true 0xF1 c.pc false } })

/-- Has the checker opened the segment that its leader has open? -/
def State.bothOpen (s : State) : Bool :=
  let lead := if s.core.r.chk then peerOf s.cid else s.cid
  let a := s.coreAt lead
  let b := s.coreAt (peerOf lead)
  !a.segOpen || (b.segOpen && b.segAt == a.segAt + 2)

/-- Is the core one of a pair whose task has not failed and has not been ended by firmware? -/
def Core.paired (c : Core) : Bool :=
  c.r.prot && (match c.task.phase with | .idle | .killed | .ending true 0xF1 _ _ => false | _ => true)

/-- Does an event of 17 R412 rewind the focused core's pair? An abort completion on the physical address that caused the last rewind of
the segment does not (R415); an uncorrectable local word has no such address. -/
def State.strikes (s : State) (addr : Option Nat) : Bool := s.core.paired && !(addr.isSome && s.core.abort == addr)

/-- An abort completion at a physical address, or an uncorrectable local word, that a core of a pair consumes: the pair is to rewind (17
R412, R415). A checker that has still to open its leader's segment has none to rewind to. Otherwise `other` happens. -/
def State.struck (s : State) (addr : Option Nat) (other : State) : State :=
  if !s.strikes addr then other
  else if s.core.r.chk && !s.bothOpen then s.failPair
  else s.onPair (fun c => { c with strike := some (c.strike.getD addr) })

/-- ABORT of a core-local word that an operation in a slot reads: array, index (17 R405). -/
def abortTrap (slot : Nat) (x : Nat × Nat) : Trap :=
  { code := 0x04, slot := slot, info := #v[0, BitVec.ofNat 64 x.1, BitVec.ofNat 64 x.2, 0] }

/-- During a replay an effect of 17 Table 3 is matched with the oldest log entry not yet used, and its local part takes
effect from the entry; with none left, and outside a replay, it is performed as new (17 R414). -/
def State.replayed (s : State) (op addr : Nat) (src : List Nat) (new : State → State) (old : LogEntry → State → State) :
    State :=
  match if s.core.r.prot then s.core.log.find? (fun e => !e.used) else none with
  | some e =>
    if e.op = op ∧ e.addr = addr ∧ e.src = src then
      old e (s.onCore (fun c => { c with log := c.log.map (fun x => if x = e then { x with used := true } else x) }))
    else s.failPair
  | none => new s

/-- The oldest log entry not yet used, where it is of this effect. -/
def Core.logged (c : Core) (op addr : Nat) (src : List Nat) : Option LogEntry :=
  (if c.r.prot then c.log.find? (fun e => !e.used) else none).filter (fun e => e.op == op && e.addr == addr && e.src == src)

/-- An effect met and performed as new now enters the log of an open segment. -/
def Core.logNew (c : Core) (now op addr : Nat) (src : List Nat) : Core :=
  if c.r.prot && c.segOpen then
    { c with log := c.log ++ [{ op := op, addr := addr, src := src, ret := [], adv := 0, used := true, at_ := now, seq := c.iss.seq }] }
  else c

/-- An effect of 17 Table 3; its address and data are part of the signature (R408). -/
def State.effect (s : State) (op addr : Nat) (src : List Nat) (new : State → State) (old : LogEntry → State → State) :
    State :=
  (s.onCore (fun c => c.sign (23 :: op :: addr :: src))).replayed op addr src (fun s => new (s.onCore (fun c => c.logNew s.cycle op addr src))) old

/-- The logged results of an effect, written at issue + 1 (17 R414); an object operation that was refused traps again. -/
def LogEntry.deliver (e : LogEntry) (s : State) : State :=
  match e.trap with
  | some t => s.trapSlot { t with slot := s.core.iss.slot }
  | none => e.ret.foldl (fun s w => s.sched 1 w) s

/-- Has the effect an issue number of its own? An object operation and a SYNC hold the number that their bundle's next result takes. -/
def LogEntry.numbered (e : LogEntry) : Bool := !(decide (0xA0 ≤ e.op) && decide (e.op < 0xA8)) && e.op != 0x71

/-- What an effect returned, kept in the log of each core that logged it. -/
def Core.logRet (c : Core) (seq : Nat) (l : List Write) : Core :=
  { c with log := c.log.map (fun e => if e.seq = seq ∧ e.numbered = true then { e with ret := l } else e) }

/-- A value that memory returns, written to its register. -/
def Arch.take (r : Arch) (w : Write) : Arch :=
  match w with
  | .x d v => r.setX d v
  | .q d v => r.setQ d v
  | .h d v => r.setH d v
  | .fp fl => r.raise fl
  | _ => r

/-- An answer of an access made before the open segment belongs to its checkpoint too: a rewind does not make that access
again (17 R413). -/
def Core.late (c : Core) (seq : Nat) (w : Write) : Core :=
  { c with ckpt := c.ckpt.map (fun k => if seq < k.seq then { k with r := k.r.take w } else k) }

/-- Is the access older than the core's checkpoint? -/
def Core.older (c : Core) (seq : Nat) : Bool := match c.ckpt with | some k => decide (seq < k.seq) | none => false

/-- A value that a checker takes from its leader's issue, where its leader passed one (17 R407). -/
def State.passed (s : State) (num : Nat) (own : Word) : Word :=
  match if s.core.r.chk then s.core.iss.fwd.find? (fun e => e.1 == num) else none with
  | some e => e.2
  | none => own

/-- A leader passes a value it read to its checker. -/
def State.pass (s : State) (num : Nat) (v : Word) : State :=
  s.onCore (fun c => if c.r.prot && !c.r.chk then { c with iss := { c.iss with fwd := c.iss.fwd ++ [(num, v)] } } else c)

/-- Cycles by which protected mode delays an effect and a hold that waits for an answer from outside (17 R409). -/
def Core.release (c : Core) : Nat := if c.r.prot then 3 else 0

end Sys2Proof.Machine
end

