-- ==== Sys2Proof/Machine/Flags.lean ====
section
/-! DEFINITION. Flag computations: the sticky registers, trap enables and the fields a trap reports (01 R27 to R29,
02 R55, 07 R234, R235). -/

namespace Sys2Proof.Machine

open Sys2Proof

/-- The enabled exceptions of a trap code: DECEN for DECX, F64EN for F64X (01 Table 10). -/
def Arch.enables (r : Arch) (code : Nat) : Nat :=
  if code = 0x0A then fldN r.excmask 8 5 else if code = 0x0B then fldN r.excmask 0 5 else 0

/-- The exceptions an element raises: an exact tiny result signals underflow where that trap is enabled (02 R55). -/
def raised (en : Nat) (fl : Flags) : Nat :=
  let base := fl.toNat % 32
  if fl &&& fTINY ≠ 0 ∧ en.testBit 3 then base ||| 8 else base

/-- Does an element raise an enabled exception? -/
def offends (en : Nat) (fl : Flags) : Bool := raised en fl &&& en != 0

/-- XFL of TRAPINFO0: invalid in bit 4 down to inexact in bit 0 (01 Table 8). -/
def xflOf (ex : Nat) : Nat :=
  (List.range 5).foldl (fun acc i => acc + (if ex.testBit i then 2 ^ (4 - i) else 0)) 0

/-- TRAPINFO0 (01 Table 8). -/
def trapInfo0 (xfl fmt col row tix : Nat) : Word :=
  BitVec.ofNat 64 (xfl * 2 ^ 27 + fmt * 2 ^ 22 + col * 2 ^ 16 + row * 2 ^ 12 + tix)

/-- The union of flags. -/
def orFlags (l : List Res) : Flags := l.foldl (fun acc r => acc ||| r.2) 0

/-- Flags made sticky: DECSTAT for decimals, FPSTAT otherwise (07 R233). -/
def Core.stick (c : Core) (dec : Bool) (fl : Flags) : Core :=
  { c with r := if dec then c.r.raiseDec fl else c.r.raise fl }

end Sys2Proof.Machine
end

