-- ==== Sys2Proof/Machine/VecEval.lean ====
section
/-! DEFINITION. What the V operations compute on 64 lanes: formats, latencies and passes (03 Table 12), and the results
of element-wise, axis, shuffle and decimal operations from their operands (07 R219 to R232). -/

namespace Sys2Proof

/-- What an operation's issue needs to know of it (07 Tables 2, 4, 6). -/
structure VInfo where
  v    : VArgs
  /-- source format -/
  sf   : Fmt
  /-- result format -/
  rf   : Fmt
  /-- latency -/
  lat  : Nat
  /-- passes per row -/
  p    : Nat
  /-- how many of sa, sb, sc are sources -/
  n    : Nat
  /-- the mask operand: 0 none, 2 sb, 3 sc -/
  mask : Nat := 0
  /-- resolved when every source is ZERO or CONST (07 R217) -/
  elem : Bool := true
  /-- decimal flags and rounding mode -/
  dec  : Bool := false
  deriving DecidableEq, Repr

/-- The format in fmt. -/
def VArgs.f (v : VArgs) : Fmt := fmtOf v.fmt.toNat

/-- Passes of a format: four for 64-bit ones (03 Table 12). -/
def fmtPasses (f : Fmt) : Nat := if f.width = 64 then 4 else 1

/-- An operation of the 3-cycle row of 03 Table 12. -/
def VInfo.plain (v : VArgs) (n : Nat) : VInfo := { v := v, sf := v.f, rf := v.f, lat := 3, p := fmtPasses v.f, n := n }
/-- A multiplication: 5 cycles, 7 for 64-bit formats. -/
def VInfo.mul (v : VArgs) (n : Nat) : VInfo :=
  { v := v, sf := v.f, rf := v.f, lat := if v.f.width = 64 then 7 else 5, p := fmtPasses v.f, n := n }
/-- A special function. -/
def VInfo.spec (v : VArgs) (lat n : Nat) : VInfo := { v := v, sf := v.f, rf := v.f, lat := lat, p := 1, n := n }
/-- An axis operation or a shuffle. -/
def VInfo.axis (v : VArgs) (lat n : Nat) : VInfo := { v := v, sf := v.f, rf := v.f, lat := lat, p := 1, n := n, elem := false }
/-- A decimal operation. -/
def VInfo.decimal (v : VArgs) (lat p n : Nat) : VInfo :=
  { v := v, sf := .dec64, rf := .dec64, lat := lat, p := p, n := n, dec := true }

/-- The issue data of a V operation. -/
def Instr.vInfo (i : Instr) : Option VInfo :=
  match i with
  | .vadd v | .vsub v | .vmin v | .vmax v | .vand v | .vor v | .vxor v | .vshl v | .vshr v | .vsar v => some (.plain v 2)
  | .vabs v | .vneg v | .vnot v | .vmov v | .vsplat v => some (.plain v 1)
  | .vclamp v => some (.plain v 3)
  | .vmul v => some (.mul v 2)
  | .vfma v | .vfms v => some (.mul v 3)
  | .vcmp v => some { VInfo.plain v 2 with rf := .mask1 }
  | .vsel v => some { VInfo.plain v 3 with mask := 3 }
  | .vmsk v => some { VInfo.plain v 2 with mask := 2 }
  | .vcvt v =>
    let s := fmtOf (v.imm.toNat % 32)
    some { v := v, sf := s, rf := v.f, lat := 4, p := max (fmtPasses s) (fmtPasses v.f), n := 1 }
  | .viota v => some { VInfo.plain v 0 with elem := false }
  | .vexp v | .vlog2 v => some (.spec v 8 1)
  | .vexpq v => some { VInfo.spec v 10 2 with rf := .e4m3, elem := false }
  | .vrcp v | .vrsq v => some (.spec v 6 1)
  | .vrefineRcp v | .vrefineRsq v => some (.spec v 5 2)
  | .vrrot v | .vrbc v => some (.axis v 2 1)
  | .vrred v | .vrscan v => some (.axis v 6 1)
  | .vcrot v | .vcbc v | .vcred v => some (.axis v 20 1)
  | .vshuf v => some (.axis v 3 2)
  | .dadd v | .dsub v => some (.decimal v 12 8 2)
  | .dmul v => some (.decimal v 20 32 2)
  | .dfma v => some (.decimal v 24 32 3)
  | .dquant v => some (.decimal v 10 8 2)
  | .drnd v => some (.decimal v 10 8 1)
  | .dcmp v => some { VInfo.decimal v 6 8 2 with rf := .mask1 }
  | .dcvtTo v => some { VInfo.decimal v 12 8 1 with sf := v.f }
  | .dcvtFrom v => some { VInfo.decimal v 12 8 1 with rf := v.f }
  | _ => none

/-- Rows of an operation: 16 in whole-tile form. -/
def VInfo.rows (n : VInfo) : Nat := if n.v.t then 16 else 1

/-- Passes of an operation (07 R215). -/
def VInfo.passes (n : VInfo) : Nat := n.p * n.rows

/-- May the operation take a trap for exceptions, and which: DECX, F64X (07 R234). -/
def VInfo.trapCode (n : VInfo) : Option Nat :=
  if n.dec then some 0x0A else if n.sf = .fp64 ∨ n.rf = .fp64 then some 0x0B else none

/-- The ports an operation pops: the read-port codes among its sources, each once. -/
def VInfo.pops (n : VInfo) : List Nat :=
  dedupN (([n.v.sa.toNat, n.v.sb.toNat, n.v.sc.toNat].take n.n).filter (fun c => decide (c < 8)))

/-- Is the operation a whole-tile reduction that CONST resolves? -/
def Instr.reduces : Instr → Bool
  | .vrred _ | .vcred _ => true
  | _ => false

/-! ### One element -/

/-- Integer minimum or maximum by value. -/
def intMinMax (f : Fmt) (mx : Bool) (a b : Nat) : Nat :=
  if (f.intVal a < f.intVal b) = (mx = false) then a else b

/-- Minimum or maximum of a format (07 R220). -/
def minMaxElem (f : Fmt) (mx : Bool) (a b : Nat) : Res := if f.isInt then (intMinMax f mx a b, 0) else f.minmax mx a b

/-- Add, subtract or multiply of a format (07 R220). -/
def addElem (f : Fmt) (sat : Bool) (r : Rnd) (a b : Nat) : Res :=
  if f.isInt then f.putInt sat (f.intVal a + f.intVal b) else f.add r a b
/-- Subtract. -/
def subElem (f : Fmt) (sat : Bool) (r : Rnd) (a b : Nat) : Res :=
  if f.isInt then f.putInt sat (f.intVal a - f.intVal b) else f.sub r a b
/-- Multiply. -/
def mulElem (f : Fmt) (sat : Bool) (r : Rnd) (a b : Nat) : Res :=
  if f.isInt then f.putInt sat (f.intVal a * f.intVal b) else f.mul r a b
/-- Fused multiply-add, or with `neg` multiply-subtract: one rounding. -/
def fmaElem (f : Fmt) (sat neg : Bool) (r : Rnd) (a b c : Nat) : Res :=
  if f.isInt then f.putInt sat (f.intVal a * f.intVal b + (if neg then -f.intVal c else f.intVal c))
  else if neg then f.fms r a b c else f.fma r a b c
/-- Absolute value: the sign bit only for binary formats. -/
def absElem (f : Fmt) (sat : Bool) (a : Nat) : Res :=
  if f.isInt then f.putInt sat (f.intVal a).natAbs else (a % 2 ^ (f.width - 1), 0)
/-- Negation: the sign bit only for binary formats. -/
def negElem (f : Fmt) (sat : Bool) (a : Nat) : Res :=
  if f.isInt then f.putInt sat (-f.intVal a) else (a ^^^ 2 ^ (f.width - 1), 0)
/-- A relation of two elements (07 R221). -/
def cmpElem (f : Fmt) (k a b : Nat) : Res :=
  let (t, fl) : Bool × Flags :=
    if f.isInt then (relOf k (f.intVal a - f.intVal b) false, 0) else f.cmpB k a b
  (if t then 1 else 0, fl)
/-- VCLAMP: the minimum of the maximum of `a` and `b`, and `c`. -/
def clampElem (f : Fmt) (a b c : Nat) : Res :=
  let (m, f1) := minMaxElem f true a b
  let (r, f2) := minMaxElem f false m c
  (r, f1 ||| f2)

/-- One element of an element-wise operation, from its sa, sb and sc elements, under a rounding direction. Mark: DESIGN CHOICE (log 59):
VMOV copies the TERN2 pattern 0b10 without a flag (02 R53, 07 R222), though R49 has a read of it set TERNBAD and no unit write it. -/
def elemOp (i : Instr) (r : Rnd) (a b c : Nat) : Res :=
  match i with
  | .vadd v => addElem v.f v.sat r a b
  | .vsub v => subElem v.f v.sat r a b
  | .vmul v => mulElem v.f v.sat r a b
  | .vfma v => fmaElem v.f v.sat false r a b c
  | .vfms v => fmaElem v.f v.sat true r a b c
  | .vmin v => minMaxElem v.f false a b
  | .vmax v => minMaxElem v.f true a b
  | .vabs v => absElem v.f v.sat a
  | .vneg v => negElem v.f v.sat a
  | .vand _ => (a &&& b, 0)
  | .vor _ => (a ||| b, 0)
  | .vxor _ => (a ^^^ b, 0)
  | .vnot v => (a ^^^ (2 ^ v.f.width - 1), 0)
  | .vshl v => (shiftElem v.f 0 a b, 0)
  | .vshr v => (shiftElem v.f 1 a b, 0)
  | .vsar v => (shiftElem v.f 2 a b, 0)
  | .vcmp v => cmpElem v.f v.imm.toNat a b
  | .vsel _ => (if c % 2 = 1 then a else b, 0)
  | .vmsk v => (if (b % 2 = 1) = (v.imm.toNat / 4 % 2 = 1) then fillElem v.f (v.imm.toNat % 4) else a, 0)
  | .vcvt v => cvtElem (fmtOf (v.imm.toNat % 32)) v.f (if v.f.isFp8 then .rne else r) v.sat a
  | .vclamp v => clampElem v.f a b c
  | .vexp v => vexp v.f a
  | .vlog2 v => vlog2 v.f a
  | .vrcp v => rcpRsq v.f false a
  | .vrsq v => rcpRsq v.f true a
  | .vrefineRcp v => vrefine v.f r false a b
  | .vrefineRsq v => vrefine v.f r true a b
  | .dadd _ => decAdd r a b
  | .dsub _ => decSub r a b
  | .dmul _ => decMul r a b
  | .dfma _ => decFma r a b c
  | .dquant _ => decQuant r a b
  | .drnd _ => decRnd r a
  | .dcmp v => let (t, fl) := decCmp v.imm.toNat a b; (if t then 1 else 0, fl)
  | .dcvtTo v => if v.f = .int64 then decOfInt r a else decOfBin r a
  | .dcvtFrom v => if v.f = .int64 then decIntOf r a else decBinOf r a
  | _ => (a, 0)

/-! ### Rows and columns -/

/-- One step of a reduction or scan: add, minimum or maximum (07 R226). -/
def combine (v : VArgs) (r : Rnd) (x y : Res) : Res :=
  let (z, fl) := match v.imm.toNat % 4 with
    | 0 => addElem v.f v.sat r x.1 y.1
    | 1 => minMaxElem v.f false x.1 y.1
    | _ => minMaxElem v.f true x.1 y.1
  (z, x.2 ||| y.2 ||| fl)

/-- One level of the balanced tree. -/
def treeLevel (f : Res → Res → Res) : List Res → List Res
  | x :: y :: t => f x y :: treeLevel f t
  | l => l

/-- The fixed balanced tree of 02 R65 over `2^k` values. -/
def treeReduce (f : Res → Res → Res) : Nat → List Res → Res
  | 0, l => l.headD (0, 0)
  | k + 1, l => treeReduce f k (treeLevel f l)

/-- The inclusive prefix of 02 R66; each lane carries its own step's flags. -/
def scanRow (f : Res → Res → Res) : Option Nat → List Nat → List Res
  | _, [] => []
  | none, x :: t => (x, 0) :: scanRow f (some x) t
  | some a, x :: t =>
    let z := f (a, 0) (x, 0)
    z :: scanRow f (some z.1) t

/-- Source lane of a lane byte (01 R41). -/
def shuffleLane (pat : Nat) (a b : List Nat) (i : Nat) : Nat :=
  let k := itemN 8 pat i
  if 128 ≤ k then 0 else if k < 64 then a.getD k 0 else b.getD (k - 64) 0

/-- One result row of a row-wise operation; `aux` is the index, start, lane or pattern read at issue, `row` the row's
number. -/
def rowOp (i : Instr) (r : Rnd) (aux row : Nat) (ops : List (Nat × Nat × Nat)) : List Res :=
  let a := ops.map (·.1)
  match i with
  | .vsplat _ => List.replicate 64 (a.getD (aux % 64) 0, 0)
  | .viota v => tab 64 (fun l => (wrapN v.f.width (aux + v.imm.toInt * ((64 * row + l : Nat) : Int)), 0))
  | .vrrot _ => tab 64 (fun l => (a.getD ((l + aux) % 64) 0, 0))
  | .vrbc _ => List.replicate 64 (a.getD (aux % 64) 0, 0)
  | .vrred v => List.replicate 64 (treeReduce (combine v r) 6 (a.map (fun x => (x, 0))))
  | .vrscan v => scanRow (combine v r) none a
  | .vshuf _ => tab 64 (fun l => (shuffleLane aux a (ops.map (·.2.1)) l, 0))
  | .vexpq v =>
    let bb := (ops.headD (0, 0, 0)).2.1
    a.map (fun x => vexpqElem v.f x bb)
  | _ => ops.map (fun o => elemOp i r o.1 o.2.1 o.2.2)

/-- The results of a column-axis operation over 16 rows (07 R227), row-major. -/
def colOp (i : Instr) (r : Rnd) (aux : Nat) (a : List Nat) : List Res :=
  match i with
  | .vcrot _ => tab 1024 (fun e => (a.getD ((e / 64 + aux) % 16 * 64 + e % 64) 0, 0))
  | .vcbc _ => tab 1024 (fun e => (a.getD (aux % 16 * 64 + e % 64) 0, 0))
  | .vcred v =>
    let row := tab 64 (fun l => treeReduce (combine v r) 4 (tab 16 (fun k => (a.getD (64 * k + l) 0, 0))))
    (List.replicate 16 row).flatten
  | _ => []

/-- The results of a V operation, element by element in row-major order, from its operands (07 R220 to R232). -/
def vecResults (i : Instr) (r : Rnd) (aux : Nat) (ops : List (Nat × Nat × Nat)) : List Res :=
  match i with
  | .vcrot _ | .vcbc _ | .vcred _ => colOp i r aux (ops.map (·.1))
  | _ => (List.range (ops.length / 64)).flatMap (fun row => rowOp i r aux row ((ops.drop (64 * row)).take 64))

/-- The running sum VEXPQ writes, with its flags (07 R225). -/
def vecSum (i : Instr) (aux : Nat) (res : List Res) : Option Res :=
  match i with
  | .vexpq _ => some (vexpqSum (aux % 2 ^ 32) (res.map (·.1)))
  | _ => none

end Sys2Proof
end

