-- ==== Sys2Proof/Machine/Operands.lean ====
section
/-! DEFINITION. Operand forms: walks and ports (01 R17, R20), the pops and pushes of V operations and their checks
(07 R210 to R213), and handles. -/

namespace Sys2Proof

/-! ### Handles (01 R15 to R18) -/

/-- KIND of a handle. -/
def Handle.kind (h : Handle) : Nat := fldN h 252 4
/-- TIX of a TILE handle. -/
def Handle.tix (h : Handle) : Nat := fldN h 0 12
/-- OID. -/
def Handle.oid (h : Handle) : Nat := fldN h 64 32
/-- GEN. -/
def Handle.gen (h : Handle) : Nat := fldN h 96 16
/-- OFF. -/
def Handle.off (h : Handle) : Nat := fldN h 0 64

/-- A TILE handle (06 R191). -/
def Handle.ofTile (t : Nat) : Handle := BitVec.ofNat 256 (2 ^ 252 + t % 4096)

end Sys2Proof

namespace Sys2Proof.Machine

open Sys2Proof

/-! ### Walks -/

/-- Count of a level, 1 where unused (01 R17). -/
def walkCnt (h : Handle) (k : Nat) : Nat := max 1 (fldN h (36 * k) 16)
/-- Signed row step of a level. -/
def walkRstep (h : Handle) (k : Nat) : Int := sgn 8 (fldN h (36 * k + 16) 8)
/-- Signed tile step of a level. -/
def walkTstep (h : Handle) (k : Nat) : Int := sgn 12 (fldN h (36 * k + 24) 12)

/-- Tile and row at indices (01 R20). -/
def walkAt (h : Handle) (i0 i1 i2 : Nat) : Nat × Nat :=
  let lin : Int := (fldN h 228 4 : Nat) + i0 * walkRstep h 0 + i1 * walkRstep h 1 + i2 * walkRstep h 2
  let t : Int := (fldN h 232 12 : Nat) + i0 * walkTstep h 0 + i1 * walkTstep h 1 + i2 * walkTstep h 2 + lin / 16
  (wrapN 12 t, (lin % 16).toNat)

/-- Rows of one pass of a walk. -/
def walkLen (h : Handle) : Nat := walkCnt h 0 * walkCnt h 1 * walkCnt h 2

/-- Tile and row at step `n` of a pass. -/
def walkStep (h : Handle) (n : Nat) : Nat × Nat :=
  walkAt h (n % walkCnt h 0) (n / walkCnt h 0 % walkCnt h 1) (n / walkCnt h 0 / walkCnt h 1 % walkCnt h 2)

/-- The port's indices as a step of its pass. -/
def Port.lin (p : Port) : Nat := p.i0 + walkCnt p.walk 0 * (p.i1 + walkCnt p.walk 1 * p.i2)

/-- The port `n` steps on: passing the outermost count returns to (0, 0, 0) and sets WRAP (01 R20, 06 R197). -/
def Port.advance (p : Port) (n : Nat) : Port :=
  let k := p.lin + n
  let m := k % walkLen p.walk
  { p with i0 := m % walkCnt p.walk 0, i1 := m / walkCnt p.walk 0 % walkCnt p.walk 1,
           i2 := m / walkCnt p.walk 0 / walkCnt p.walk 1, wrap := p.wrap || decide (walkLen p.walk ≤ k) }

/-- Tile step the Windlass adds to port `p` (0 to 7 read, 8 to 11 write) of a replayed bundle (09 R293). -/
def Wl.poff (w : Wl) (p : Nat) : Int :=
  if w.active then
    (List.range w.depth).foldl (fun acc l =>
      acc + (w.wc.toList.getD l 0 : Nat) *
        sgn 8 (if p < 8 then fldN (w.cap.get 0 (l * 16 + 1)) (8 * p) 8 else fldN (w.cap.get 0 (l * 16 + 2)) (8 * (p - 8)) 8)) 0
  else 0

/-- A port of the core. -/
def Core.port (c : Core) (p : Nat) : Port := c.ports.toList.getD p {}

/-- A core with one port replaced. -/
def Core.setPort (c : Core) (p : Nat) (v : Port) : Core := { c with ports := c.ports.setIfInBounds p v }

/-- The `n` rows port `p` designates from where it stands; in a replayed bundle with the step of the Windlass (09 R293). -/
def Core.designate (c : Core) (p n : Nat) : List (Nat × Nat) :=
  let q := c.port p
  let off := if c.iss.replay then c.wl.poff p else 0
  tab n (fun k =>
    let (t, r) := walkStep q.walk ((q.lin + k) % walkLen q.walk)
    (wrapN 12 (t + off), r))

/-! ### Source rows (07 R210 to R212) -/

/-- What a source counts as for resolution in the table (07 R216). -/
inductive SrcSym where
  | zero
  | const (v : Nat)
  | ramp (fmt rax : Nat) (v : Word)
  | tile
  | other
  deriving DecidableEq, Repr

/-- A source as read at issue: the elements of its rows, what it counts as, a flag its reading raises; or a trap:
HANDLE for an unbound port, TILE 2 or 8. -/
inductive Src where
  | ok (els : List Nat) (sym : SrcSym) (fl : Flags)
  | unbound
  | bad (tix reason : Nat)
  deriving DecidableEq, Repr

/-- Do the rows run 0 to 15 of one tile? (07 R216) -/
def wholeTile (rows : List (Nat × Nat)) : Bool :=
  match rows with
  | (t, _) :: _ => rows == tab 16 (fun r => (t, r))
  | [] => false

/-- What an entry counts as. -/
def Tile.srcSym (e : Tile) : SrcSym :=
  match e.kind with
  | 2 => .zero
  | 3 => .const (e.val.toNat % 2 ^ (fmtOf e.fmt).width)
  | 4 => .ramp e.fmt e.rax e.val
  | _ => .tile

/-- The first row whose tile cannot be read at width `w`: TILE 2 for FREE, 8 for another width. -/
def Core.badRow (c : Core) (w : Nat) (rows : List (Nat × Nat)) : Option (Nat × Nat) :=
  rows.findSome? (fun (t, _) =>
    let e := c.tile t
    if e.kind = 0 then some (t, 2) else if (fmtOf e.fmt).width ≠ w then some (t, 8) else none)

/-- Reading one source of `n` rows at issue. -/
def Core.source (c : Core) (v : VArgs) (code n : Nat) (f : Fmt) (mask : Bool) : Src :=
  if code < 8 then
    if (c.port code).bound then
      let rows := c.designate code n
      match c.badRow (if mask then 1 else f.width) rows with
      | some (t, r) => .bad t r
      | none => .ok (rows.flatMap (fun (t, r) => c.tileRow t r))
          (if wholeTile rows then (c.tile (rows.headD (0, 0)).1).srcSym else .other) 0
    else .unbound
  else if code = 8 then
    let x := c.x v.xs
    if mask then
      .ok (tab (64 * n) (fun i => if bitAt x (i % 64) then 1 else 0))
        (if x = 0 then .const 0 else if x = BitVec.allOnes 64 then .const 1 else .other) 0
    else
      let (e, fl) := xsElem f x
      .ok (List.replicate (64 * n) e) (.const e) fl
  else if code = 9 then
    let e := immElem f v.imm.toInt
    .ok (List.replicate (64 * n) e) (.const e) 0
  else if code = 10 then .ok (List.replicate (64 * n) 0) .zero 0
  else
    match c.mat.psRow with
    | some (_, _, els, _) => .ok els .other 0
    | none => .ok (List.replicate 64 0) .other 0

/-- Where the rows go: the write port's rows, or discarded; or a trap as at a source. -/
inductive Dst where
  | ok (d : VDest)
  | unbound
  | bad (tix reason : Nat)
  deriving DecidableEq, Repr

/-- A port with the indices of a PORTGET word, each reduced modulo its count. -/
def Port.load (p : Port) (w : Word) : Port :=
  { p with i0 := fldN w 0 16 % walkCnt p.walk 0, i1 := fldN w 16 16 % walkCnt p.walk 1,
           i2 := fldN w 32 16 % walkCnt p.walk 2, wrap := bitAt w 48 }

/-- The destination of `n` result rows in format `f`, checked at issue (07 R211, R213); `only` asks for one format. -/
def Core.dest (c : Core) (dw n : Nat) (f : Fmt) (only : Option Nat) : Dst :=
  if dw < 4 then
    if (c.port (8 + dw)).bound then
      let rows := c.designate (8 + dw) n
      match c.badRow f.width rows with
      | some (t, r) => .bad t r
      | none =>
        match only with
        | some k => (match rows.find? (fun (t, _) => (c.tile t).fmt != k) with
          | some (t, _) => .bad t 8
          | none => .ok (.rows rows))
        | none => .ok (.rows rows)
    else .unbound
  else .ok .discard

end Sys2Proof.Machine
end

