-- ==== Sys2Proof/Machine/Results.lean ====
section
/-! DEFINITION. Results at their visible cycle (03 R99, R100), the traps after issue they raise (07 R233 to R237), and
the remainder of a trapped vector operation at TRET (07 R236). -/

namespace Sys2Proof.Machine

open Sys2Proof

/-! ### Control registers (05 Table 14) -/

/-- CWRITE at its visible cycle: what no row lists ignores the write. -/
def Core.ctlWrite (c : Core) (num : Nat) (v : Word) : Core :=
  let r := c.r
  let r := match num with
    | 0x000 => { r with kstat := setFld r.kstat 5 (BitVec.ofBool (bitAt v 5)) }
    | 0x002 => { r with tpc := v &&& 0x7FFFFFFFFFFF }
    | 0x008 => { r with excmask := v &&& 0x1F1F }
    | 0x009 => { r with fpstat := r.fpstat &&& ~~~v }
    | 0x00A => { r with decstat := r.decstat &&& ~~~v }
    | 0x00B =>
      { r with rmode := setFld (setFld r.rmode 0 (fld v 0 2)) 4 (if fldN v 4 3 ≤ 4 then fld v 4 3 else fld r.rmode 4 3) }
    | _ => r
  { c with r := r }

/-- Does the write clear sticky bits? Such a write goes before the sets of its cycle (01 R24). -/
def Write.clears : Write → Bool
  | .ctl num _ => num == 9 || num == 10
  | _ => false

/-! ### Writes to tiles -/

/-- Elements `lo` on of row `r` written into a STORED tile; EXC is set by a NaN or an infinity (01 R36). -/
def Core.putEls (c : Core) (t r lo : Nat) (els : List Nat) : Core :=
  let e := c.tile t
  let cur := c.storedRow e r
  let c := c.putRow e r (cur.take lo ++ els ++ cur.drop (lo + els.length))
  if anySpecial (fmtOf e.fmt) els then c.setStored t { c.tile t with exc := true, pass := (c.tile t).pass ||| 2 ^ 16 } else c

/-- A push that landed a whole row: WP rises; at 16 the pass completes (06 R188, R196), and clears EXC where it stored
all 16 rows with no NaN and no infinity (01 R36). -/
def Core.landRow (c : Core) (now t r : Nat) : Core :=
  let e := c.tile t
  let pass := e.pass ||| 2 ^ r
  if e.wp + 1 < 16 then (c.cancel t).setTile t { e with wp := e.wp + 1, pass := pass }
  else (c.setStored t { e with wp := 0, pass := 0, exc := if pass = 0xFFFF then false else e.exc }).completion now t

/-- Why a push, issued with number `seq`, to the tile is refused at its visible cycle: 9 not STORED, 3 owned by an engine (06 R196)
that it was granted to before the push issued (10 R307). -/
def Core.pushBad (c : Core) (seq t : Nat) : Nat :=
  let e := c.tile t
  if e.kind ≠ 1 then 9 else if e.own ≠ 0 && decide (e.gseq ≤ seq) then 3 else 0

/-- All 16 rows of a tile written at once by a tree operation (06 R209). -/
def Core.putTree (c : Core) (now t : Nat) (els : List Nat) : Core :=
  let c := (List.range 16).foldl (fun c r => c.putEls t r 0 ((els.drop (64 * r)).take 64)) c
  c.completion now t

/-- The words of the token-tree file when every node is invalid (01 R39). -/
def nodeReset : Word := 0x00FF000000000000

/-! ### Vector operations -/

/-- Results, sum and flags of an operation from its operands under a rounding mode (07 R236). -/
def VecOp.eval (v : VecOp) (mode : Nat) : VecOp :=
  let rnd := match v.i.vInfo with | some n => n.v.rnd.toNat | none => 0
  let res := vecResults v.i (Rnd.ofField rnd mode) v.aux v.ops
  { v with mode := mode, res := res,
           sum := match v.sum, vecSum v.i v.aux res with
             | some (x, _, _), some (w, fl) => some (x, BitVec.ofNat 64 w, fl)
             | old, _ => old }

/-- Is the operation decimal? -/
def VecOp.dec (v : VecOp) : Bool := match v.i.vInfo with | some n => n.dec | none => false
/-- Its trap code for exceptions, 0 for none. -/
def VecOp.trapCode (v : VecOp) : Nat := match v.i.vInfo with | some n => n.trapCode.getD 0 | none => 0
/-- The fmt field of its encoding. -/
def VecOp.fmtField (v : VecOp) : Nat := match v.i.vInfo with | some n => n.v.fmt.toNat | none => 0

/-- The first element of `l` that offends, its position from `k`. -/
def firstOffender (en : Nat) : Nat → List Res → Option Nat
  | _, [] => none
  | k, x :: t => if offends en x.2 then some k else firstOffender en (k + 1) t

/-- The offending element at or after `from_`, with the reason of a refused push (0 for an exception), over the rows
the operation writes in order: a refused push makes element 0 of its row offend, for whatever else it raises (07 R218, R234). -/
def Core.vecOffender (c : Core) (seq : Nat) (v : VecOp) : Option (Nat × Nat) :=
  let en := c.r.enables v.trapCode
  match v.dest with
  | .rows l =>
    (List.range l.length).findSome? (fun r =>
      if 64 * r + 64 ≤ v.from_ then none
      else
        let bad := c.pushBad seq (l.getD r (0, 0)).1
        let lo := max v.from_ (64 * r)
        if bad ≠ 0 then some (lo, bad)
        else (firstOffender en lo ((v.res.drop lo).take (64 * r + 64 - lo))).map (fun k => (k, 0)))
  | .sym t _ =>
    if c.pushBad seq t ≠ 0 then some (0, c.pushBad seq t) else (firstOffender en v.from_ (v.res.drop v.from_)).map (fun k => (k, 0))
  | .discard => (firstOffender en v.from_ (v.res.drop v.from_)).map (fun k => (k, 0))

/-- The results from `from_` up to element `hi` written into their rows; a row reached to its end lands. -/
def Core.vecRows (c : Core) (now : Nat) (v : VecOp) (l : List (Nat × Nat)) (hi : Nat) : Core :=
  (List.range l.length).foldl (fun c r =>
    let a := max v.from_ (64 * r)
    let b := min hi (64 * r + 64)
    if a < b then
      let (t, row) := l.getD r (0, 0)
      let els := ((v.res.drop a).take (b - a)).map (·.1)
      let c := c.putEls t row (a - 64 * r) (if v.skip.isEmpty then els else
        tab (b - a) (fun i => if v.skip.contains (a + i) then c.tileElem t (64 * row + (a - 64 * r) + i) else els.getD i 0))
      if b = 64 * r + 64 then c.landRow now t row else c.cancel t
    else c) c

/-- The symbol a resolved operation writes (07 R217). -/
def VecOp.symbol (v : VecOp) : Resolve → Sym
  | .ramp s => s
  | .red => .const (BitVec.ofNat 64 (v.res.headD (0, 0)).1)
  | .elem =>
    let b := (v.res.headD (0, 0)).1
    if b = 0 then .zero else .const (BitVec.ofNat 64 b)

/-- A vector operation whose elements all land: results and flags. -/
def Core.vecLand (c : Core) (now : Nat) (v : VecOp) : Core :=
  let c := match v.dest with
    | .rows l => c.vecRows now v l (64 * l.length)
    | .sym t r => c.applyTile (.sym t (c.tile t).fmt (v.symbol r))
    | .discard => c
  c.stick v.dec (orFlags (v.res.drop v.from_) ||| v.read)

/-- The trap an offending element raises (07 R235 steps 6 and 7). -/
def Core.vecTrap (c : Core) (v : VecOp) (slot k reason : Nat) : Trap :=
  let xfl := if reason ≠ 0 then 0 else xflOf (raised (c.r.enables v.trapCode) (v.res.getD k (0, 0)).2)
  let (tix, row, e) : Nat × Nat × Nat := match v.dest with
    | .rows l => ((l.getD (k / 64) (0, 0)).1, (l.getD (k / 64) (0, 0)).2, k)
    | .sym t _ => (t, 0, 0)
    | .discard => (0, 0, k)
  let o := v.ops.getD e (0, 0, 0)
  { code := if reason ≠ 0 then 0x05 else v.trapCode, slot := slot, addr := 0,
    info := if reason ≠ 0 then #v[trapInfo0 0 v.fmtField (e % 64) row tix, BitVec.ofNat 64 reason, 0, 0]
            else #v[trapInfo0 xfl v.fmtField (e % 64) row tix, BitVec.ofNat 64 o.1, BitVec.ofNat 64 o.2.1,
                    BitVec.ofNat 64 o.2.2] }

/-- The operation up to its offending element `k`: the elements before it with their flags and nothing else (07 R235
step 2; a resolved operation changes nothing, R218), and the remainder from `k`. What reading the operands raises, every
element raises. -/
def Core.vecPart (c : Core) (now : Nat) (v : VecOp) (k : Nat) : Core × VecOp :=
  let fl := orFlags ((v.res.drop v.from_).take (k - v.from_)) ||| (if v.from_ < k then v.read else 0)
  match v.dest with
  | .sym _ _ => (c, v)
  | .rows l => ((c.vecRows now v l k).stick v.dec fl, { v with from_ := k })
  | .discard => (c.stick v.dec fl, { v with from_ := k })

/-! ### Any write -/

/-- Does an accepted pump command still write the slot? -/
def Core.slotWritten (c : Core) (o : Nat) : Bool := c.chans.toList.any (fun h => h.queue.any (fun k => k.slots.contains o))

/-- A slot released by MREL, or given up by a holder: it becomes FREE once nothing holds it (08 R242). -/
def Core.dropSlot (c : Core) (o : Nat) (rel : Bool) : Core :=
  let m := c.omd.get {} o
  let m := if rel then { m with clm := false } else m
  { c with omd := c.omd.set {} o (if !m.clm && !m.own && m.holds == 0 && !c.slotWritten o then {} else m) }

/-- A write that takes effect. -/
def Core.applyWrite (c : Core) (now : Nat) (w : Write) : Core :=
  match w with
  | .x d v => { c with r := c.r.setX d v }
  | .q d v => { c with r := c.r.setQ d v }
  | .qAll v => { c with r := c.r.setQAll v }
  | .h d v => { c with r := c.r.setH d v }
  | .ma d v => { c with r := { c.r with ma := c.r.ma.set d v } }
  | .stg d v => { c with r := { c.r with stg := c.r.stg.set d v } }
  | .ctl num v => c.ctlWrite num v
  | .fp fl => { c with r := c.r.raise fl }
  | .xfp d v fl => { c with r := (c.r.setX d v).raise fl }
  | .qfp d v fl => { c with r := (c.r.setQ d v).raise fl }
  | .tile o => c.applyTile o
  | .elem t i v =>
    let f := fmtOf (c.tile t).fmt
    let tern := f == .tern2 && v.toNat % 4 == 2
    let c := c.putEls t (i / 64 % 16) (i % 64) [if tern then 0 else v.toNat % 2 ^ f.width]
    (if tern then { c with r := c.r.raise fTERN } else c).completion now t
  | .rows t els _ => c.putTree now t els
  | .node i v => { c with tree := c.tree.set nodeReset i v }
  | .treeClear => { c with tree := [] }
  | .port p s bind =>
    let c := c.setPort p s
    if bind && decide (8 ≤ p) then
      (dedupN ((List.range (min (walkLen s.walk) 1024)).map (fun n => (walkStep s.walk n).1))).foldl
        (fun c t => (c.modTile t (fun e => { e with wp := 0, pass := 0 })).cancel t) c
    else c
  | .portStep p n => if (c.port p).bound then c.setPort p ((c.port p).advance n) else c
  | .portSet p w => if (c.port p).bound then c.setPort p ((c.port p).load w) else c
  | .wlWord lv word v => { c with wl := { c.wl with cfg := c.wl.cfg.set 0 (lv * 16 + word) v } }
  | .seqlen v => { c with r := { c.r with seqlen := v } }
  | .pattern bank entry v =>
    { c with pats := c.pats.set (BitVec.ofNat 512 (packN 8 (List.range 64))) (bank * 64 + entry) v }
  | .patSwitch => { c with r := { c.r with patbank := !c.r.patbank } }
  | .claim lo n =>
    { c with omd := (List.range n).foldl (fun m k =>
        m.set {} (lo + k) { (m.get {} (lo + k)) with clm := true, own := false, exc := false, kind := 2, fmt := 0 }) c.omd }
  | .release lo n => (List.range n).foldl (fun c k => c.dropSlot (lo + k) true) c
  | .grant t o f =>
    let e := c.tile t
    if e.kind = 0 then c
    else
      let fmt := f.getD e.fmt
      let exc := if fmt = e.fmt then e.exc else (fmtOf fmt).isBin || fmtOf fmt == .dec64
      (c.cancel t).setStored t { e.setOwn o c.iss.seq with fmt := fmt, exc := exc }
  | .slotOwn o => { c with omd := c.omd.set {} o { c.omd.get {} o with own := true } }
  | .slotFree o => c.dropSlot o false
  | .vec v => c.vecLand now v

/-- The offending element of a result at its visible cycle: its index and reason. -/
def Core.offender (c : Core) (p : Pend) : Option (Nat × Nat) :=
  match p.w with
  | .vec v => c.vecOffender p.seq v
  | .elem t i _ => if (c.tile t).kind ≠ 1 then some (i, 9) else none
  | .rows t _ _ => if (c.tile t).kind ≠ 1 then some (0, 9) else none
  | _ => none

/-- May the result have an offending element? -/
def Write.tested : Write → Bool
  | .vec _ | .elem _ _ _ | .rows _ _ _ => true
  | _ => false

/-- Registers and nodes that a tested result writes beside its tiles: the sum of VEXPQ; the tree and the count of KTPRUNE. -/
def Write.sides : Write → List Write
  | .vec v => (match v.sum with | some (d, u, g) => [.xfp d u g] | none => [])
  | .rows _ _ (some (d, u)) => [.treeClear, .x d u]
  | _ => []

/-- Does the result write what a side of a tested one may write too? Such writes are taken together, in issue order (03 R100). -/
def Write.beside : Write → Bool
  | .x _ _ | .xfp _ _ _ | .node _ _ | .treeClear => true
  | _ => false

/-- A pending result put back in issue order. -/
def insPend (p : Pend) : List Pend → List Pend
  | [] => [p]
  | q :: t => if p.seq < q.seq then p :: q :: t else q :: insPend p t

/-- Results that become visible in one cycle: the core so far, the trap of the first operation
with an offending element with its resume record, the operations captured whole, and the sides of those that took effect. -/
structure Landing where
  core : Core
  trap : Option (Trap × Option Pend) := none
  whole : List Pend := []
  sides : List Pend := []

/-- A register, node or pattern written whole: an uncorrectable word there is so no more (17 R403, R405). -/
def Core.mendBy (c : Core) (w : Write) : Core :=
  if c.badWords.isEmpty then c
  else match w with
    | .x d _ | .xfp d _ _ => c.mend 4 d.toNat 1
    | .q d _ | .qfp d _ _ => c.mend 4 (64 + d.toNat) 1
    | .qAll _ => c.mend 4 65 15
    | .h d _ => c.mend 4 (128 + d.toNat) 1
    | .ma d _ => c.mend 4 (192 + d.toNat) 1
    | .stg d _ => c.mend 4 (200 + d.toNat) 1
    | .node k _ => c.mend 6 k 1
    | .treeClear => c.mend 6 0 256
    | .pattern b e _ => c.mend 7 (b * 64 + e) 1
    | _ => c

/-- Elements of a vector operation that a write to elements `lo` to `lo + n - 1` of a row reaches. -/
def VecOp.reached (v : VecOp) (t r lo n : Nat) : List Nat :=
  match v.dest with
  | .rows l => ((List.range l.length).filter (fun k => l.getD k (0, 0) == (t, r))).flatMap (fun k => tab n (fun i => 64 * k + lo + i))
  | _ => []

/-- Elements of the operation that a result has written. -/
def VecOp.reachedBy (v : VecOp) (w : Write) : List Nat :=
  match w with
  | .elem t i _ => v.reached t (i / 64 % 16) (i % 64) 1
  | .rows t _ _ => (List.range 16).flatMap (fun r => v.reached t r 0 64)
  | .vec u => match u.dest with
    | .rows l => (List.range l.length).flatMap (fun k => if u.from_ < 64 * k + 64 then v.reached (l.getD k (0, 0)).1 (l.getD k (0, 0)).2 (max u.from_ (64 * k) - 64 * k) (64 - (max u.from_ (64 * k) - 64 * k)) else [])
    | _ => []
  | _ => []

/-- A resume record that leaves a later-issued write of the same cycle its elements (07 R237). -/
def Landing.spare (l : Landing) (p : Pend) : Landing :=
  match l.trap with
  | some (t, some r) =>
    (match r.w with
      | .vec v => if r.seq < p.seq then { l with trap := some (t, some { r with w := .vec { v with skip := v.skip ++ v.reachedBy p.w } }) } else l
      | _ => l)
  | _ => l

/-- A result that cannot offend, at its visible cycle. -/
def Core.takeResult (now : Nat) (c : Core) (p : Pend) : Core := (c.applyWrite now p.w).mendBy p.w

/-- A tested result at its visible cycle (07 R235 steps 1, 2 and 5 to 7). -/
def Landing.step (now : Nat) (l : Landing) (p : Pend) : Landing :=
  match l.core.offender p with
  | none => ({ l with core := l.core.takeResult now p, sides := l.sides ++ p.w.sides.map (fun w => { p with w := w }) } : Landing).spare p
  | some (k, reason) =>
    if l.trap.isSome then { l with whole := l.whole ++ [p] }
    else
      match p.w with
      | .vec v =>
        let (c, rest) := l.core.vecPart now v k
        { l with core := c, trap := some (l.core.vecTrap v p.slot k reason, some { p with w := .vec rest }) }
      | .elem t _ _ | .rows t _ _ =>
        { l with trap := some ({ code := 0x05, slot := p.slot, info := #v[trapInfo0 0 (l.core.tile t).fmt (k % 64) (k / 64) t, BitVec.ofNat 64 reason, 0, 0] }, none) }
      | _ => l

/-- The results of a cycle: those that cannot offend first, so that enables and tiles are tested as they then stand; the tested ones
in issue order (mark: DESIGN CHOICE, log 45: of two that would each make the other offend, the one issued first does not); the
registers and nodes that both may write, in issue order (03 R99, R100, 07 R233, R235). -/
def Core.landAll (c : Core) (now : Nat) (due : List Pend) : Landing :=
  let tested := due.filter (fun p => p.w.tested)
  if tested.isEmpty then { core := due.foldl (Core.takeResult now) c }
  else
    let plain := due.filter (fun p => !p.w.tested && !p.w.beside)
    let l := tested.foldl (Landing.step now) { core := plain.foldl (Core.takeResult now) c }
    let both := (due.filter (fun p => p.w.beside)).foldr insPend (l.sides.foldr insPend [])
    { l with core := both.foldl (Core.takeResult now) l.core }

/-- The results due by `now`, writes that clear sticky bits first (01 R24). -/
def Core.dueResults (c : Core) (now : Nat) : List Pend :=
  let due := c.flight.filter (fun p => decide (p.due ≤ now))
  due.filter (fun p => p.w.clears) ++ due.filter (fun p => !p.w.clears)

/-- The results due by `now` made visible, with the trap after issue they raise (03 R99, R100, 07 R235). -/
def Core.land (c : Core) (now : Nat) : Core :=
  let c := (c.dueResults now).foldl (fun c p => if p.ans then (c.sign p.w.sig).late p.seq p.w else c.sign p.w.sig) c
  let rest := c.flight.filter (fun p => decide (now < p.due))
  let l := ({ c with flight := [] } : Core).landAll now (c.dueResults now)
  match l.trap with
  | none => { l.core with flight := rest ++ l.core.flight }
  | some (t, r) =>
    let whole : List Pend := l.whole.map (fun p => { p with due := now })
    ({ l.core with flight := whole ++ rest, resume := r }).enterTrap now t l.core.pc

/-- Cycles from TRET to the target bundle: 3, or `L + m` for `m` passes left of a resume record (07 R236). -/
def Pend.resumeDelay (p : Pend) : Nat :=
  match p.w with
  | .vec v =>
    match v.i.vInfo with
    | some n => n.lat + ceilDiv (v.ops.length - v.from_) (64 / n.p)
    | none => 3
  | _ => 3

/-- Return from a trap (05 R171, 07 R236, 09 R295): INH clears, the pc is TRAPPC, the remainder of a trapped operation
is evaluated afresh, captured results complete after their recorded counts from the resumed issue, and a suspended
replay goes on where TRAPPC names its WLRUN, or is discarded. The answer of an object operation is kept for the bundle
that sent it, where that bundle issues next. -/
def Core.trapReturn (c : Core) (now : Nat) : Core :=
  let d := match c.resume with | some p => max 3 p.resumeDelay | none => 3
  let again := match c.resume with
    | some p => (match p.w with
      | .vec v => [{ p with due := now + d - 1, w := Write.vec (v.eval (if v.dec then c.r.drm else c.r.rm)) }]
      | _ => [])
    | none => []
  let back := (again ++ c.captured.map (fun p => { p with due := now + d + p.due })).foldr insPend c.flight
  let target : ParcelIx := c.r.tpc.setWidth 47
  let c := { c with r := c.r.setInh false, flight := back, captured := [], resume := none, pc := target, heldCls := [],
                    iss := { c.iss with ready := now + d, written := [] } }
  let c := if c.wl.susp then
      (if target = c.wl.runIx then
        { c with wl := { c.wl with susp := false, active := true }, r := c.r.setWlact true, pc := c.wl.retIx }
      else { c.dropItile with wl := { c.dropItile.wl with susp := false } })
    else c
  { c with hold := { c.hold with obj := c.hold.obj.filter (fun o => o.pcv == c.pcValue c.pc) } }

/-- RESULT_VISIBLE: the focused core's results due in this cycle take effect. -/
def execResultVisible (s : State) : Out := .next (s.onCore (fun c => c.land s.cycle))

end Sys2Proof.Machine
end

