-- ==== Sys2Proof/Machine/Control.lean ====
section
/-! DEFINITION. Control transfer, traps, waits and control registers (05 R150, R166 to R172). -/

namespace Sys2Proof.Machine

open Sys2Proof

/-- A taken transfer: the target bundle issues 3 cycles later (03 R103). Members of a gang and a checker take the
lead's decision (16 R385). -/
def State.transfer (s : State) (target : ParcelIx) : State :=
  s.onCore (fun c => { c with pc := target, iss := { c.iss with ready := s.cycle + 3 } })

/-- Target of a displacement: the operation's bundle's first parcel plus the displacement (03 R90). -/
def Core.target (c : Core) (disp : BitVec 32) : ParcelIx := c.iss.pc + disp.signExtend 47

/-- BR. -/
def execBr (g : Guard) (disp : BitVec 32) (s : State) : Out :=
  s.guarded g (fun s => s.transfer (s.core.target disp))

/-- BRX: bits 46:0 of X[a]. -/
def execBrx (g : Guard) (a : XReg) (s : State) : Out :=
  s.guarded g (fun s => s.transfer ((s.core.x a).setWidth 47))

/-- CALL: the link is the parcel after the bundle. -/
def execCall (g : Guard) (link : XReg) (disp : BitVec 32) (s : State) : Out :=
  s.guarded g (fun s => (s.schedX 1 link (s.core.iss.next.setWidth 64)).transfer (s.core.target disp))

/-- RET. -/
def execRet (g : Guard) (a : XReg) (s : State) : Out :=
  s.guarded g (fun s => s.transfer ((s.core.x a).setWidth 47))

/-- LOOP: counts X[link] down and transfers while the count is not zero. -/
def execLoop (g : Guard) (link : XReg) (disp : BitVec 32) (s : State) : Out :=
  s.guarded g (fun s =>
    let n := s.core.x link - 1
    let s' := s.schedX 1 link n
    if n = 0 then s' else s'.transfer (s.core.target disp))

/-- The write pointer of a channel as visible. -/
def Core.wptr (c : Core) (ch : Nat) : Nat := c.r.wptr.toList.getD ch 0

/-- OWAIT: waits until the core owns the tile (05 R168). -/
def execOwait (g : Guard) (ha : HReg) (s : State) : Out :=
  s.guarded g (fun s =>
    let h := s.core.h ha
    if h.kind ≠ 1 then s.trapHandle ha
    else if (s.core.tile h.tix).own = 0 then s else s.wait)

/-- A slot descriptor as CREAD returns it (01 Table 12). -/
def Omd.word (o : Omd) : Word :=
  BitVec.ofNat 64 ((if o.clm then 2 ^ 11 else 0) + (if o.own then 2 ^ 10 else 0) + (if o.exc then 2 ^ 9 else 0) +
    o.kind % 4 * 2 ^ 7 + o.fmt % 32)

/-- The class mask of the sump (01 R44). -/
def Core.sumpClasses (c : Core) : Nat := c.sump.foldl (fun m e => m ||| 2 ^ (e.cls % 16)) 0

/-- A control register as read (01 Tables 5 and 6). -/
def State.ctl (s : State) (num : Nat) : Word :=
  let c := s.core
  let r := c.r
  let nat (n : Nat) : Word := BitVec.ofNat 64 n
  match num with
  | 0x00 => r.kstat | 0x01 => r.tcause | 0x02 => r.tpc | 0x03 => r.taddr
  | 0x04 => r.tinfo[0] | 0x05 => r.tinfo[1] | 0x06 => r.tinfo[2] | 0x07 => r.tinfo[3]
  | 0x08 => r.excmask | 0x09 => r.fpstat | 0x0A => r.decstat | 0x0B => r.rmode
  | 0x0C => nat c.task.gpos | 0x0D => nat (numOf s.cid) | 0x0E => nat (wellOf s.cid) | 0x0F => nat (dieOf s.cid)
  | 0x10 => 0 | 0x11 => r.tasknum | 0x12 => r.seqlen | 0x13 => nat s.stroke | 0x14 => nat r.cycles
  | 0x15 => nat r.segcount | 0x16 => nat r.rwcount | 0x17 => nat r.scalemiss | 0x18 => nat r.freegr
  | 0x19 => nat r.l1cfg | 0x1A => nat c.sump.length | 0x1B => nat c.sumpClasses | 0x1C => nat r.prcount
  | 0x1D => if r.patbank then 1 else 0
  | n => if n < 0x28 then nat (c.wptr (n - 0x20)) else (c.omd.get {} (n - 0x40)).word

/-- A read of a control register; a checker reads what its leader read. -/
def State.readCtl (s : State) (num lat : Nat) (d : XReg) : State :=
  let v := s.passed num (s.ctl num)
  (s.pass num v).schedX lat d v

/-- CREAD (05 R169). -/
def execCread (g : Guard) (d : XReg) (num : BitVec 32) (s : State) : Out :=
  s.guarded g (fun s => s.readCtl num.toNat 3 d)

/-- STKWAIT: waits for the stroke, then returns it (05 R166). -/
def execStkwait (g : Guard) (d a : XReg) (s : State) : Out :=
  s.guarded g (fun s => if s.core.r.chk || decide ((s.core.x a).toNat ≤ s.stroke) then s.readCtl 0x13 1 d else s.wait)

/-- CWRITE (05 R169). -/
def execCwrite (g : Guard) (a : XReg) (num : BitVec 32) (s : State) : Out :=
  s.guarded g (fun s => s.sched 1 (.ctl num.toNat (s.core.x a)))

/-- The parcel index after the operation's bundle, or the value that names a replayed bundle (05 R170, 09 R295). -/
def Core.afterValue (c : Core) : Word := if c.iss.replay then c.opValue else c.iss.next.setWidth 64

/-- TRAP: raises TRAPI at issue (05 R170). -/
def execTrap (g : Guard) (imm : BitVec 32) (s : State) : Out :=
  s.guarded g (fun s =>
    s.trapSlot { code := 0x0E, slot := 0, addr := 0, info := #v[0, imm.setWidth 64, s.core.afterValue, 0] } (s.core.iss.part + 1))

/-- TRET: PRIV while INH is clear (05 R171, R174). -/
def execTret (g : Guard) (s : State) : Out :=
  s.guarded g (fun s => if s.core.r.inh then s.onCore (fun c => c.trapReturn s.cycle) else s.trapPriv)

/-- HALT: issue stops after the bundle and its pair; the task ends once everything in flight is done (05 R172). -/
def execHalt (g : Guard) (s : State) : Out :=
  s.guarded g (fun s => s.onCore (fun c =>
    let c := c.dropItile
    { c with task := { c.task with phase := .ending false 0 c.iss.next false }, captured := [], resume := none, heldCls := [],
             wl := { c.wl with active := false, susp := false }, r := c.r.setWlact false }))

end Sys2Proof.Machine
end

