-- ==== Sys2Proof/Machine/Tiles.lean ====
section
/-! DEFINITION. Tile operations, promotion, detection (06 R178 to R190). -/

namespace Sys2Proof.Machine

open Sys2Proof

/-! ### Conventions -/

/-- An operation on the tile a TILE handle names; HANDLE for another kind (06 R175). -/
def State.onTile (s : State) (ha : HReg) (f : Nat → State) : State :=
  let h := s.core.h ha
  if h.kind ≠ 1 then s.trapHandle ha else f h.tix

/-- An operation that needs the tile allocated: TILE 2. -/
def State.alive (s : State) (t : Nat) (f : Tile → State) : State :=
  let e := s.core.tile t
  if e.kind = 0 then s.trapTile t 2 else f e

/-- An operation that needs the tile allocated and owned by the core: TILE 2 or 3. -/
def State.owned (s : State) (t : Nat) (f : Tile → State) : State :=
  s.alive t (fun e => if e.own ≠ 0 then s.trapTile t 3 else f e)

/-- A change of a tile-table entry, 3 cycles after issue; a pending detection is cancelled now (06 R189). -/
def State.schedTile (s : State) (t : Nat) (o : TileOp) : State := (s.onCore (fun c => c.cancel t)).sched 3 (.tile o)

/-! ### Promotion (06 R186) -/

/-- Does the entry repeat one of `ts`? -/
def Tile.repeats (e : Tile) (ts : List Nat) : Bool :=
  e.kind == 5 && ts.contains (e.val.toNat % 4096)

/-- The promotion list of targets: repeaters of the targets in ascending index, then the targets that are symbols. -/
def Core.promoList (c : Core) (ts : List Nat) : List Nat :=
  let reps := (c.tiles.filter (fun p => p.2.repeats ts)).map (·.1)
  reps ++ (dedupN (ts.filter (fun t => (c.tile t).isSym))).filter (fun t => !reps.contains t)

/-- Would writing these tiles promote any, the repeater that a TSYM REPEAT of the same pair makes among them? -/
def Core.mustPromote (c : Core) (ts : List Nat) : Bool :=
  !(c.promoList ts).isEmpty || (c.hold.symDone.isNone && c.iss.reps.any (fun r => ts.contains r.2))

/-- The operation asks for its targets to be promoted before it issues: the bundle waits. -/
def State.askPromote (s : State) (ts : List Nat) : State :=
  s.onCore (fun c =>
    { c with iss := { c.iss with want := c.iss.want ++ ts, wantSlot := if c.iss.want.isEmpty then c.iss.slot else c.iss.wantSlot,
                                 verdict := .held } })

/-- An operation that writes tiles: promotes first where it must, else goes on. -/
def State.promoting (s : State) (ts : List Nat) (f : State) : State :=
  if s.core.mustPromote ts then s.askPromote ts else f

/-- Storage for every listed tile that holds no kept storage, in list order (06 R186 step 2): the plan and the free
map, or the tile and granules of the allocation that fails. -/
def Core.planPromo (c : Core) : List Nat → List (Nat × Nat) → Except (Nat × Nat) (List (Nat × Option (Nat × Nat)) × List (Nat × Nat))
  | [], free => .ok ([], free)
  | t :: ts, free =>
    let e := c.tile t
    let n := (fmtOf e.fmt).extent
    if e.ext = n then
      match c.planPromo ts free with
      | .ok (l, f) => .ok ((t, none) :: l, f)
      | .error x => .error x
    else
      match allocRun free n with
      | none => .error (t, n)
      | some (b, free) =>
        match c.planPromo ts free with
        | .ok (l, f) => .ok ((t, some (b, n)) :: l, f)
        | .error x => .error x

/-- PROMOTION_HOLD_END: the hold is over, the promotions are visible and the bundle may issue (06 R186 step 4). -/
def execPromotionHoldEnd (s : State) : Out :=
  .next (match s.core.hold.promo with
    | some p =>
      if p.until_ ≤ s.cycle then
        s.onCore (fun c => c.finishPromo)
      else s
    | none => s)

/-! ### Detection (06 R188) -/

/-- A detected symbol becomes visible, unless the tile is no longer STORED or has repeaters. -/
def Core.detected (c : Core) (d : Detect) : Core :=
  let e := c.tile d.tile
  let src := match d.sym with | .rep t => some (c.tile t) | _ => none
  let ok : Bool := match src with
    | some x => x.kind == 1 && x.fmt == e.fmt && decide (x.rpc < 15)
    | none => true
  if e.kind = 1 ∧ e.rpc = 0 ∧ ok then
    let c := if e.keep then c else c.giveBack e
    let exc := match d.sym with
      | .const v => (fmtOf e.fmt).isSpecial v.toNat
      | .rep t => (c.tile t).exc
      | _ => false
    let c := match d.sym with
      | .rep t => (c.modTile t (fun x => { x with rpc := x.rpc + 1 })).cancel t
      | _ => c
    c.setTile d.tile { e with kind := d.sym.kind, val := d.sym.val, rax := d.sym.rax, exc := exc, pass := 0,
                              linv := (match d.sym with | .rep _ => false | _ => e.linv),
                              base := if e.keep then e.base else 0, ext := if e.keep then e.ext else 0 }
  else c

/-- DETECTION_RESULT: the focused core's detections due in this cycle. -/
def execDetectionResult (s : State) : Out :=
  .next (s.onCore (fun c =>
    let due := c.dets.filter (fun d => decide (d.due ≤ s.cycle))
    due.foldl (fun c d => c.detected d) { c with dets := c.dets.filter (fun d => decide (s.cycle < d.due)) }))

/-! ### The operations -/

/-- TALLOC (06 R179). -/
def execTalloc (g : Guard) (ha : HReg) (fmt : BitVec 5) (det keep : Bool) (s : State) : Out :=
  s.guarded g (fun s => s.onTile ha (fun t =>
    if (s.core.tile t).kind ≠ 0 then s.trapTile t 4
    else
      let n := (fmtOf fmt.toNat).extent
      match allocRun s.core.free n with
      | none => s.trapTile t 1 n
      | some (b, free) =>
        (s.onCore (fun c => { c with free := free })).sched 3 (.tile (.alloc t fmt.toNat det keep b))))

/-- TFREE (06 R180). -/
def execTfree (g : Guard) (ha : HReg) (s : State) : Out :=
  s.guarded g (fun s => s.onTile ha (fun t =>
    let e := s.core.tile t
    if e.own ≠ 0 then s.trapTile t 3
    else if e.rpc ≠ 0 then s.trapTile t 7
    else if e.kind = 0 then s
    else s.schedTile t (.free t)))

/-- A TSYM of tile `t` (06 R181): TILE 3 where an engine owns it; its repeaters are promoted first. -/
def State.tsym (s : State) (t fmt : Nat) (y : Sym) : State :=
  if (s.core.tile t).own ≠ 0 then s.trapTile t 3
  else if (s.core.tile t).rpc ≠ 0 ∧ s.core.mustPromote [t] then s.askPromote [t]
  else s.schedTile t (.sym t fmt y)

/-- TSYM.zero. -/
def execTsymZero (g : Guard) (ha : HReg) (fmt : BitVec 5) (s : State) : Out :=
  s.guarded g (fun s => s.onTile ha (fun t => s.tsym t fmt.toNat .zero))

/-- TSYM.const: a TERN2 value of 0b10 raises TILE 10. -/
def execTsymConst (g : Guard) (ha : HReg) (xb : XReg) (fmt : BitVec 5) (s : State) : Out :=
  s.guarded g (fun s => s.onTile ha (fun t =>
    let f := fmtOf fmt.toNat
    let v := (s.core.x xb).toNat % 2 ^ f.width
    if (s.core.tile t).own ≠ 0 then s.trapTile t 3
    else if f = .tern2 ∧ v = 2 then s.trapTile t 10
    else s.tsym t fmt.toNat (.const (BitVec.ofNat 64 v))))

/-- TSYM.ramp: a format that is no integer raises TILE 10. -/
def execTsymRamp (g : Guard) (ha : HReg) (xb : XReg) (fmt : BitVec 5) (rax : BitVec 2) (s : State) : Out :=
  s.guarded g (fun s => s.onTile ha (fun t =>
    if (s.core.tile t).own ≠ 0 then s.trapTile t 3
    else if !(fmtOf fmt.toNat).isInt then s.trapTile t 10
    else s.tsym t fmt.toNat (.ramp rax.toNat (s.core.x xb))))

/-- The final source of a repeater (06 R181). -/
def Core.finalSource (c : Core) (t : Nat) : Nat := if (c.tile t).kind = 5 then (c.tile t).val.toNat % 4096 else t

/-- TSYM.rep (06 Table 3): H[hd] names the source. A STORED source stays STORED: a detection pending on it is not applied
(06 R188). -/
def execTsymRepeat (g : Guard) (hd ha : HReg) (s : State) : Out :=
  s.guarded g (fun s => s.onTile ha (fun t => s.onTile hd (fun src =>
    let i := s.core.finalSource src
    let e := s.core.tile i
    if s.core.hold.symDone = some t then s
    else if (s.core.tile t).own ≠ 0 then s.trapTile t 3
    else if i = t then s.trapTile t 6
    else
      match e.kind with
      | 0 => s.trapTile i 2
      | 2 => s.tsym t e.fmt .zero
      | 3 => s.tsym t e.fmt (.const e.val)
      | 4 => s.tsym t e.fmt (.ramp e.rax e.val)
      | _ => if e.rpc = 15 then s.trapTile i 6 else (s.onCore (fun c => c.cancel i)).tsym t e.fmt (.rep i))))

/-- TPROBE.lo: bits 63:0 of the entry as it stands (06 R182). -/
def execTprobeLo (g : Guard) (hd : XReg) (ha : HReg) (s : State) : Out :=
  s.guarded g (fun s => s.onTile ha (fun t => s.schedX 3 hd (BitVec.ofNat 64 (s.core.tile t).bits)))

/-- TPROBE.hi: bits 127:64. -/
def execTprobeHi (g : Guard) (hd : XReg) (ha : HReg) (s : State) : Out :=
  s.guarded g (fun s => s.onTile ha (fun t => s.schedX 3 hd (BitVec.ofNat 64 ((s.core.tile t).bits / 2 ^ 64))))

/-- TRETYPE (06 R190). -/
def execTretype (g : Guard) (ha : HReg) (fmt : BitVec 5) (s : State) : Out :=
  s.guarded g (fun s => s.onTile ha (fun t => s.owned t (fun e =>
    if fmt.toNat = e.fmt then s
    else if e.retypeOk fmt.toNat then s.schedTile t (.retype t fmt.toNat) else s.trapTile t 5)))

/-- TOWN.give (06 R183). -/
def execTownGive (g : Guard) (ha : HReg) (own : BitVec 4) (s : State) : Out :=
  s.guarded g (fun s => s.onTile ha (fun t => s.alive t (fun e =>
    if e.own ≠ 0 then s.trapTile t 3 else s.schedTile t (.own t own.toNat))))

/-- Does the engine of an owner code hold an accepted command, routine or template pass that names the tile? -/
def Core.engineNames (c : Core) (own t : Nat) : Bool :=
  if own ≤ 8 then (c.chans.toList.getD (own - 1) {}).queue.any (fun k => k.tiles.contains t)
  else if own = 9 then c.mat.queue.any (fun k => k.tiles.contains t)
  else c.wl.itile == some t

/-- TOWN.take: the named owner must hold, with nothing accepted that names the tile (06 R183). -/
def execTownTake (g : Guard) (ha : HReg) (own : BitVec 4) (s : State) : Out :=
  s.guarded g (fun s => s.onTile ha (fun t => s.alive t (fun e =>
    if own.toNat ≠ e.own ∨ own = 0 ∨ s.core.engineNames e.own t then s.trapTile t 3
    else s.sched 3 (.tile (.own t 0)))))

/-- TFLAG: clearing DET cancels a pending detection (06 R184). -/
def execTflag (g : Guard) (ha : HReg) (det keep wdet wkeep : Bool) (s : State) : Out :=
  s.guarded g (fun s => s.onTile ha (fun t => s.alive t (fun _ =>
    if wdet && !det then s.schedTile t (.flags t wdet det wkeep keep) else s.sched 3 (.tile (.flags t wdet det wkeep keep)))))

/-- The element TLD and TST name (06 R185). -/
def Core.elemIx (c : Core) (xb : XReg) (ix : BitVec 10) : Nat := ((c.x xb).toNat + ix.toNat) % 1024

/-- TLD: one element's bits, zero-extended. -/
def execTld (g : Guard) (hd : XReg) (ha : HReg) (xb : XReg) (ix : BitVec 10) (s : State) : Out :=
  s.guarded g (fun s => s.onTile ha (fun t => s.owned t (fun _ =>
    s.schedX 3 hd (BitVec.ofNat 64 (s.core.tileElem t (s.core.elemIx xb ix))))))

/-- TST: one element, 3 cycles after issue; a symbolic tile is promoted first. -/
def execTst (g : Guard) (ha : HReg) (xb xc : XReg) (ix : BitVec 10) (s : State) : Out :=
  s.guarded g (fun s => s.onTile ha (fun t => s.owned t (fun _ =>
    s.promoting [t] ((s.onCore (fun c => c.cancel t)).sched 3 (.elem t (s.core.elemIx xb ix) (s.core.x xc))))))

end Sys2Proof.Machine
end

