-- ==== Sys2Proof/Machine/Vector.lean ====
section
/-! DEFINITION. Issue of a V operation: pops, resolution in the table and the designated destination (07 R210 to R218),
and VSCALE (07 R231). -/

namespace Sys2Proof.Machine

open Sys2Proof

/-- The index, start, lane or pattern an operation reads at issue (07 R222, R225, R226, R228). -/
def Core.vecAux (c : Core) (i : Instr) (v : VArgs) : Nat :=
  match i with
  | .vsplat _ => (c.x v.xs).toNat % 64
  | .viota _ | .vexpq _ => (c.x v.xs).toNat
  | .vrrot _ | .vrbc _ => if bitAt v.imm 6 then (c.x v.xs).toNat % 64 else v.imm.toNat % 64
  | .vcrot _ | .vcbc _ => if bitAt v.imm 6 then (c.x v.xs).toNat % 16 else v.imm.toNat % 16
  | .vshuf _ =>
    (c.pats.get (BitVec.ofNat 512 (packN 8 (List.range 64))) ((if c.r.patbank then 64 else 0) + v.pat.toNat)).toNat
  | _ => 0

/-- Elements of a source. -/
def Src.els : Src → List Nat
  | .ok l _ _ => l
  | _ => []
/-- Flag of reading a source. -/
def Src.flag : Src → Flags
  | .ok _ _ f => f
  | _ => 0
/-- What a source counts as. -/
def Src.sym : Src → SrcSym
  | .ok _ y _ => y
  | _ => .other

/-- The constant a source counts as, ZERO being 0. -/
def SrcSym.value : SrcSym → Option Nat
  | .zero => some 0
  | .const v => some v
  | _ => none

/-- A ramp and a constant under VADD, VSUB or VMUL (07 Table 1a): start and step; `swap` when the constant comes
first. -/
def rampArith (i : Instr) (f : Fmt) (rax : Nat) (v : Word) (k : Nat) (swap : Bool) : Option Sym :=
  let st := sgn 32 v.toNat
  let q := sgn 32 (v.toNat / 2 ^ 32)
  let c := f.intVal k
  let r : Option (Int × Int) := match i with
    | .vadd _ => some (st + c, q)
    | .vsub _ => some (if swap then (c - st, -q) else (st - c, q))
    | .vmul _ => some (st * c, q * c)
    | _ => none
  match r with
  | none => none
  | some (st, q) =>
    match rampFit f.width st q with
    | none => none
    | some w =>
      if w.toNat / 2 ^ 32 = 0 then
        (if w.toNat = 0 then some .zero else some (.const (BitVec.ofNat 64 (wrapN f.width (sgn 32 w.toNat)))))
      else some (.ramp rax w)

/-- How an operation is resolved in the table, if it is (07 R216, R217): `y` are its sources. -/
def resolveOf (i : Instr) (n : VInfo) (y : List SrcSym) : Option Resolve :=
  if !n.v.t then none
  else if n.elem && !y.isEmpty && y.all (fun s => s.value.isSome) then some .elem
  else if i.reduces then
    (match y with | [.const _] => some .red | _ => none)
  else if n.v.f.isInt && !n.v.sat then
    (match y with
      | [.ramp fmt rax v, b] => if fmt = n.v.fmt.toNat then b.value.bind (fun k => (rampArith i n.v.f rax v k false).map .ramp) else none
      | [a, .ramp fmt rax v] => if fmt = n.v.fmt.toNat then a.value.bind (fun k => (rampArith i n.v.f rax v k true).map .ramp) else none
      | _ => none)
  else none

/-- A ramp needs an integer format of its own (07 R217). -/
def Resolve.fits (r : Resolve) (e : Tile) : Bool :=
  match r with
  | .ramp (.ramp _ _) => (fmtOf e.fmt).isInt
  | _ => true

/-- The trap of a source or destination that cannot be used (07 R211). -/
def State.portTrap (s : State) : Option (Nat × Nat) → State
  | none => s.trap 0x06
  | some (t, r) => s.trapTile t r

/-- The first unusable source. -/
def firstBad : List Src → Option (Option (Nat × Nat))
  | [] => none
  | .unbound :: _ => some none
  | .bad t r :: _ => some (some (t, r))
  | _ :: l => firstBad l

/-- Ports advanced at issue (07 R210). -/
def Core.advancePorts (c : Core) (ps : List Nat) (k : Nat) : Core :=
  ps.foldl (fun c p => c.setPort p ((c.port p).advance k)) c

/-- The tiles a destination names. -/
def VDest.tiles : VDest → List Nat
  | .rows l => dedupN (l.map (·.1))
  | .sym t _ => [t]
  | .discard => []

/-- Issue of a V operation: everything is read now, the ports advance, and the results become visible together, at
`t + passes - 1 + L` (07 R215). A destination that a TSYM REPEAT of the same pair names is promoted around first (06 Table 4). -/
def State.vec (s : State) (i : Instr) (n : VInfo) : State :=
  let c := s.core
  let v := n.v
  let k := n.rows
  let codes := [v.sa.toNat, v.sb.toNat, v.sc.toNat]
  let srcs := tab n.n (fun j => c.source v (codes.getD j 0) k n.sf (j + 1 == n.mask))
  match firstBad srcs with
  | some b => s.portTrap b
  | none =>
    match c.dest v.dw.toNat k n.rf (match i with | .vexpq _ => some Fmt.e4m3.code | _ => none) with
    | .unbound => s.portTrap none
    | .bad t r => s.portTrap (some (t, r))
    | .ok d =>
      let resolved : Option VDest :=
        match resolveOf i n (srcs.map Src.sym), d with
        | some r, .rows l => if wholeTile l && r.fits (c.tile (l.headD (0, 0)).1) then some (.sym (l.headD (0, 0)).1 r) else none
        | _, _ => none
      let dest := resolved.getD d
      let again := match resolved with
        | some (.sym t _) => if (c.tile t).rpc ≠ 0 then [t] else []
        | _ => []
      let made := dest.tiles.filter (fun t => c.hold.symDone.isNone && c.iss.reps.any (fun r => r.2 == t))
      let el (j e : Nat) : Nat := ((srcs.getD j (.ok [] .other 0)).els).getD e 0
      let cols := srcs.map Src.els
      let ops := match cols with
        | [a] => a.map (fun x => (x, 0, 0))
        | [a, b] => (a.zip b).map (fun x => (x.1, x.2, 0))
        | [a, b, m] => (a.zip (b.zip m)).map (fun x => (x.1, x.2.1, x.2.2))
        | _ => tab (64 * k) (fun e => (el 0 e, 0, 0))
      let op : VecOp :=
        { i := i, mode := 0, dest := dest, from_ := 0, aux := c.vecAux i v, ops := ops, res := [],
          read := srcs.foldl (fun f y => f ||| y.flag) 0,
          sum := match i with | .vexpq _ => if v.xs = 0 then none else some (v.xs, 0, 0) | _ => none }
      let op := op.eval (if n.dec then c.r.drm else c.r.rm)
      let go :=
        (s.onCore (fun c =>
          let c := c.advancePorts (n.pops ++ (if v.dw.toNat < 4 then [8 + v.dw.toNat] else [])) k
          dest.tiles.foldl (fun c t => c.cancel t) c)).sched (n.passes - 1 + n.lat) (.vec op)
      if again.isEmpty && made.isEmpty then go else s.promoting (dedupN (again ++ made)) go

/-- A V operation under its guard. -/
def State.vecOp (s : State) (v : VArgs) (i : Instr) : Out :=
  s.guarded v.g (fun s => match i.vInfo with | some n => s.vec i n | none => s)

/-! ### VSCALE -/

/-- One presented element scaled (02 R68). -/
def scaleElem (f : Fmt) (p : Nat) (k : Int) : Res := if f = .int32 then scaleInt32 p k else Fmt.fp32.scale2 p k

/-- VSCALE: scales the row present at the partial-sum port in this cycle; outside every window, or where the row has
the other format, SCALEMISS rises (07 R231); in the window of a skipped block, which presents no row (08 R258), nothing happens. The exponents are elements of an 8-bit row, or one in imm14. -/
def State.vscale (s : State) (v : VArgs) : State :=
  let c := s.core
  let exps : Src :=
    if v.sb.toNat = 9 then .ok (List.replicate 64 (v.imm.toNat % 256)) .other 0 else c.source v v.sb.toNat 1 .int8 false
  match firstBad [exps] with
  | some b => s.portTrap b
  | none =>
    s.onCore (fun c =>
      let c := if v.sb.toNat < 8 then c.advancePorts [v.sb.toNat] 1 else c
      let inWindow := c.mat.windows.any (fun w => decide (w.1 ≤ s.cycle ∧ s.cycle < w.2))
      let miss (c : Core) : Core := { c with r := { c.r with scalemiss := c.r.scalemiss + 1 } }
      match c.mat.psRow with
      | none => if inWindow then c else miss c
      | some (f, row, els, m) =>
        if f ≠ v.fmt.toNat then miss c
        else
          let out := (els.zip exps.els).map (fun x => scaleElem (fmtOf f) x.1 (sgn 8 x.2))
          let c := { c with mat := { c.mat with psRow := some (f, row, out.map (·.1), m) }, r := c.r.raise (orFlags out) }
          if inWindow then c else miss c)

/-- VSCALE under its guard. -/
def execVscale (v : VArgs) (s : State) : Out := s.guarded v.g (fun s => s.vscale v)

/-! ### Element-wise operations (07 R219 to R223) -/

/-- VADD. -/
def execVadd (v : VArgs) (s : State) : Out := s.vecOp v (.vadd v)

/-- VSUB. -/
def execVsub (v : VArgs) (s : State) : Out := s.vecOp v (.vsub v)

/-- VMUL. -/
def execVmul (v : VArgs) (s : State) : Out := s.vecOp v (.vmul v)

/-- VFMA. -/
def execVfma (v : VArgs) (s : State) : Out := s.vecOp v (.vfma v)

/-- VFMS. -/
def execVfms (v : VArgs) (s : State) : Out := s.vecOp v (.vfms v)

/-- VMIN. -/
def execVmin (v : VArgs) (s : State) : Out := s.vecOp v (.vmin v)

/-- VMAX. -/
def execVmax (v : VArgs) (s : State) : Out := s.vecOp v (.vmax v)

/-- VABS. -/
def execVabs (v : VArgs) (s : State) : Out := s.vecOp v (.vabs v)

/-- VNEG. -/
def execVneg (v : VArgs) (s : State) : Out := s.vecOp v (.vneg v)

/-- VAND. -/
def execVand (v : VArgs) (s : State) : Out := s.vecOp v (.vand v)

/-- VOR. -/
def execVor (v : VArgs) (s : State) : Out := s.vecOp v (.vor v)

/-- VXOR. -/
def execVxor (v : VArgs) (s : State) : Out := s.vecOp v (.vxor v)

/-- VNOT. -/
def execVnot (v : VArgs) (s : State) : Out := s.vecOp v (.vnot v)

/-- VSHL. -/
def execVshl (v : VArgs) (s : State) : Out := s.vecOp v (.vshl v)

/-- VSHR. -/
def execVshr (v : VArgs) (s : State) : Out := s.vecOp v (.vshr v)

/-- VSAR. -/
def execVsar (v : VArgs) (s : State) : Out := s.vecOp v (.vsar v)

/-- VCMP. -/
def execVcmp (v : VArgs) (s : State) : Out := s.vecOp v (.vcmp v)

/-- VSEL. -/
def execVsel (v : VArgs) (s : State) : Out := s.vecOp v (.vsel v)

/-- VMSK. -/
def execVmsk (v : VArgs) (s : State) : Out := s.vecOp v (.vmsk v)

/-- VCVT. -/
def execVcvt (v : VArgs) (s : State) : Out := s.vecOp v (.vcvt v)

/-- VCLAMP. -/
def execVclamp (v : VArgs) (s : State) : Out := s.vecOp v (.vclamp v)

/-- VMOV. -/
def execVmov (v : VArgs) (s : State) : Out := s.vecOp v (.vmov v)

/-- VSPLAT. -/
def execVsplat (v : VArgs) (s : State) : Out := s.vecOp v (.vsplat v)

/-- VIOTA. -/
def execViota (v : VArgs) (s : State) : Out := s.vecOp v (.viota v)

/-! ### Special functions (07 R224, R225) -/

/-- VEXP. -/
def execVexp (v : VArgs) (s : State) : Out := s.vecOp v (.vexp v)

/-- VEXPQ. -/
def execVexpq (v : VArgs) (s : State) : Out := s.vecOp v (.vexpq v)

/-- VLOG2. -/
def execVlog2 (v : VArgs) (s : State) : Out := s.vecOp v (.vlog2 v)

/-- VRCP. -/
def execVrcp (v : VArgs) (s : State) : Out := s.vecOp v (.vrcp v)

/-- VRSQ. -/
def execVrsq (v : VArgs) (s : State) : Out := s.vecOp v (.vrsq v)

/-- VREFINE RCP. -/
def execVrefineRcp (v : VArgs) (s : State) : Out := s.vecOp v (.vrefineRcp v)

/-- VREFINE RSQ. -/
def execVrefineRsq (v : VArgs) (s : State) : Out := s.vecOp v (.vrefineRsq v)

/-! ### Axis operations and shuffles (07 R226 to R228) -/

/-- VRROT. -/
def execVrrot (v : VArgs) (s : State) : Out := s.vecOp v (.vrrot v)

/-- VCROT. -/
def execVcrot (v : VArgs) (s : State) : Out := s.vecOp v (.vcrot v)

/-- VRBC. -/
def execVrbc (v : VArgs) (s : State) : Out := s.vecOp v (.vrbc v)

/-- VCBC. -/
def execVcbc (v : VArgs) (s : State) : Out := s.vecOp v (.vcbc v)

/-- VRRED. -/
def execVrred (v : VArgs) (s : State) : Out := s.vecOp v (.vrred v)

/-- VCRED. -/
def execVcred (v : VArgs) (s : State) : Out := s.vecOp v (.vcred v)

/-- VRSCAN. -/
def execVrscan (v : VArgs) (s : State) : Out := s.vecOp v (.vrscan v)

/-- VSHUF. -/
def execVshuf (v : VArgs) (s : State) : Out := s.vecOp v (.vshuf v)

end Sys2Proof.Machine
end

