-- ==== Sys2Proof/Machine/DecimalOps.lean ====
section
/-! DEFINITION. Decimal operations (07 R232): the issue of Machine/Vector.lean, with DRM and DECSTAT. -/

namespace Sys2Proof.Machine

open Sys2Proof

/-- DADD. -/
def execDadd (v : VArgs) (s : State) : Out := s.vecOp v (.dadd v)

/-- DSUB. -/
def execDsub (v : VArgs) (s : State) : Out := s.vecOp v (.dsub v)

/-- DMUL. -/
def execDmul (v : VArgs) (s : State) : Out := s.vecOp v (.dmul v)

/-- DFMA. -/
def execDfma (v : VArgs) (s : State) : Out := s.vecOp v (.dfma v)

/-- DQUANT. -/
def execDquant (v : VArgs) (s : State) : Out := s.vecOp v (.dquant v)

/-- DRND. -/
def execDrnd (v : VArgs) (s : State) : Out := s.vecOp v (.drnd v)

/-- DCMP. -/
def execDcmp (v : VArgs) (s : State) : Out := s.vecOp v (.dcmp v)

/-- DCVT TO DEC64. -/
def execDcvtTo (v : VArgs) (s : State) : Out := s.vecOp v (.dcvtTo v)

/-- DCVT FROM DEC64. -/
def execDcvtFrom (v : VArgs) (s : State) : Out := s.vecOp v (.dcvtFrom v)

end Sys2Proof.Machine
end

