-- ==== Sys2Proof/Machine/Handles.lean ====
section
/-! DEFINITION. Handle, staging, MA and port operations (06 R191 to R197) and the pattern banks (07 R229, R230). -/

namespace Sys2Proof.Machine

open Sys2Proof

/-- An H result, 3 cycles after issue (06 R175). -/
def State.schedH (s : State) (d : HReg) (v : Handle) : State := s.sched 3 (.h d v)

/-- HMOV. -/
def execHmov (g : Guard) (hd ha : HReg) (s : State) : Out := s.guarded g (fun s => s.schedH hd (s.core.h ha))

/-- HSET: word `k` of H[hd] replaced. -/
def execHset (g : Guard) (hd : HReg) (xb : XReg) (k : BitVec 2) (s : State) : Out :=
  s.guarded g (fun s => s.schedH hd (setFld (s.core.h hd) (64 * k.toNat) (s.core.x xb)))

/-- HGET: word `k` of H[ha]. -/
def execHget (g : Guard) (hd : XReg) (ha : HReg) (k : BitVec 2) (s : State) : Out :=
  s.guarded g (fun s => s.schedX 3 hd (fld (s.core.h ha) (64 * k.toNat) 64))

/-- HMKT: a TILE handle. -/
def execHmkt (g : Guard) (hd : HReg) (xb : XReg) (imm : BitVec 12) (s : State) : Out :=
  s.guarded g (fun s => s.schedH hd (Handle.ofTile ((s.core.x xb).toNat + imm.toNat)))

/-- The WALK handle of HMKW (06 R192). -/
def walkHandle (b c : Word) (imm : BitVec 24) : Handle :=
  BitVec.ofNat 256 (2 * 2 ^ 252 + fldN b 0 12 * 2 ^ 232 + fldN b 12 4 * 2 ^ 228 + fldN c 24 12 * 2 ^ 60 +
    fldN c 16 8 * 2 ^ 52 + fldN c 0 16 * 2 ^ 36 + fldN b 16 12 * 2 ^ 24 + fldN imm 16 8 * 2 ^ 16 + fldN imm 0 16)

/-- HMKW. -/
def execHmkw (g : Guard) (hd : HReg) (xb xc : XReg) (imm : BitVec 24) (s : State) : Out :=
  s.guarded g (fun s => s.schedH hd (walkHandle (s.core.x xb) (s.core.x xc) imm))

/-- A count of a VIEW: 0 means 65536 (01 R18). -/
def viewCnt (n : Nat) : Nat := if n = 0 then 65536 else n

/-- The VIEW handle of HMKV (06 R193) from the object handle, the offset, the counts and the old strides where kept. -/
def viewHandle (o old : Handle) (off cnts : Word) (fmt : BitVec 5) (keep : Bool) : Handle :=
  let e0 := viewCnt (fldN cnts 0 16)
  let e1 := viewCnt (fldN cnts 16 16)
  let s1 := if keep then fldN old 160 32 else e0
  let s2 := if keep then fldN old 192 32 else e0 * e1 % 2 ^ 32
  BitVec.ofNat 256 (5 * 2 ^ 252 + (if o.kind = 3 then 2 ^ 229 else 0) + fmt.toNat * 2 ^ 224 + s2 * 2 ^ 192 + s1 * 2 ^ 160 +
    fldN cnts 32 16 * 2 ^ 144 + fldN cnts 16 16 * 2 ^ 128 + fldN cnts 0 16 * 2 ^ 112 + o.gen * 2 ^ 96 + o.oid * 2 ^ 64 +
    (o.off + off.toNat) % 2 ^ 64)

/-- HMKV: HANDLE where H[ha] is no object handle. -/
def execHmkv (g : Guard) (hd ha : HReg) (xb xc : XReg) (fmt : BitVec 5) (keep : Bool) (s : State) : Out :=
  s.guarded g (fun s =>
    let o := s.core.h ha
    if o.kind = 3 ∨ o.kind = 4 then s.schedH hd (viewHandle o (s.core.h hd) (s.core.x xb) (s.core.x xc) fmt keep)
    else s.trapHandle ha)

/-- A walk as a port copies it: the reserved fields are dropped (06 R195, R197). -/
def walkCopy (h : Handle) : Handle :=
  BitVec.ofNat 256 (2 * 2 ^ 252 + fldN h 228 16 * 2 ^ 228 + fldN h 0 108)

/-- The tiles a write port's pass visits, ascending. -/
def walkTiles (h : Handle) : List Nat := sortN ((List.range (walkLen h)).map (fun n => (walkStep h n).1))

/-- PORTSET.bind (06 R195). -/
def execPortsetBind (g : Guard) (ha : HReg) (port : BitVec 4) (s : State) : Out :=
  s.guarded g (fun s =>
    let h := s.core.h ha
    let p := port.toNat
    let bind (s : State) : State := s.sched 1 (.port p { bound := true, walk := walkCopy h } true)
    if h.kind ≠ 2 then s.trapHandle ha
    else if p < 8 then bind s
    else if 1024 < walkLen h then s.trapTile (walkStep h 1024).1 9
    else
      let ts := walkTiles h
      match ts.find? (fun t => (s.core.tile t).kind == 0 || (s.core.tile t).own != 0) with
      | some t => s.trapTile t (if (s.core.tile t).kind = 0 then 2 else 3)
      | none => s.promoting ts (bind (s.onCore (fun c => ts.foldl (fun c t => c.cancel t) c))))

/-- PORTSET.clr, at the chapter's latency of 3 (06 R175). -/
def execPortsetClr (g : Guard) (port : BitVec 4) (s : State) : Out :=
  s.guarded g (fun s => s.sched 3 (.port port.toNat {} false))

/-- The indices of a port as PORTGET returns them (06 R197). -/
def Port.word (p : Port) : Word :=
  if p.bound then
    BitVec.ofNat 64 (p.i0 + p.i1 * 2 ^ 16 + p.i2 * 2 ^ 32 + (if p.wrap then 2 ^ 48 else 0) + 2 ^ 49)
  else 0

/-- PORTGET: the walk and the indices; NULL and 0 for an unbound port. -/
def execPortget (g : Guard) (hd : HReg) (xc : XReg) (port : BitVec 4) (s : State) : Out :=
  s.guarded g (fun s =>
    let p := s.core.port port.toNat
    (s.schedH hd (if p.bound then p.walk else 0)).schedX 3 xc p.word)

/-- PORTADV.step: HANDLE on an unbound port. -/
def execPortadvStep (g : Guard) (xb : XReg) (port : BitVec 4) (n : BitVec 20) (s : State) : Out :=
  s.guarded g (fun s =>
    if (s.core.port port.toNat).bound then s.sched 1 (.portStep port.toNat (s.core.x xb + n.setWidth 64).toNat)
    else s.trap 0x06)

/-- PORTADV.set, at the chapter's latency of 3 (06 R175): the walk of the port stays as it then is. -/
def execPortadvSet (g : Guard) (xb : XReg) (port : BitVec 4) (s : State) : Out :=
  s.guarded g (fun s =>
    if (s.core.port port.toNat).bound then s.sched 3 (.portSet port.toNat (s.core.x xb)) else s.trap 0x06)

/-- STG.put, latency 1. -/
def execStgPut (g : Guard) (d : XReg) (a : XReg) (s : State) : Out := s.guarded g (fun s => s.sched 1 (.stg d (s.core.x a)))

/-- STG.get. -/
def execStgGet (g : Guard) (d : XReg) (a : XReg) (s : State) : Out := s.guarded g (fun s => s.schedX 1 d (s.core.stg a))

/-- MAPUT: bits 31:0. -/
def execMaput (g : Guard) (d : BitVec 3) (a : XReg) (s : State) : Out :=
  s.guarded g (fun s => s.sched 1 (.ma d ((s.core.x a).setWidth 32)))

/-- PATLD: `n` rows of an 8-bit tile into the bank inactive at issue, entry `j` visible at issue + 3 + j (07 R229). -/
def execPatld (g : Guard) (ha : HReg) (r0 : BitVec 4) (e0 : BitVec 6) (n : BitVec 5) (s : State) : Out :=
  s.guarded g (fun s => s.onTile ha (fun t => s.owned t (fun e =>
    if (fmtOf e.fmt).width ≠ 8 then s.trapTile t 8
    else
      let bank := if s.core.r.patbank then 0 else 1
      (List.range n.toNat).foldl (fun s j =>
        s.sched (3 + j) (.pattern bank (e0.toNat + j) (BitVec.ofNat 512 (packN 8 (s.core.tileRow t (r0.toNat + j)))))) s)))

/-- PATSW: the banks exchange, visible 1 cycle after issue (07 R230). -/
def execPatsw (g : Guard) (s : State) : Out := s.guarded g (fun s => s.sched 1 .patSwitch)

end Sys2Proof.Machine
end

