-- ==== Sys2Proof/Machine/Blocks.lean ====
section
/-! DEFINITION. What one MMAC block computes: modes, skips, products and sums, the step into an accumulator, and the
elements of an output (02 R62 to R64, R68; 08 R253 to R258, R260). -/

namespace Sys2Proof.Machine

open Sys2Proof

/-! ### Modes (08 Table 6) -/

/-- Slots of B per mode. -/
def modeN (mode : Nat) : Nat := match mode with | 0 => 4 | 1 => 8 | 2 => 8 | 3 => 16 | _ => 4
/-- Accumulators per mode. -/
def modeC (mode : Nat) : Nat := match mode with | 0 => 1 | 1 => 2 | 2 => 2 | _ => 4
/-- Is the mode's accumulator INT32? -/
def modeInt (mode : Nat) : Bool := mode == 2 || mode == 3 || mode == 5
/-- Is the mode sparse? -/
def modeSparse (mode : Nat) : Bool := mode == 4 || mode == 5
/-- Formats of A. -/
def modeA (mode : Nat) : List Fmt :=
  match mode with
  | 0 => [.bf16, .fp16, .e4m3, .e5m2]
  | 1 | 4 => [.e4m3, .e5m2]
  | _ => [.int8, .uint8]
/-- Formats of B. -/
def modeB (mode : Nat) : List Fmt := if mode = 3 then [.tern2] else modeA mode

/-! ### Latches -/

/-- A latch that holds nothing yet reads as a ZERO slot (log 21). -/
def Latch.empty : Latch := { kind := 2, exc := false, fmt := 0, words := [] }

/-- Does a latched slot suit a list of formats? A ZERO slot suits any. -/
def Latch.suits (l : Latch) (fs : List Fmt) : Bool := l.kind == 2 || fs.contains (fmtOf l.fmt)

/-- Row `r` of the elements of a latched slot. -/
def Latch.row (l : Latch) (r : Nat) : List Nat :=
  let w := (fmtOf l.fmt).width
  if l.kind = 1 then unpackRow w (((l.words.drop (r * w)).take w).map (·.toNat)) else List.replicate 64 0

/-- The B latches of a block, ZERO where none was loaded. -/
def fillB (mode : Nat) (l : List Latch) : List Latch := if l.isEmpty then List.replicate (modeN mode) Latch.empty else l

/-- Is a block skipped? (08 R255) -/
def blockSkips (relaxed : Bool) (a : Latch) (b : List Latch) : Bool :=
  (a.kind == 2 && (relaxed || b.all (fun x => !x.exc))) || (b.all (fun x => x.kind == 2) && (relaxed || !a.exc))

/-! ### Columns of B -/

/-- One output column: which A elements its values multiply, and the values; none for a dead column. -/
abbrev Column := Option (List Nat × List Nat)

/-- The bytes of a sparse slot as a number (08 R257). -/
def Latch.number (l : Latch) : Nat := if l.kind = 1 then packN 64 (l.words.map (·.toNat)) else 0

/-- The live columns of a sparse slot. -/
def Latch.live (l : Latch) : List Nat := bitList 64 l.number

/-- The columns of a sparse slot, 0 to 63: values 0 to 31 and the A elements they multiply. -/
def Latch.sparseCols (l : Latch) : List Column :=
  let n := l.number
  tab 64 (fun j =>
    if n.testBit j then
      let off := 64 + 320 * popcount j n
      let ix := n >>> (off + 256)
      some (tab 32 (fun v => 4 * (v / 2) + (ix >>> (2 * v)) % 4), tab 32 (fun v => (n >>> (off + 8 * v)) % 256))
    else none)

/-- The columns of the dense group of four slots. -/
def denseCols (b : List Latch) : List Column :=
  let rows := b.flatMap (fun l => tab 16 l.row)
  let ks := List.range 64
  tab 64 (fun j => some (ks, rows.map (fun r => r.getD j 0)))

/-- Columns of group `h` of a block. -/
def groupCols (mode h : Nat) (b : List Latch) : List Column :=
  if modeSparse mode then (b.getD h Latch.empty).sparseCols else denseCols ((b.drop (4 * h)).take 4)

/-- Live columns of a sparse block. -/
def liveCount (b : List Latch) : Nat := b.foldl (fun n l => n + l.live.length) 0

/-- Array cycles of an MMAC (08 R254 to R256). -/
def blockCycles (mode : Nat) (z skip : Bool) (b : List Latch) : Nat :=
  if !z then 16 else if skip then 1 else if modeSparse mode then max 1 (ceilDiv (liveCount b) 16) else 16

/-! ### Sums of products -/

/-- An exact sum of floating products in units of 2^-600, with the specials met (02 R62, R63). -/
structure FSum where
  sum  : Int := 0
  nan  : Bool := false
  inv  : Bool := false
  pinf : Bool := false
  ninf : Bool := false
  deriving DecidableEq, Repr

/-- One product added. -/
def FSum.mul (s : FSum) (a b : BinVal) : FSum :=
  let sig (v : BinVal) : Bool := match v with | .nan g => g | _ => false
  let infinite (n : Bool) : FSum := if n then { s with ninf := true } else { s with pinf := true }
  match a, b with
  | .nan _, _ | _, .nan _ => { s with nan := true, inv := s.inv || sig a || sig b }
  | .inf x, .inf y => infinite (x != y)
  | .inf x, .fin y m _ => if m = 0 then { s with nan := true, inv := true } else infinite (x != y)
  | .fin x m _, .inf y => if m = 0 then { s with nan := true, inv := true } else infinite (x != y)
  | .fin x m e, .fin y k j => { s with sum := s.sum + signed (x != y) (m * k) * ((2 ^ (e + j + 600).toNat : Nat) : Int) }

/-- Is the sum an exact zero with no special? -/
def FSum.isZero (s : FSum) : Bool := s.sum == 0 && !s.nan && !s.pinf && !s.ninf

/-- The FP32 rounding of `v` plus the sum. -/
def FSum.round (s : FSum) (v : BinVal) : Res :=
  let f := Fmt.fp32
  let nv : Flags := if s.inv then fNV else 0
  let p := s.pinf || (match v with | .inf false => true | _ => false)
  let n := s.ninf || (match v with | .inf true => true | _ => false)
  let bad := match v with | .nan _ => true | _ => false
  if p && n then (f.nanBits, fNV)
  else if s.nan || bad then (f.nanBits, nv)
  else if p || n then (f.signBits n + f.infBits, 0)
  else
    let t : Int := s.sum + (match v with | .fin x m e => signed x m * ((2 ^ (e + 600).toNat : Nat) : Int) | _ => 0)
    f.roundSum .rne false false t (-600)

/-- A block's step into one FP32 element: unchanged where no product is formed or the sum is an exact zero. -/
def accF (old : Nat) (s : FSum) : Res := if s.isZero then (old, 0) else s.round (Fmt.fp32.decode old)

/-- A block's step into one INT32 element. -/
def accI (old : Nat) (s : Int) : Res := Fmt.int32.putInt true (sgn 32 old + s)

/-- The sum of a column against one A row: floats. -/
def dotF (a : List BinVal) (c : List Nat × List BinVal) : FSum :=
  ((c.1.map (fun k => a.getD k (.fin false 0 0))).zip c.2).foldl (fun s x => s.mul x.1 x.2) {}

/-- The sum of a column against one A row: integers. -/
def dotI (a : List Int) (c : List Nat × List Int) : Int :=
  ((c.1.map (fun k => a.getD k 0)).zip c.2).foldl (fun s x => s + x.1 * x.2) 0

/-- The format that a block's B values have in group `h`, slot by slot. -/
def groupFmts (mode h : Nat) (b : List Latch) : List Fmt :=
  if modeSparse mode then List.replicate 32 (fmtOf (b.getD h Latch.empty).fmt)
  else ((b.drop (4 * h)).take 4).flatMap (fun l => List.replicate 16 (fmtOf l.fmt))

/-- A value of a B slot: a ZERO slot's is zero in any format. -/
def bVal (f : Fmt) (v : Nat) : BinVal := if f.isBin then f.decode v else .fin false 0 0

/-- The sums of row `m` in group `h`: per column, none where no product is formed. -/
def Block.rowF (k : Block) (h m : Nat) : List (Option FSum) :=
  let fs := groupFmts k.mode h k.b
  let a := (k.a.row m).map (bVal (fmtOf k.a.fmt))
  (groupCols k.mode h k.b).map (fun c => c.map (fun x => dotF a (x.1, (fs.zip x.2).map (fun y => bVal y.1 y.2))))

/-- The same over integers. -/
def Block.rowI (k : Block) (h m : Nat) : List (Option Int) :=
  let fs := groupFmts k.mode h k.b
  let a := (k.a.row m).map (fmtOf k.a.fmt).intVal
  (groupCols k.mode h k.b).map (fun c => c.map (fun x => dotI a (x.1, (fs.zip x.2).map (fun y => y.1.intVal y.2))))

/-- TERN2's flag over a block (02 R49). -/
def Block.readFlags (k : Block) : Flags :=
  if k.mode = 3 ∧ k.b.any (fun l => l.kind == 1 && (tab 16 l.row).any (fun r => r.any (fun v => v == 2))) then fTERN else 0

/-! ### Outputs (08 R260) -/

/-- May an accumulator of a type be written in a format? An empty one reads as zero in any of them. -/
def outSuits (ty fmt : Nat) : Bool :=
  let f := fmtOf fmt
  let fl := f.isBin && f != .fp64
  let it := f.isInt && f != .int64
  if ty = 1 then fl else if ty = 2 then it else fl || it

/-- One output element with its flags. -/
def outElem (ty fmt : Nat) (sat : Bool) (exp : Int) (v : Nat) : Res :=
  let f := fmtOf fmt
  if ty = 2 then
    let r := scaleInt32 v exp
    let n := f.putInt sat (sgn 32 r.1)
    (n.1, r.2 ||| n.2)
  else if f.isInt then (0, 0)
  else
    match Fmt.fp32.decode v with
    | .fin s m e => f.ofBin .rne sat (.fin s m (e + exp))
    | x => f.ofBin .rne sat x

end Sys2Proof.Machine
end

