-- ==== Sys2Proof/Machine/Translate.lean ====
section
/-! DEFINITION. Page-table entries, translation and its faults (13 R342 to R349, R352), and the hotness tables
(13 R354). -/

namespace Sys2Proof.Machine

open Sys2Proof

/-! ### Entries (13 Table 2) -/

/-- V. -/
def pteV (e : BitVec 128) : Bool := bitAt e 0
/-- W. -/
def pteW (e : BitVec 128) : Bool := bitAt e 3
/-- HOT. -/
def pteHot (e : BitVec 128) : Bool := bitAt e 4
/-- GEOM. -/
def pteGeom (e : BitVec 128) : Nat := fldN e 5 2
/-- TIER. -/
def pteTier (e : BitVec 128) : Nat := fldN e 7 2
/-- LEAF. -/
def pteLeaf (e : BitVec 128) : Bool := bitAt e 9
/-- PS. -/
def ptePs (e : BitVec 128) : Nat := fldN e 10 2
/-- FRAME. -/
def pteFrame (e : BitVec 128) : Nat := fldN e 12 40
/-- FMT. -/
def pteFmt (e : BitVec 128) : Nat := fldN e 64 5
/-- OBJV. -/
def pteObjv (e : BitVec 128) : Bool := bitAt e 97
/-- OID. -/
def pteOid (e : BitVec 128) : Nat := fldN e 98 24

/-- A leaf of a page of 4 KiB, or of 64 KiB (`ps` 1). -/
def mkLeaf (w : Bool) (geom tier ps frame fmt : Nat) (oid : Option Nat) : BitVec 128 :=
  BitVec.ofNat 128 ((match oid with | some o => (o % 2 ^ 24) * 2 ^ 98 + 2 ^ 97 | none => 0) + fmt % 32 * 2 ^ 64 +
    frame % 2 ^ 40 * 2 ^ 12 + ps % 4 * 2 ^ 10 + 2 ^ 9 + tier % 4 * 2 ^ 7 + geom % 4 * 2 ^ 5 + (if w then 8 else 0) + 1)

/-- A malformed entry at a level (13 R343, Table 3). -/
def pteBad (level : Nat) (e : BitVec 128) : Bool :=
  fldN e 122 6 != 0 || fldN e 69 28 != 0 || fldN e 52 12 != 0 || ptePs e == 3 || pteTier e == 3 || pteGeom e == 3 ||
  (Fmt.ofCode (pteFmt e)).isNone ||
  (if pteLeaf e then
    (match level with
      | 3 => ptePs e != 2 || pteFrame e % 512 != 0
      | 4 => ptePs e == 2
      | _ => true) ||
    (pteGeom e == 2 && (let w := (fmtOf (pteFmt e)).width; (w != 8 && w != 16) || (ptePs e == 0 && w != 8)))
  else level == 4 || pteFrame e % 2 != 0)

/-! ### The tree (13 R342)

FRAME names a node by half its number, since nodes are 8 KiB. The entries of a node are kept by key: 512 times the node's
number plus the index. Mark: DESIGN CHOICE (log 33): each space's own nodes have numbers from 2^28 on, one for each stretch of
virtual addresses that a node of a level covers, and what stands in them unless written is made from the objects and regions
of the space; a node that a pointer names otherwise holds only what is written to it. -/

/-- Numbers of the space's own nodes of a level start here. -/
def nodeBase (level : Nat) : Nat :=
  match level with
  | 4 => 2 ^ 28
  | 3 => 2 ^ 28 + 2 ^ 27
  | 2 => 2 ^ 28 + 2 ^ 27 + 2 ^ 18
  | _ => 2 ^ 28 + 2 ^ 27 + 2 ^ 18 + 2 ^ 9

/-- The index of `va` at a level. -/
def pteIx (level va : Nat) : Nat := va / 2 ^ (48 - 9 * level) % 512

/-- The key of the entry that translates `va` at a level, in the space's own nodes. -/
def pteKey (level va : Nat) : Nat := nodeBase level * 512 + va % 2 ^ 48 / 2 ^ (48 - 9 * level)

/-- A pointer to a node. -/
def mkPtr (node : Nat) : BitVec 128 := BitVec.ofNat 128 (node % 2 ^ 39 * 2 ^ 13 + 1)

/-! ### Objects' own pages -/

/-- Page size code of an object's pages: the transposing alias of a 2-byte format needs 64 KiB leaves (13 R345). -/
def Obj.ps (o : Obj) : Nat := if o.geom = 2 ∧ (fmtOf o.fmt).width = 16 then 1 else 0

/-- Pages that an object's leaves cover: whole leaves. -/
def Obj.mapped (o : Obj) : Nat := if o.ps = 1 then (o.pages + 15) / 16 * 16 else o.pages

/-- Is the object's COW attribute in force? (13 R352) -/
def Obj.shared (o : Obj) : Bool := o.cow && decide (1 < o.strong)

/-- The frame of page `k` of an object: the first `onDie0` pages lie on die 0, the rest on die 1. -/
def Obj.frameOf (o : Obj) (k : Nat) : Nat := if k < o.onDie0 then o.frame + k else Config.die1Frames + o.frame + k

/-- The entry of page `k` of an object. -/
def Obj.leaf (oid : Nat) (o : Obj) (k : Nat) : BitVec 128 :=
  mkLeaf (o.write && !o.ro) o.geom o.tier o.ps (o.frameOf k) o.fmt (some oid)

/-- The entry of an object's or a region's page, where no entry is listed. -/
def Space.implied (sp : Space) (page : Nat) : Option (BitVec 128) :=
  match sp.objs.find? (fun e => e.2.state == 1 && decide (e.2.base / 4096 ≤ page ∧ page < e.2.base / 4096 + e.2.mapped)) with
  | some (oid, o) => some (o.leaf oid (page - o.base / 4096))
  | none =>
    match sp.regions.find? (fun r => decide (r.page ≤ page ∧ page < r.page + r.n)) with
    | some r => some (setFld r.pte 12 (BitVec.ofNat 40 (pteFrame r.pte + (page - r.page))))
    | none => none

/-- Does an object or a region of the space have a page among `n` from `page` on? -/
def Space.uses (sp : Space) (page n : Nat) : Bool :=
  sp.objs.any (fun e => e.2.state == 1 && decide (e.2.base / 4096 < page + n ∧ page < e.2.base / 4096 + e.2.mapped)) ||
  sp.regions.any (fun r => decide (r.page < page + n ∧ page < r.page + r.n))

/-- The pages that a key of the space's own nodes translates, first and count; none for another key. -/
def keyPages (key : Nat) : Option (Nat × Nat) :=
  if key < nodeBase 4 * 512 then none
  else if key < nodeBase 3 * 512 then some (key - nodeBase 4 * 512, 1)
  else if key < nodeBase 2 * 512 then some ((key - nodeBase 3 * 512) * 512, 512)
  else if key < nodeBase 1 * 512 then some ((key - nodeBase 2 * 512) * 2 ^ 18, 2 ^ 18)
  else if key < nodeBase 1 * 512 + 512 then some ((key - nodeBase 1 * 512) * 2 ^ 27, 2 ^ 27)
  else none

/-- Is an entry at a key the pointer to the space's own node below? -/
def ownPtr (key : Nat) (e : BitVec 128) : Bool :=
  (decide (nodeBase 3 * 512 ≤ key ∧ key < nodeBase 2 * 512) && e == mkPtr (nodeBase 4 + (key - nodeBase 3 * 512))) ||
  (decide (nodeBase 2 * 512 ≤ key ∧ key < nodeBase 1 * 512) && e == mkPtr (nodeBase 3 + (key - nodeBase 2 * 512))) ||
  (decide (nodeBase 1 * 512 ≤ key) && e == mkPtr (nodeBase 2 + (key - nodeBase 1 * 512)))

/-- The pages, first and count, that are mapped, for which an entry is written, or whose change is under way. -/
def Space.taken (sp : Space) : List (Nat × Nat) :=
  (sp.objs.filter (fun e => e.2.state == 1)).map (fun e => (e.2.base / 4096, e.2.mapped)) ++ sp.regions.map (fun r => (r.page, r.n)) ++
    (sp.ptes.filter (fun e => !ownPtr e.1 e.2)).filterMap (fun e => keyPages e.1) ++ sp.changes.map (fun c => (c.page, c.n))

/-- The first page of `n` free ones: from `first` on, or else right behind some pages that are taken. -/
def Space.spot (sp : Space) (first n : Nat) : Option Nat :=
  let l := sp.taken
  (first :: 256 :: l.map (fun r => (r.1 + r.2 + 15) / 16 * 16)).find? (fun p =>
    decide (p + n ≤ 2 ^ 36) && !l.any (fun r => decide (r.1 < p + n ∧ p < r.1 + r.2)))

/-- What stands at a key where no entry is listed. -/
def Space.unlisted (sp : Space) (key : Nat) : BitVec 128 :=
  let up (level : Nat) : BitVec 128 :=
    let i := key - nodeBase level * 512
    let n := 512 ^ (4 - level)
    if sp.uses (i * n) n then mkPtr (nodeBase (level + 1) + i) else 0
  if key < nodeBase 4 * 512 then 0
  else if key < nodeBase 3 * 512 then (sp.implied (key - nodeBase 4 * 512)).getD 0
  else if key < nodeBase 2 * 512 then up 3
  else if key < nodeBase 1 * 512 then up 2
  else if key < nodeBase 1 * 512 + 512 then up 1
  else 0

/-! ### Walks (13 R343) -/

/-- The prior entry at a key that a change keeps, its frame moved along a run of entries. -/
def Change.prior (c : Change) (key : Nat) : Option (BitVec 128) :=
  (c.olds.find? (fun o => decide (o.1 ≤ key ∧ key < o.1 + o.2.1))).map (fun o =>
    setFld o.2.2 12 (BitVec.ofNat 40 (pteFrame o.2.2 + (key - o.1))))

/-- The entry at a key: until the marker of a change has passed an agent, that agent's misses are served from the prior entry
(10 R310, 13 R347). -/
def Space.entry (sp : Space) (agent : Option Nat) (key : Nat) : BitVec 128 :=
  let mine (c : Change) : Bool := match agent with | some a => c.wait.contains a | none => false
  match sp.changes.findSome? (fun c => if mine c then c.prior key else none) with
  | some e => e
  | none => (sp.ptes.find key).getD (sp.unlisted key)

/-- Does a walk go on from an entry of a level to a node below? -/
def ptePtr (level : Nat) (e : BitVec 128) : Bool := pteV e && !pteLeaf e && !pteBad level e

/-- The key of the entry that a walk for `va` meets at a level; none where it ends above. -/
def Space.keyAt (sp : Space) (agent : Option Nat) (va : Nat) : Nat → Option Nat
  | 0 => none
  | 1 => some (pteKey 1 va)
  | level + 1 =>
    match sp.keyAt agent va level with
    | none => none
    | some k =>
      let e := sp.entry agent k
      if ptePtr level e then some (pteFrame e / 2 * 512 + pteIx (level + 1) va) else none

/-- The entry that a walk for `va` meets at a level. -/
def Space.pte (sp : Space) (agent : Option Nat) (level va : Nat) : Option (BitVec 128) :=
  (sp.keyAt agent va level).map (sp.entry agent)

/-- Do the 16 aligned entries of a 64 KiB leaf agree, with consecutive frames? (13 R343) -/
def Space.bigOk (sp : Space) (agent : Option Nat) (key : Nat) : Bool :=
  let k := key / 16 * 16
  let e := sp.entry agent k
  pteFrame e % 16 == 0 &&
    (List.range 16).all (fun i => sp.entry agent (k + i) == setFld e 12 (BitVec.ofNat 40 (pteFrame e + i)))

/-- Has a PINVM published the change to a channel for the page of an address? (10 R310) -/
def Change.seenBy (c : Change) (agent va : Nat) : Bool :=
  c.past.any (fun p => p.1 == agent && decide (p.2.1 ≤ va / 4096 ∧ va / 4096 < p.2.1 + p.2.2))

/-- The space as an agent's walk for an address finds it: a change that a PINVM has published to it keeps no prior entry. -/
def Space.view (sp : Space) (agent : Option Nat) (va : Nat) : Space :=
  match agent with
  | some a => if sp.changes.any (fun c => c.seenBy a va) then { sp with changes := sp.changes.filter (fun c => !c.seenBy a va) } else sp
  | none => sp

/-- The leaf of an address and its page's size in bits, or none where the walk faults (13 Table 3). -/
def Space.leaf (sp : Space) (agent : Option Nat) (va : Nat) : Option (BitVec 128 × Nat) :=
  let sp := sp.view agent va
  if 2 ^ 48 ≤ va then none
  else match sp.pte agent 3 va with
    | none => none
    | some e =>
      if !pteV e || pteBad 3 e then none
      else if pteLeaf e then some (e, 21)
      else match sp.keyAt agent va 4 with
        | none => none
        | some k =>
          let x := sp.entry agent k
          if !pteV x || pteBad 4 x then none
          else if ptePs x = 1 then (if sp.bigOk agent k then some (x, 16) else none)
          else some (x, 12)

/-- Physical address of a byte under its leaf: host memory lies above the 52 bits of device addresses; the transposing
alias follows the formula of 13 R345. -/
def leafAddr (e : BitVec 128) (bits va : Nat) : Nat :=
  let frame := if bits = 16 then pteFrame e - va / 4096 % 16 else pteFrame e
  let a := va % 2 ^ bits
  let n := (fmtOf (pteFmt e)).width / 8
  let off :=
    if pteGeom e = 2 then
      let o := a % (4096 * n)
      a / (4096 * n) * (4096 * n) + (64 * (o % (64 * n) / n) + o / (64 * n)) * n + o % n
    else a
  (if pteTier e = 2 then 2 ^ 52 else 0) + frame * 4096 + off

/-- The result of translating an access: physical pieces, whether a transposing page is met, the first page's leaf; or
the first address that faults. -/
inductive Xlat where
  | ok (l : List (Nat × Nat)) (transposed : Bool) (first : BitVec 128)
  | fault (va : Nat)
  deriving DecidableEq, Repr

/-- Translation page by page. -/
def Space.xlatGo (sp : Space) (agent : Option Nat) (write : Bool) : Nat → Nat → Nat → Xlat
  | 0, va, _ => .fault va
  | fuel + 1, va, n =>
    match sp.leaf agent va with
    | none => .fault va
    | some (e, bits) =>
      if write && !pteW e then .fault va
      else
        let k := min n (4096 - va % 4096)
        let t := pteGeom e == 2
        let l := if t then tab k (fun i => (leafAddr e bits (va + i), 1)) else [(leafAddr e bits va, k)]
        if n ≤ k then .ok l t e
        else match Space.xlatGo sp agent write fuel (va + k) (n - k) with
          | .ok l' t' _ => .ok (l ++ l') (t || t') e
          | .fault v => .fault v

/-- Translating `n` bytes from `va`. -/
def Space.xlat (sp : Space) (agent : Option Nat) (va n : Nat) (write : Bool) : Xlat :=
  sp.xlatGo agent write (n / 4096 + 2) va n

/-- The page that holds an address, as 4 KiB pages, first and count: the leaf's, or the 4 KiB one where the walk finds none. -/
def Space.pageAt (sp : Space) (va : Nat) : Nat × Nat :=
  match sp.leaf none va with
  | some (_, bits) => (va / 2 ^ bits * 2 ^ (bits - 12), 2 ^ (bits - 12))
  | none => (va / 4096, 1)

/-- Do two addresses lie in one page? Faults there coalesce (13 R348). -/
def Space.onePage (sp : Space) (a b : Nat) : Bool :=
  a / 4096 == b / 4096 || (let p := sp.pageAt b; decide (p.1 ≤ a / 4096 ∧ a / 4096 < p.1 + p.2))

/-! ### The machine's side -/

/-- An address space. -/
def State.space (s : State) (asid : Nat) : Space := ((s.spaces.find? (fun e => e.1 == asid)).map (·.2)).getD {}

/-- An address space changed, where it exists. -/
def State.modSpace (s : State) (asid : Nat) (f : Space → Space) : State :=
  { s with spaces := s.spaces.map (fun e => if e.1 = asid then (e.1, f e.2) else e) }

/-- A job. -/
def State.job (s : State) (j : Nat) : Option Job := (s.jobs.find? (fun e => e.1 == j)).map (·.2)

/-- A job changed, where it exists. -/
def State.modJob (s : State) (j : Nat) (f : Job → Job) : State :=
  { s with jobs := s.jobs.map (fun e => if e.1 = j then (e.1, f e.2) else e) }

/-- What an access meets: it can be performed, it waits for Shogiwald's answer, or it was declared invalid or a COW. -/
inductive Reach where
  | ok (l : List (Nat × Nat)) (transposed : Bool) (first : BitVec 128)
  | wait (va : Nat)
  | bad (va : Nat) (cow : Bool)
  deriving DecidableEq, Repr

/-- The end of a walk for a page of the core's space that is still under way, by the core itself or by any core of its
well. -/
def State.walking (s : State) (own : Bool) (page : Nat) : Option Nat :=
  (s.walks.find? (fun w => (if own then w.1 == s.cid else w.1 / 12 == s.cid / 12) && w.2.1 == s.core.task.asid && w.2.2.1 == page &&
    decide (s.cycle < w.2.2.2))).map (·.2.2.2)

/-- Does the shared cache of the core's well hold a page of its space? (13 R346) -/
def State.wellHas (s : State) (page : Nat) : Bool :=
  (s.wtlb.get [] (s.cid / 12)).contains (s.core.task.asid, page) && (s.walking false page).isNone

/-- An uncorrectable word that a walk for a page meets: an entry at key `k` stands at physical address `16 k`. A page that a translation
cache holds needs no walk (17 R404). -/
def State.walkWord (s : State) (asid : Nat) (agent : Option Nat) (page : Nat) : Option (Nat × Nat) :=
  if s.unc.isEmpty || s.core.tlb.contains page || s.wellHas page then none
  else
    let sp := (s.space asid).view agent (page * 4096)
    let keys := [1, 2, 3, 4].filterMap (sp.keyAt agent (page * 4096))
    s.unc.find? (fun u => keys.any (fun k => decide (u.1 < 16 * k + 16 ∧ 16 * k < u.1 + u.2)))

/-- The first address of an access whose walk meets an uncorrectable word. -/
def State.walkFault (s : State) (asid : Nat) (agent : Option Nat) (va n : Nat) : Option Nat :=
  if s.unc.isEmpty then none
  else ((List.range ((va + n - 1) / 4096 - va / 4096 + 1)).find? (fun k => (s.walkWord asid agent (va / 4096 + k)).isSome)).map
    (fun k => max va ((va / 4096 + k) * 4096))

/-- Translating an access of the focused core, with Shogiwald's declarations so far (13 R348, R352). `id` names the access: its
issue number, none for a fetch of code. -/
def State.reach (s : State) (asid : Nat) (agent : Option Nat) (va n : Nat) (write : Bool) (id : Option Nat) : Reach :=
  let f : Option Nat := match (s.space asid).xlat agent va n write, s.walkFault asid agent va n with
    | .fault v, some w => some (min v w)
    | .fault v, none => some v
    | .ok _ _ _, w => w
  match (s.space asid).xlat agent va n write, f with
  | .ok l t e, none => .ok l t e
  | _, f =>
    let v := f.getD va
    match s.core.declared.find? (fun d => d.2.2 == id && (s.space asid).onePage (d.1 * 4096) v) with
    | some d => .bad v d.2.1
    | none => .wait v

/-- A fault record for Shogiwald; faults on one page coalesce in the first one's record, which one answer settles for all of
them (13 R348). A walk that met an uncorrectable word interrupts Shogiwald with its address too (17 R403, R404). -/
def State.noteFault (s : State) (va : Nat) (kind : AccKind) (cls : Nat) (id : Option Nat) : State :=
  let t := s.core.task
  let me := (s.cid, id)
  let here (f : FaultRec) : Bool := f.asid == t.asid && (s.space t.asid).onePage f.va va
  if s.faults.any here then
    { s with faults := s.faults.map (fun f => if here f && !f.who.contains me then { f with who := f.who ++ [me] } else f) }
  else
    { s with notes := s.notes ++ ((s.walkWord t.asid none (va / 4096)).map (fun u => (1, u.1))).toList,
             faults := s.faults ++ [{ asid := t.asid, va := va, kind := kind, core := s.cid, cls := cls, job := t.job, who := [me] }] }

/-! ### Changes and their markers (10 R310, 13 R347) -/

/-- Cores bound to a task in an address space. -/
def State.coresIn (s : State) (asid : Nat) : List Nat :=
  s.busyCores.filter (fun i => (s.coreAt i).task.asid == asid)

/-- Does a range of pages hold a reserved target? Shogiwald neither moves nor unmaps it then (13 R357). -/
def State.reserved (s : State) (asid page n : Nat) : Bool :=
  s.accs.any (fun t => decide (page ≤ t.va / 4096 ∧ t.va / 4096 < page + n) && (match s.job t.job with
    | some j => j.asid == asid
    | none => false))

/-- The count of free pages that a frame of a tier belongs to: of its die's tier; none (6) for a frame of another package. -/
def freeIx (tier frame : Nat) : Nat :=
  if tier = 2 then 2 else if frame < 2 ^ 30 then 3 * Config.dieOfBlock frame + tier else 6

/-- Free pages returned to the count of a die's tier. -/
def addAt (v : Vector Nat 6) (i n : Nat) : Vector Nat 6 := v.setIfInBounds i (v.toList.getD i 0 + n)

/-- Pages taken from the count of free pages. -/
def takePages (v : Vector Nat 6) (i n : Nat) : Vector Nat 6 := v.setIfInBounds i (v.toList.getD i 0 - n)

/-- The Drain engine of each die starts reclaiming a tier whose free count lies below FREELO (13 R360). -/
def State.drainCheck (s : State) (tier : Nat) : State :=
  let go (s : State) (die : Nat) : State :=
    let k := 3 * die + tier
    if s.freePages.toList.getD k 0 < s.freeLo.toList.getD k 0 ∧ !s.drains.any (fun x => x.2 == (die, tier)) then
      { s with drains := s.drains ++ [(s.cycle + 200, die, tier)] }
    else s
  go (go s 0) 1

/-- The pages of changes that are done count free. -/
def State.freeBack (s : State) (l : List Change) : State :=
  { s with freePages := (l.flatMap (fun ch => ch.back)).foldl (fun v p => Machine.addAt v p.1 p.2) s.freePages }

/-- Changes whose markers have all completed are done: their frames may be reused, once no reserved target lies on their
pages. -/
def State.settleChanges (s : State) (asid : Nat) : State :=
  let left (ch : Change) : Change :=
    { ch with muWait := ch.muWait.filter (fun w => (s.coreAt w.1).mu.any (fun i => decide (i.seq < w.2))) }
  let now := (s.space asid).changes.map left
  let isDone (ch : Change) : Bool := ch.wait.isEmpty && ch.muWait.isEmpty && !s.reserved asid ch.page ch.n
  let s := s.modSpace asid (fun sp => { sp with changes := now.filter (fun ch => !isDone ch) })
  s.freeBack (now.filter isDone)

/-- A marker of a change or of a PINVM, as a channel's queue holds it. -/
def markerCmd (seq page n : Nat) (ids : List Nat) : PumpCmd := { seq := seq, op := 6, marker := some (page, n, ids) }

/-- Entries leave the wells' shared caches: what an older one serves until the markers complete stands in its space's changes. -/
def State.dropWells (s : State) (p : Nat × Nat → Bool) : State :=
  { s with wtlb := (s.wtlb.map (fun w => (w.1, w.2.filter (fun e => !p e)))).filter (fun w => decide (w.2 ≠ [])) }

/-- A marker of a change in every channel of a core, and its issue number taken. -/
def Core.mark (c : Core) (now page n id : Nat) : Core :=
  { c with chans := c.chans.map (fun q => { q with queue := q.queue ++ [{ markerCmd c.iss.seq page n [id] with issued := now }] }),
           iss := { c.iss with seq := c.iss.seq + 1 } }

/-- Markers of a change in the channels of several cores. -/
def State.markAll (s : State) (cores : List Nat) (page n id : Nat) : State :=
  cores.foldl (fun s i => s.putCore i ((s.coreAt i).mark s.cycle page n id)) s

/-- A change of a space's entries as it begins: a marker of every channel and the accesses of every core are to come. -/
def State.newChange (s : State) (asid : Nat) (olds : List (Nat × Nat × BitVec 128)) (page n : Nat) (back : List (Nat × Nat)) : Change :=
  { id := s.nextChange, olds := olds, page := page, n := n, back := back,
    wait := (s.coresIn asid).flatMap (fun i => (List.range 8).map (fun c => i * 16 + c)),
    muWait := (s.coresIn asid).map (fun i => (i, (s.coreAt i).iss.seq)) }

/-- A change added to its space's list. -/
def State.addChange (s : State) (asid : Nat) (ch : Change) : State := s.modSpace asid (fun sp => { sp with changes := sp.changes ++ [ch] })

/-- A change published: one marker in each channel and in the memory unit of every core bound to a task in the space, the
prior entries serving each until its marker completes (13 R347 steps 2 and 3). `page` and `n` are the pages it covers. -/
def State.publish (s : State) (asid : Nat) (olds : List (Nat × Nat × BitVec 128)) (page n : Nat) (back : List (Nat × Nat)) : State :=
  let ch := s.newChange asid olds page n back
  let t := (s.addChange asid ch).dropWells (fun e => e.1 == asid && decide (page ≤ e.2 ∧ e.2 < page + n))
  { t.markAll (s.coresIn asid) page n ch.id with nextChange := s.nextChange + 1 }.settleChanges asid

/-! ### Hotness (13 R354) -/

/-- The counter of a package in an entry. -/
def Hot.count (h : Hot) (pkg : Nat) : Nat := ((h.cnt.find? (fun e => e.1 == pkg)).map (·.2)).getD 0
/-- The sum of an entry's counters. -/
def Hot.sum (h : Hot) : Nat := h.cnt.foldl (fun n e => n + e.2) 0
/-- An entry with one request of a package more; counters saturate at 65535. -/
def Hot.bump (h : Hot) (pkg : Nat) : Hot :=
  { h with cnt := (pkg, min 65535 (h.count pkg + 1)) :: h.cnt.filter (fun e => e.1 != pkg) }

/-- The package of a 64 KiB physical block: bits 51:42 of its address (20 R435); host memory, from 2^52 on in the model's one space, is
reached through this package's host link (13 R339). -/
def packageOf (block : Nat) : Nat := if block < 2 ^ 36 then block / 2 ^ 26 else 0

/-- The controller of a physical 64 KiB block of a tier, as the model numbers them: of each package 64 numbers, 6 for the
GDDR7 controllers of each die and 16 for the wells of each die (13 R354). -/
def hotCtl (tier block : Nat) : Nat :=
  let die := Config.dieOfBlock (block * 16)
  packageOf block * 64 +
    (if tier = 0 then 32 + 16 * die + Config.controller block % 16 else 6 * die + Config.controller block % 6)

/-- One request of package 0 to a block of another package: its counter rises, a block that is not tracked takes the entry
whose counters sum lowest, and at HOTTHR the controller notifies Shogiwald and clears the counter. -/
def State.hotRequest (tier : Nat) (s : State) (block : Nat) : State :=
  if packageOf block = 0 then s
  else
    let ctl := hotCtl tier block
    let mine := s.hot.filter (fun h => h.ctl == ctl)
    let low := mine.foldl (fun m h => match m with
      | none => some h
      | some x => if h.sum < x.sum then some h else some x) (none : Option Hot)
    let (e, rest) : Hot × List Hot :=
      match mine.find? (fun h => h.block == block) with
      | some h => (h, s.hot.filter (fun x => x != h))
      | none =>
        ({ ctl := ctl, block := block, cnt := [] },
          if mine.length < 4096 then s.hot
          else match low with | some x => s.hot.filter (fun h => h != x) | none => s.hot)
    let e := e.bump 0
    if s.hotthr.get 65535 ctl ≤ e.count 0 then
      { s with hot := rest ++ [{ e with cnt := e.cnt.filter (fun c => c.1 != 0) }], notes := s.notes ++ [(0, block)] }
    else { s with hot := rest ++ [e] }

/-- The requests of an access to a page, where its leaf has HOT set. -/
def State.countLeaf (s : State) (e : BitVec 128) (l : List (Nat × Nat)) : State :=
  if pteHot e then (dedupN (l.map (fun p => p.1 / 65536))).foldl (State.hotRequest (pteTier e)) s else s

/-- The requests of an access to a space, page by page (13 R354). -/
def State.countHot (s : State) (asid : Nat) (agent : Option Nat) (va n : Nat) : State :=
  if n = 0 then s
  else (List.range ((va + n - 1) / 4096 - va / 4096 + 1)).foldl (fun s k =>
    let p := va / 4096 + k
    let lo := max va (p * 4096)
    match (s.space asid).leaf agent lo with
    | some (e, bits) => s.countLeaf e (if pteGeom e = 2 then tab (min (va + n) ((p + 1) * 4096) - lo) (fun i => (leafAddr e bits (lo + i), 1))
        else [(leafAddr e bits lo, 1)])
    | none => s) s

/-! ### Latencies (05 Table 11, 13 R339, R346) -/

/-- The longest latency the model draws for a tier; the spec sets no upper bound for host memory. -/
def tierLat (tier : Nat) : Nat := if tier = 0 then 150 else if tier = 1 then 600 else 2 ^ 20

/-- The longest latency the model draws for a leaf's page: one of another package is reached over the fabric, whose time the spec does not
bound. -/
def leafLat (e : BitVec 128) : Nat := if packageOf (pteFrame e / 16) = 0 then tierLat (pteTier e) else 2 ^ 20

/-- A page enters the core's translation cache and, after a walk, the shared cache of its well; the oldest entries leave. -/
def State.fillTlb (s : State) (page : Nat) : State :=
  let w := s.wtlb.get [] (s.cid / 12)
  let s := if w.contains (s.core.task.asid, page) then s
    else { s with wtlb := s.wtlb.set [] (s.cid / 12) ((w ++ [(s.core.task.asid, page)]).drop ((w.length + 1) - 8192)) }
  s.onCore (fun c => { c with tlb := (c.tlb.filter (fun p => p != page) ++ [page]).drop ((c.tlb.length + 1) - 256) })

/-- The cycle from which one of the 64 walkers of the core's die is free (13 R346): each takes walks one after another. -/
def State.walkerAt (s : State) : Nat :=
  let ends := sortN ((s.walks.filter (fun w => dieOf w.1 == dieOf s.cid && decide (s.cycle < w.2.2.2))).map (·.2.2.2))
  if ends.length < 64 then s.cycle else ends.getD (ends.length - 64) s.cycle

/-- Cycles that a translation adds: none where the core's cache holds the page, 8 where its well's does, else a walk, which
waits for a walker; a walk of the core for the page that is under way serves it too (13 R346). -/
def State.walkLat (s : State) (page : Nat) : Nat × State :=
  match s.walking true page with
  | some d => (d - s.cycle, s)
  | none =>
    if s.core.tlb.contains page then (0, s)
    else if s.wellHas page then (8, s)
    else
      let (n, s) := s.drawIn 120 400
      let d := s.walkerAt + n
      (d - s.cycle, { s with walks := s.walks.filter (fun w => decide (s.cycle < w.2.2.2)) ++ [(s.cid, s.core.task.asid, page, d)] })

/-- Cycles that a translation adds, the page entering the caches. -/
def State.translate (s : State) (page : Nat) : Nat × State :=
  let (k, s) := s.walkLat page
  (k, if s.core.tlb.contains page then s else s.fillTlb page)

/-- Cycles that the translations of an access's pages add, done together (13 R346). -/
def State.translateAll (s : State) (va n : Nat) : Nat × State :=
  (List.range ((va + n - 1) / 4096 - va / 4096 + 1)).foldl (fun x k =>
    let (m, s) := x.2.translate (va / 4096 + k)
    (max x.1 m, s)) (0, s)

/-- A drawn latency of an access of `w` bytes beyond L1, with what its translation adds. -/
def State.drawLat (s : State) (va w : Nat) (e : BitVec 128) : Nat × State :=
  let (n, s) := s.drawIn 28 (leafLat e)
  let (k, s) := s.translateAll va w
  (n + k, s)

end Sys2Proof.Machine
end

