-- ==== Sys2Proof/Machine/Order.lean ====
section
/-! DEFINITION. The order among a core's accesses: which of the memory unit, the sump, the pump channels and the matrix unit an access
waits for, and what of it stands behind the sump (10 R301 to R307, R312; 01 R43). -/

namespace Sys2Proof.Machine

open Sys2Proof

/-! ### Where accesses lie -/

/-- Do two byte ranges meet? -/
def meets (a n b m : Nat) : Bool := decide (a < b + m ∧ b < a + n)

/-- Do two lists of pieces have a byte in common? -/
def piecesMeet (l m : List (Nat × Nat)) : Bool := l.any (fun p => m.any (fun q => meets p.1 p.2 q.1 q.2))

/-- Physical pieces of a run of bytes, by address and length. Two addresses that map to one byte are one location (13 R340). -/
abbrev Where := Nat → Nat → List (Nat × Nat)

/-- Physical pieces of a run of bytes of the core's space, whether or not it may be written; none where it is not mapped. -/
def State.whereIs (s : State) : Where := fun va n =>
  match (s.space s.core.task.asid).xlat none va n false with
  | .ok l _ _ => l
  | .fault _ => []

/-- The parts of physical pieces that hold `n` bytes from an offset on. -/
def cutPieces : List (Nat × Nat) → Nat → Nat → List (Nat × Nat)
  | [], _, _ => []
  | (a, m) :: t, off, n =>
    if n = 0 then []
    else if off < m then (a + off, min (m - off) n) :: cutPieces t 0 (n - min (m - off) n)
    else cutPieces t (off - m) n

/-- Pieces without their first bytes. -/
def skipBytes (l : List (Nat × Nat)) (off : Nat) : List (Nat × Nat) := cutPieces l off (l.foldl (fun a p => a + p.2) 0)

/-- Does an access of the memory unit meet a run of bytes, by virtual address or in physical memory? -/
def MuItem.touches (i : MuItem) (va width : Nat) (phys : List (Nat × Nat)) : Bool := meets i.va i.width va width || piecesMeet i.phys phys

/-- Does an entry of the sump? -/
def Sump.touches (e : Sump) (ph : Where) (va width : Nat) (phys : List (Nat × Nat)) : Bool :=
  meets e.va e.width va width || piecesMeet (ph e.va e.width) phys

/-- Do runs of bytes of the core's space? -/
def runsMeet (ph : Where) (l : List (Nat × Nat)) (va n : Nat) (phys : List (Nat × Nat)) : Bool :=
  l.any (fun r => meets r.1 r.2 va n || piecesMeet (ph r.1 r.2) phys)

/-- Is the item a fence? -/
def MuItem.isFence (i : MuItem) : Bool := match i.kind with | .fence _ _ => true | _ => false

/-- Does the access return a value to a register? -/
def MuItem.returns (i : MuItem) : Bool :=
  match i.kind with
  | .load _ | .loadW _ _ _ | .loadH _ | .accres _ _ _ | .accrel _ _ _ => true
  | .atomic _ _ d _ => d != 0
  | _ => false

/-! ### What a pump command has still to access (01 R18, 09 R272, R277) -/

/-- The index of an absent unit. -/
def noIndex : Nat := 0xFFFFFFFF

/-- Bytes of a row of 64 elements. -/
def rowBytes (fmt : Nat) : Nat := 8 * (fmtOf fmt).width

/-- Virtual address of byte `p` of a region, and the bytes left in its run. -/
def regionAt (base : Int) (e0 e1 : Nat) (s1 s2 : Int) (p : Nat) : Nat × Nat :=
  let q := p / e0
  (wrapN 64 (base + (q % e1 : Nat) * s1 + (q / e1 : Nat) * s2 + (p % e0 : Nat)), e0 - p % e0)

/-- Bytes `lo` to `hi - 1` of a region, cut at its runs. -/
def regionRuns (base : Int) (e0 e1 : Nat) (s1 s2 : Int) (lo hi : Nat) : List (Nat × Nat) :=
  if hi ≤ lo then []
  else (List.range (ceilDiv hi e0 - lo / e0)).map (fun k =>
    let a := max lo ((lo / e0 + k) * e0)
    ((regionAt base e0 e1 s1 s2 a).1, min hi ((lo / e0 + k + 1) * e0) - a))

/-- The unit an index names (09 R277). -/
def End.unit (e : End) (x : Nat) : Nat :=
  match e with
  | .mem base _ _ _ s1 _ _ => wrapN 64 (base + x * s1)
  | _ => 0

/-- Bytes of a unit. -/
def End.unitLen : End → Nat
  | .mem _ e0 _ _ _ _ _ => e0
  | _ => 0

/-- The side in memory? -/
def End.isMem : End → Bool
  | .mem _ _ _ _ _ _ _ => true
  | _ => false

/-- Does a command that still accesses memory access memory at all? -/
def PumpCmd.inMemory (k : PumpCmd) : Bool :=
  !(k.gone || k.follow || k.marker.isSome || k.nr == 0 || k.copies == 0 || k.fin) && (k.src.isMem || k.dst.isMem)

/-- Does an index list address the side? -/
def PumpCmd.listed (k : PumpCmd) (dst : Bool) : Bool := if dst then k.op == 2 || (k.op == 1 && k.mode == 1) else k.op == 1

/-- Entries of the list that address a side, of the units from `pos` on. -/
def PumpCmd.indices (k : PumpCmd) (dst : Bool) (pos : Nat) : List Nat :=
  if k.op = 1 ∧ k.mode = 1 then (tab k.nr (fun j => k.list.getD (2 * j + (if dst then 1 else 0)) 0)).drop pos else k.list.drop pos

/-- Has the unit or row that comes next been read already? -/
def PumpCmd.inHand (k : PumpCmd) : Bool := !k.hand.isEmpty || (k.dst.isMem && !k.buf.isEmpty)

/-- Runs of bytes that a command has still to read, or to write. Of a side whose units a list names that has not been read, any of its
units. -/
def PumpCmd.todo (k : PumpCmd) (dst : Bool) : List (Nat × Nat) :=
  let e := if dst then k.dst else k.src
  match e with
  | .mem base e0 e1 e2 s1 s2 _ =>
    let units (l : List Nat) : List (Nat × Nat) := (l.filter (fun x => x != noIndex)).map (fun x => (e.unit x, e0))
    let pos := if k.inHand then k.pos + 1 else k.pos
    let done := if dst then k.out else k.got.length
    let all : List (Nat × Nat) :=
      if k.listed dst then
        if !k.begun then (List.range e2).flatMap (fun (p : Nat) => (List.range e1).map (fun (q : Nat) => (wrapN 64 (base + q * s1 + p * s2), e0)))
        else if !dst then (if k.mode = 1 then units (k.indices false k.pos) else units (k.indices false pos))
        else if k.mode = 1 then units (k.units.map (·.1) ++ k.indices true k.pos)
        else units (k.indices true k.pos)
      else if k.op = 1 then regionRuns base e0 e1 s1 s2 (k.pos * k.src.unitLen) (k.nr * k.src.unitLen)
      else if k.op = 2 then regionRuns base e0 e1 s1 s2 (pos * k.dst.unitLen) (k.nr * k.dst.unitLen)
      else if !dst then regionRuns base e0 e1 s1 s2 (pos * rowBytes k.fs) (k.nr * rowBytes k.fs)
      else
        let c := k.pos / k.nr
        (tab (k.copies - c) (fun j =>
          regionRuns (base + (c + j : Nat) * k.dist) e0 e1 s1 s2 (if j = 0 then k.pos % k.nr * rowBytes k.fd else 0) (k.nr * rowBytes k.fd))).flatten
    skipBytes all done
  | _ => []

/-- Has a command that still accesses memory to read, or to write, bytes of a run? -/
def PumpCmd.touches (k : PumpCmd) (ph : Where) (dst : Bool) (va n : Nat) (phys : List (Nat × Nat)) : Bool :=
  k.inMemory && runsMeet ph (k.todo dst) va n phys

/-- Accepted commands of all channels. -/
def Core.commands (c : Core) : List PumpCmd := c.chans.toList.flatMap (fun h => h.queue)

/-- A channel. -/
def Core.chan (c : Core) (ch : Nat) : Chan := c.chans.toList.getD ch {}

/-! ### Order (10 R301 to R305, R312) -/

/-- Does a fence not yet done whose mask holds both classes stand between two accesses? -/
def Core.tied (c : Core) (a b sa sb : Nat) : Bool :=
  c.mu.any (fun f => match f.kind with
    | .fence m _ => m.testBit a && m.testBit b && decide (sa < f.seq ∧ f.seq < sb)
    | _ => false)

/-- Must an access wait for earlier accesses of its core in the memory unit or of its pump commands? Those of its class; strong
ones to its location where it is strong; those a fence ties it to; of pump commands those under the last two (10 R303 to
R305). -/
def Core.behind (c : Core) (ph : Where) (seq cls : Nat) (strong : Bool) (va width : Nat) (phys : List (Nat × Nat)) : Bool :=
  c.mu.any (fun j =>
    decide (j.seq < seq) && !j.isFence &&
    (j.cls == cls || (strong && j.strong && j.touches va width phys) || c.tied j.cls cls j.seq seq)) ||
  c.commands.any (fun k =>
    decide (k.seq < seq) && ((k.inMemory && c.tied k.cls cls k.seq seq) ||
      (strong && (k.touches ph false va width phys || k.touches ph true va width phys))))

/-- Must it wait for earlier entries of the sump? -/
def Core.behindSump (c : Core) (ph : Where) (seq cls : Nat) (strong : Bool) (va width : Nat) (phys : List (Nat × Nat)) : Bool :=
  c.sump.any (fun e =>
    decide (e.seq < seq) && (e.cls == cls || (strong && e.strong && e.touches ph va width phys) || c.tied e.cls cls e.seq seq))

/-- Must an access wait for earlier accesses of its core? -/
def Core.blocked (c : Core) (ph : Where) (seq cls : Nat) (strong : Bool) (va width : Nat) (phys : List (Nat × Nat)) : Bool :=
  c.behind ph seq cls strong va width phys || c.behindSump ph seq cls strong va width phys

/-- Does the sump still hold the entry whose data a load was given? -/
def Core.holdsSrc (c : Core) (i : MuItem) : Bool :=
  match i.src with
  | some n => c.sump.any (fun e => e.seq == n)
  | none => false

/-- Does an access that is no fence still wait for earlier ones? A load with the data of a sump entry does not wait for the
sump. -/
def Core.waits (c : Core) (ph : Where) (i : MuItem) : Bool :=
  c.behind ph i.seq i.cls i.strong i.va i.width i.phys ||
  (!c.holdsSrc i && c.behindSump ph i.seq i.cls i.strong i.va i.width i.phys)

/-- Has every access that a fence or a launch waits for been performed? -/
def Core.quietBefore (c : Core) (seq mask : Nat) : Bool :=
  !(c.mu.any (fun j => decide (j.seq < seq) && !j.isFence && mask.testBit j.cls)) &&
  !(c.sump.any (fun e => decide (e.seq < seq) && mask.testBit e.cls)) &&
  !(c.commands.any (fun k => decide (k.seq < seq) && k.inMemory && mask.testBit k.cls))

/-- Must the command's memory accesses wait for earlier accesses and commands that a fence ties to it? (10 R304, R305) -/
def Core.pumpBlocked (c : Core) (k : PumpCmd) : Bool :=
  k.inMemory &&
  (c.mu.any (fun j => decide (j.seq < k.seq) && !j.isFence && c.tied j.cls k.cls j.seq k.seq) ||
   c.sump.any (fun e => decide (e.seq < k.seq) && c.tied e.cls k.cls e.seq k.seq) ||
   c.commands.any (fun j => decide (j.seq < k.seq) && j.inMemory && c.tied j.cls k.cls j.seq k.seq))

/-- Could command `j` of channel `h` read now: no fence and no command before it on its channel keeps it from memory? A later command
may then read the same bytes before it does, since it may be taken to have read them too (10 R303 item 2, R305). -/
def Core.mayRead (c : Core) (h : Nat) (j : PumpCmd) : Bool :=
  !c.pumpBlocked j && !(c.chan h).queue.any (fun i => decide (i.seq < j.seq) && i.inMemory)

/-- Must an access of a command to a run of bytes wait for earlier accesses of its core to the same bytes: a strong access of the
memory unit or the sump; a command of another channel that has still to write them, or to read what it writes (10 R303
item 2)? -/
def Core.pumpWaits (c : Core) (ph : Where) (ch : Nat) (k : PumpCmd) (write : Bool) (va n : Nat) : Bool :=
  let phys := ph va n
  c.mu.any (fun j => decide (j.seq < k.seq) && !j.isFence && j.strong && j.touches va n phys) ||
  c.sump.any (fun e => decide (e.seq < k.seq) && e.strong && e.touches ph va n phys) ||
  (List.range 8).any (fun h => h != ch && (c.chan h).queue.any (fun j =>
    decide (j.seq < k.seq) && (j.touches ph true va n phys || ((write || !c.mayRead h j) && j.touches ph false va n phys))))

/-- Does the command write a slot that a routine called before it still holds? (09 R269, 08 R244) -/
def Core.slotHeld (c : Core) (k : PumpCmd) : Bool :=
  c.mat.queue.any (fun m => decide (m.seq < k.seq) && k.slots.any (fun o => m.slots.contains o))

/-- Does the call start only after a pump command: one issued before it that writes one of its slots or tiles? (08 R244) -/
def Call.follows (k : Call) (j : PumpCmd) : Bool :=
  decide (j.seq < k.seq) && (j.slots.any (fun o => k.slots.contains o) || j.wtiles.any (fun t => k.tiles.contains t))

/-! ### Rows in flight (10 R307) -/

/-- Does a result in flight write this row of the tile, or change its entry? -/
def Write.hits (t r : Nat) : Write → Bool
  | .elem t' i _ => t' == t && i / 64 % 16 == r
  | .rows t' _ _ => t' == t
  | .tile (.sym t' _ _) | .tile (.alloc t' _ _ _ _) => t' == t
  | .vec v => (match v.dest with
    | .rows l => l.contains (t, r)
    | .sym t' _ => t' == t
    | .discard => false)
  | _ => false

/-- Does one of the results write the row, issued before the tile's grant? -/
def Core.hitBy (c : Core) (l : List Pend) (t r : Nat) : Bool := l.any (fun p => decide (p.seq < (c.tile t).gseq) && p.w.hits t r)

/-- A core write to the row that issued before the tile's grant and is not yet visible: an engine's access waits for it,
also where a trap or a pre-emption has captured it. -/
def Core.rowBusy (c : Core) (t r : Nat) : Bool := c.hitBy (c.flight ++ c.captured ++ c.halted ++ c.resume.toList) t r

/-- Loads that a halt has abandoned and that still wait (13 R353). -/
def Core.heldLoads (c : Core) : Nat := (c.mu.filter (fun i => i.held)).length

/-! ### What stands behind the sump (01 R43, 10 R312) -/

/-- The core as far as it holds what may wait for TRET: its sump, and of the rest what the list names. -/
def Core.stuckPart (c : Core) (l : List Nat) : Core :=
  { c with mu := c.mu.filter (fun j => j.isFence || l.contains j.seq),
           chans := c.chans.map (fun h => { h with queue := h.queue.filter (fun k => l.contains k.seq) }),
           mat := { c.mat with queue := c.mat.queue.filter (fun k => l.contains k.seq) } }

/-- Does a captured result, which TRET lets go on, write a row of the tile? -/
def Core.captureHits (c : Core) (t : Nat) : Bool :=
  (List.range 16).any (c.hitBy (c.captured ++ c.resume.toList) t)

/-- Does a command stand behind the sump, behind what the list names, or behind a captured result? -/
def Core.stuckCmd (c : Core) (ph : Where) (l : List Nat) (ch : Nat) (k : PumpCmd) : Bool :=
  let p := c.stuckPart l
  (p.chan ch).queue.any (fun j => decide (j.seq < k.seq)) ||
  (match k.marker with
    | some (_, _, ids) => ids.isEmpty && !k.begun && !p.quietBefore k.seq 0xFFFF
    | none => (!k.begun && (p.slotHeld k || p.pumpBlocked k)) || k.tiles.any c.captureHits ||
      (k.inMemory && ((k.todo false).any (fun r => p.pumpWaits ph ch k false r.1 r.2) || (k.todo true).any (fun r => p.pumpWaits ph ch k true r.1 r.2))))

/-- Issue numbers of the accesses, commands and calls that stand behind the sump or a captured result, directly or behind one another:
what they wait for may itself wait for TRET. -/
def Core.stalled (c : Core) (ph : Where) : List Nat :=
  (sortN (c.mu.map (·.seq) ++ c.commands.map (·.seq) ++ c.mat.queue.map (·.seq))).foldl (fun l n =>
    if c.mu.any (fun i => i.seq == n && !i.isFence && (c.stuckPart l).waits ph i) ||
        (List.range 8).any (fun ch => (c.chan ch).queue.any (fun k => k.seq == n && c.stuckCmd ph l ch k)) ||
        c.mat.queue.any (fun k => k.seq == n && (c.mat.queue.any (fun j => decide (j.seq < n) && l.contains j.seq) ||
          (c.stuckPart l).commands.any k.follows || k.tiles.any c.captureHits))
    then l ++ [n] else l) []

/-- Does an access under way owe a register its value? One that stands behind the sump has not begun and delays only the readers of its
destination (10 R312). -/
def Core.owes (c : Core) (ph : Where) : Bool := c.mu.any (fun i => i.returns && !(c.stalled ph).contains i.seq)

/-- Does the handler's first bundle still wait for accesses that return a value? (01 R43) -/
def Core.draining (c : Core) (ph : Where) : Bool := c.iss.drain && c.owes ph

/-! ### Weak loads after a fence (10 R303 item 4, 13 R341) -/

/-- Is an access or command that precedes an issue number still to be performed? Entries of the sump hold accesses of other classes only
by a fence (10 R312), and so does what stands behind them: neither counts. -/
def Core.openBefore (c : Core) (ph : Where) (seq : Nat) : Bool :=
  (c.mu.any (fun j => decide (j.seq < seq) && !j.isFence) || c.commands.any (fun k => decide (k.seq < seq) && k.inMemory)) &&
  (let l := c.stalled ph
   c.mu.any (fun j => decide (j.seq < seq) && !j.isFence && !l.contains j.seq) ||
   c.commands.any (fun k => decide (k.seq < seq) && k.inMemory && !l.contains k.seq))

/-- Must a weak load wait, since an event before a FENCE of well scope or wider that holds its class, of whatever class, is still to come: a
write that is ordered before that event must not be missed (10 R303 item 4)? -/
def Core.awaits (c : Core) (ph : Where) (i : MuItem) : Bool :=
  !i.strong && (match i.kind with | .load _ | .loadW _ _ _ | .loadH _ => true | _ => false) &&
  c.fences.any (fun f => decide (f.1 < i.seq) && f.2.testBit i.cls && c.openBefore ph f.1)

/-- Fences of well scope or wider whose earlier events are all performed: the lines of L1 serve their classes no more. -/
def Core.settleOld (c : Core) (ph : Where) : Core :=
  let gone := c.fences.filter (fun f => !c.openBefore ph f.1)
  if gone.isEmpty then c
  else { c with fences := c.fences.filter (fun f => c.openBefore ph f.1),
                l1old := c.l1old ++ gone.flatMap (fun f => c.l1.map (fun e => (f.2, e.1))) }

/-- May a line of L1 serve a class? -/
def Core.servesClass (c : Core) (n cls : Nat) : Bool := !c.l1old.any (fun o => o.2 == n && o.1.testBit cls)

end Sys2Proof.Machine
end

