-- ==== Sys2Proof/Machine/MemUnit.lean ====
section
/-! DEFINITION. The memory unit of a core: the order in which its accesses are performed, L1, the sump, the performing of
an access at its home slice, exact accumulators (01 R43, R44; 05 R153 to R163; 10 R300 to R315; 13 R341, R349, R350). -/

namespace Sys2Proof.Machine

open Sys2Proof

/-! ### What may be performed -/

/-- May an item be performed now? -/
def Core.mayPerform (c : Core) (ph : Where) (i : MuItem) : Bool :=
  match i.kind with
  | .fence m _ => c.quietBefore i.seq m
  | .launch => c.quietBefore i.seq 0xFFFF
  | _ => !i.held && !c.waits ph i && !c.awaits ph i

/-- Fences whose earlier accesses are all performed leave; one of well scope or wider empties L1 (05 R163). -/
def Core.settleFences (c : Core) : Core :=
  let isDone (i : MuItem) : Bool := match i.kind with | .fence m _ => c.quietBefore i.seq m | _ => false
  let gone := c.mu.filter isDone
  if gone.isEmpty then c
  else
    { c with mu := c.mu.filter (fun i => !isDone i),
             l1 := if gone.any (fun i => match i.kind with | .fence _ sc => decide (1 ≤ sc) | _ => false) then [] else c.l1 }

/-- Fences settled after an access or a command of the core has been performed. -/
def State.settleOrder (s : State) : State := s.onCore (fun c => c.settleFences.settleOld s.whereIs)

/-! ### L1 (05 R154, 13 R341) -/

/-- The lines that physical pieces touch. -/
def linesOf (l : List (Nat × Nat)) : List Nat :=
  dedupN (l.flatMap (fun p => (List.range ((p.1 + p.2 + 63) / 64 - p.1 / 64)).map (fun k => p.1 / 64 + k)))

/-- A line held by L1. -/
def Core.line (c : Core) (n : Nat) : Option (BitVec 512) := (c.l1.find? (fun e => e.1 == n)).map (·.2)

/-- A line that L1 holds for a class: one from before an event that a fence of the class follows serves it no more (10 R303 item 4). -/
def Core.lineFor (c : Core) (cls n : Nat) : Option (BitVec 512) := if c.servesClass n cls then c.line n else none

/-- Does L1 hold every line of an access of a class? -/
def Core.hitsL1 (c : Core) (cls : Nat) (l : List (Nat × Nat)) : Bool := (linesOf l).all (fun n => (c.lineFor cls n).isSome)

/-- Lines that L1 holds. -/
def Core.l1Size (c : Core) : Nat := 2048 * c.r.l1cfg

/-- The bytes of a weak load of a class: from the lines L1 holds for it, else from memory. -/
def State.weakRead (s : State) (cls : Nat) (l : List (Nat × Nat)) : List Byte :=
  l.flatMap (fun p => tab p.2 (fun k =>
    let a := p.1 + k
    match s.core.lineFor cls (a / 64) with
    | some v => fld v (8 * (a % 64)) 8
    | none => s.readByte a))

/-- Offsets and lengths of the stretches of an access between multiples of `m` bytes. -/
def cutAt (m va n : Nat) : List (Nat × Nat) :=
  (List.range ((va + n - 1) / m - va / m + 1)).map (fun k =>
    let lo := max va ((va / m + k) * m)
    (lo - va, min (va + n) ((va / m + k + 1) * m) - lo))

/-- The format of AFADD, ACCRES and ACCREL. -/
def accFmt (f : Nat) : Fmt := if f = 0 then .fp32 else if f = 1 then .fp64 else .bf16
/-- Bytes of an element. -/
def accSize (f : Nat) : Nat := (accFmt f).width / 8

/-- The single-copy atomic parts of an access (05 R153, 10 R298, 13 R345): the targets of ACCRES and ACCREL; the elements of a transposing alias page; 8 bytes each of
32; on either side of a 64-byte boundary. Mark: DESIGN CHOICE (log 49): the spec does not list the parts of LDH and STH. -/
def accessParts (kind : MuKind) (va n : Nat) (alias_ : Option Nat) : List (Nat × Nat) :=
  match kind, alias_ with
  | .load _, some m | .loadW _ _ _, some m | .store, some m => cutAt (max m 1) va n
  | .loadH _, _ => cutAt 8 va n
  | .load _, none | .loadW _ _ _, none => cutAt 64 va n
  | .store, none => if n = 32 then cutAt 8 va n else cutAt 64 va n
  | .accres f _ _, _ | .accrel f _ _, _ => if 16384 < n then [(0, 0)] else tab (n / accSize f) (fun k => (k * accSize f, accSize f))
  | _, _ => [(0, n)]

/-- L1 with the lines of an access filled from memory, the oldest lines leaving first. -/
def State.fillL1 (s : State) (cls : Nat) (l : List (Nat × Nat)) : State :=
  let new := (linesOf l).filter (fun n => (s.core.lineFor cls n).isNone)
  let add : List (Nat × BitVec 512) := new.map (fun n => (n, BitVec.ofNat 512 (leNat (Sparse.getMany memDefault s.mem (64 * n) 64))))
  s.onCore (fun c =>
    let all := c.l1.filter (fun e => !new.contains e.1) ++ add
    { c with l1 := all.drop (all.length - c.l1Size), l1old := c.l1old.filter (fun o => !new.contains o.2) })

/-- The core's own copies of the lines it writes. -/
def Core.writeL1 (c : Core) : List (Nat × Nat) → List Byte → Core
  | [], _ => c
  | (a, n) :: t, bs =>
    let upd (e : Nat × BitVec 512) : Nat × BitVec 512 :=
      (e.1, (List.range n).foldl (fun v k =>
        if (a + k) / 64 = e.1 then setFld v (8 * ((a + k) % 64)) (bs.getD k 0) else v) e.2)
    Core.writeL1 { c with l1 := c.l1.map upd } t (bs.drop n)

/-! ### Uncorrectable words (17 R403) -/

/-- The uncorrectable word an access meets. -/
def State.badWord (s : State) (l : List (Nat × Nat)) : Option (Nat × Nat) :=
  s.unc.find? (fun u => l.any (fun p => meets u.1 u.2 p.1 p.2))

/-- Does a write cover all of a word? -/
def covers (l : List (Nat × Nat)) (u : Nat × Nat) : Bool :=
  (List.range u.2).all (fun k => l.any (fun p => decide (p.1 ≤ u.1 + k ∧ u.1 + k < p.1 + p.2)))

/-- A write discarded for an uncorrectable word it covers only in part. -/
def State.partWord (s : State) (l : List (Nat × Nat)) : Option (Nat × Nat) :=
  s.unc.find? (fun u => l.any (fun p => meets u.1 u.2 p.1 p.2) && !covers l u)

/-- Bytes written to physical memory; words wholly covered are good again. -/
def State.storeBytes (s : State) (l : List (Nat × Nat)) (bs : List Byte) : State :=
  let s := s.writePieces l bs
  { s with unc := s.unc.filter (fun u => !covers l u) }

/-- Bytes that Shogiwald or the host writes to physical memory; a word that they cover only in part stays as it is, and bad (17 R403). -/
def State.putBytes (s : State) (l : List (Nat × Nat)) (bs : List Byte) : State :=
  let part := s.unc.filter (fun u => l.any (fun p => meets u.1 u.2 p.1 p.2) && !covers l u)
  part.foldl (fun (t : State) (u : Nat × Nat) => t.writePieces [u] (s.readPieces [u])) (s.storeBytes l bs)

/-! ### Exact accumulators (05 R158 to R162) -/

/-- Entries a target takes at its home slice. -/
def accEntries (f : Nat) : Nat := if f = 1 then 4 else 1

/-- A contribution added with no rounding; the sum counts units of 2^-1074. -/
def AccT.add (t : AccT) (v : BinVal) : AccT :=
  match v with
  | .nan g => { t with nan := true, snan := t.snan || g, negz := false }
  | .inf s => { t with pinf := t.pinf || !s, ninf := t.ninf || s, negz := false }
  | .fin s m e => { t with sum := t.sum + signed s m * ((2 ^ (e + 1074).toNat : Nat) : Int), negz := t.negz && s && m == 0 }

/-- The one rounding of a read-out (05 R161). -/
def AccT.round (t : AccT) : Res :=
  let f := accFmt t.fmt
  if t.nan || (t.pinf && t.ninf) then (f.nanBits, fNV)
  else if t.pinf || t.ninf then (f.signBits t.ninf + f.infBits, 0)
  else if t.sum = 0 then (f.signBits t.negz, 0)
  else f.round .rne (decide (t.sum < 0)) t.sum.natAbs (-1074)

/-- A target that holds nothing yet. -/
def AccT.empty (job va pa f : Nat) : AccT :=
  { job := job, va := va, pa := pa, fmt := f, sum := 0, nan := false, snan := false, pinf := false, ninf := false, negz := true }

/-- Accumulator entries taken at a slice. -/
def State.entriesAt (s : State) (slice : Nat) : Nat :=
  (s.accs.filter (fun t => Config.homeSlice (t.pa / 128) == slice)).foldl (fun n t => n + accEntries t.fmt) 0

/-- The ranges that a core's copy of the job's list holds: those reserved, until their release is answered (05 R159, R161). -/
def Job.listed (j : Job) : List (Nat × Nat × Nat) := j.ranges ++ j.giving

/-- Every bound core of a job with its list as it now is (05 R159). -/
def State.shareRanges (s : State) (job : Nat) : State :=
  match s.job job with
  | some j => s.mapCores (fun _ c => if c.task.phase ≠ .idle ∧ c.task.job = job then { c with ranges := j.listed } else c)
  | none => s

/-- The address of each byte of physical pieces. -/
def byteAddrs (l : List (Nat × Nat)) : List Nat := l.flatMap (fun p => tab p.2 (fun i => p.1 + i))

/-- Has every home slice of the targets, listed with repeats, enough free entries of its 128? (13 R357) -/
def State.entriesFit (s : State) (f : Nat) (need : List Nat) : Bool :=
  (dedupN need).all (fun sl =>
    decide (s.entriesAt sl + accEntries f * (need.filter (fun x => x == sl)).length ≤ 128))

/-- May a range be reserved, as far as its bounds and the job's ranges tell? (05 R159) Mark: DESIGN CHOICE (log 55): a range that begins
below 2^48 and ends above it, whose bytes no address names, is among those that cannot be reserved. -/
def State.accresForm (s : State) (job f va len : Nat) : Bool :=
  match s.job job with
  | none => false
  | some j =>
    let n := accSize f
    let held := j.ranges ++ j.taking ++ j.giving
    va % n == 0 && decide (va + len ≤ 2 ^ 48) && len % n == 0 && decide (2 ≤ len ∧ len ≤ 16384) &&
    !(held.any (fun r => meets r.1 r.2.1 va len)) && decide (held.length < 16)

/-- May a range be reserved, with free entries at every home slice, and none of it on another package (05 R160, 13 R357)? -/
def State.accresOk (s : State) (job f va len : Nat) (phys : List (Nat × Nat)) : Bool :=
  let n := accSize f
  s.accresForm job f va len && phys.all (fun p => packageOf (p.1 / 65536) == 0) && s.entriesFit f (tab (len / n) (fun k => Config.homeSlice ((byteAddrs phys).getD (k * n) 0 / 128)))

/-- The entries of a range taken at its home slices, whole. -/
def State.accTake (s : State) (job f va len : Nat) (phys : List (Nat × Nat)) : State :=
  let n := accSize f
  { s with accs := s.accs ++ tab (len / n) (fun k => AccT.empty job (va + k * n) ((byteAddrs phys).getD (k * n) 0) f) }.modJob job
    (fun j => { j with taking := j.taking ++ [(va, len, f)] })

/-- One target loaded with the exact value of its memory, which is left as it is. -/
def State.accLoad (s : State) (job f va : Nat) (l : List (Nat × Nat)) : State :=
  let v := (accFmt f).decode (leNat (s.readPieces l))
  { s with accs := s.accs.map (fun t => if t.job = job ∧ t.va = va ∧ t.fmt = f then t.add v else t) }

/-- An ACCRES in progress given up: its entries are free again. -/
def State.accDrop (s : State) (job f va len : Nat) : State :=
  if (match s.job job with | some j => j.taking.contains (va, len, f) | none => false) then
    { s with accs := s.accs.filter (fun t => !(t.job == job && decide (va ≤ t.va ∧ t.va < va + len))) }.modJob job
      (fun j => { j with taking := j.taking.filter (fun r => r != (va, len, f)) })
  else s

/-- One floating add at the home slice: exact into a target still reserved in that format, else rounded to
nearest-even (05 R160, R162). -/
def State.addAt (s : State) (job f va : Nat) (phys : List (Nat × Nat)) (bits : Nat) (exact : Bool) : State × Flags :=
  match if exact then s.accs.find? (fun t => t.job == job && t.va == va && t.fmt == f) else none with
  | some t =>
    ({ s with accs := s.accs.map (fun x => if x = t then t.add ((accFmt f).decode bits) else x) }, 0)
  | none =>
    let r := (accFmt f).add .rne (leNat (s.readPieces phys)) bits
    (s.storeBytes phys (leBytes (accSize f) r.1), r.2)

/-- An atomic's new value from the old one (05 Table 12), in `w` bits: 0 add, 1 maximum, 2 minimum, 3 exchange,
4 compare and swap. -/
def atomicNew (k : Nat) (u : Bool) (w old b cmp : Nat) : Nat :=
  let b := b % 2 ^ w
  let less (x y : Nat) : Bool := if u then decide (x < y) else decide (sgn w x < sgn w y)
  match k with
  | 0 => (old + b) % 2 ^ w
  | 1 => if less old b then b else old
  | 2 => if less b old then b else old
  | 3 => b
  | _ => if old = cmp % 2 ^ w then b else old

/-! ### Performing an access -/

/-- The answer of an access: its writes take effect; a leader's go to its checker 2 cycles later, and to the logs
(17 R407, R409). -/
def State.answer (s : State) (i : MuItem) (l : List Write) : State :=
  let lead := s.leads
  let s := s.onCore (fun c => l.foldl (fun c w => { c with r := c.r.take w }.late i.seq w) c)
  if lead then
    let s := (s.onCore (fun c => l.foldl (fun c w => c.sign w.sig) c)).onPair (fun c => c.logRet i.seq l)
    let p := peerOf s.cid
    let k := s.coreAt p
    s.putCore p { k with mu := k.mu.filter (fun x => x.seq != i.seq),
                         flight := k.flight ++ l.map (fun w => { due := s.cycle + 2, seq := i.seq, slot := 0, w := w, ans := true }) }
  else s

/-- The physical pieces of an access as they are now: those found at issue, or for a load with the data of a sump entry that has
left those of its mapping. -/
def State.piecesOf (s : State) (i : MuItem) : List (Nat × Nat) :=
  if i.src.isSome then
    (match (s.space s.core.task.asid).xlat none i.va i.width false with
      | .ok l _ _ => l
      | .fault _ => i.phys)
  else i.phys

/-- The bytes that a load's part reads: the sump's, L1's, or memory's. -/
def State.partBytes (s : State) (i : MuItem) (p : Nat × Nat) : List Byte :=
  let l := cutPieces (s.piecesOf i) p.1 p.2
  match i.fwd with
  | some v => if s.core.holdsSrc i || i.src.isNone then ((leBytes i.width v).drop p.1).take p.2
    else s.readPieces l
  | none => if i.strong || i.bypass then s.readPieces l else s.weakRead i.cls l

/-- A load with a part's bytes put into its data. -/
def MuItem.got (i : MuItem) (p : Nat × Nat) (bs : List Byte) : MuItem :=
  { i with data := i.data + leNat bs * 2 ^ (8 * p.1), left := i.left.erase p }

/-- The part of an access that is performed next, by a free value where several remain. -/
def State.nextPart (s : State) (i : MuItem) : (Nat × Nat) × State :=
  match i.left with
  | [] => ((0, i.width), s)
  | [p] => (p, s)
  | p :: t => let (k, s) := s.draw; ((p :: t).getD (k % (t.length + 1)) p, s)

/-- An access of which parts remain stays in the memory unit; the next part is performed up to 600 cycles later. -/
def State.later (s : State) (i : MuItem) : State :=
  let (n, s) := s.drawIn 0 600
  s.onCore (fun c => { c with mu := c.mu.map (fun x => if x.seq = i.seq then { i with ready := s.cycle + n } else x) })

/-- A part of a load: the lines of a weak LD or LDW enter L1, unless it passes L1 by. -/
def State.loadPart (s : State) (i : MuItem) (fills : Bool) (fin : State → Nat → State) : State :=
  let (p, s) := s.nextPart i
  let j := i.got p (s.partBytes i p)
  let s := if fills && !i.strong && !i.bypass && i.fwd.isNone then s.fillL1 i.cls (cutPieces i.phys p.1 p.2) else s
  if j.left.isEmpty then fin (s.onCore (fun c => { c with mu := c.mu.filter (fun x => x.seq != i.seq) })) j.data
  else s.later j

/-- A part of a store; the last one leaves the words it covers good. -/
def State.storePart (s : State) (i : MuItem) : State :=
  let (p, s) := s.nextPart i
  let l := cutPieces i.phys p.1 p.2
  let bs := ((leBytes i.width i.data).drop p.1).take p.2
  let s := (s.storeBytes l bs).onCore (fun c => c.writeL1 l bs)
  let left := i.left.erase p
  if left.isEmpty then
    { s.onCore (fun c => { c with mu := c.mu.filter (fun x => x.seq != i.seq) }) with unc := s.unc.filter (fun u => !covers i.phys u) }
  else s.later { i with left := left }

/-- An entry put into the sump in issue order. -/
def insSump (e : Sump) : List Sump → List Sump
  | [] => [e]
  | x :: t => if e.seq < x.seq then e :: x :: t else x :: insSump e t

/-- An exact-accumulator operation of which parts remain, or its answer, which comes at its cycle. -/
def State.accLater (s : State) (i : MuItem) : State :=
  let (n, s) := if i.left.isEmpty then (i.due - s.cycle, s) else s.drawIn 0 (i.due - s.cycle)
  s.onCore (fun c => { c with mu := c.mu.map (fun x => if x.seq = i.seq then { i with ready := s.cycle + n } else x) })

/-- Is none of the targets of an exact-accumulator operation done yet? Of a range that none can be as long as, there are none. -/
def MuItem.untouched (i : MuItem) (f len : Nat) : Bool := decide (16384 < len) || i.left.length * accSize f == len

/-- The answer of an exact-accumulator operation: every copy of the job's list holds its outcome, X[d] the number of targets. -/
def State.accAnswer (s : State) (i : MuItem) (f len : Nat) (d : XReg) (l : List Write) : State :=
  ((s.onCore (fun c => { c with mu := c.mu.filter (fun x => x.seq != i.seq) })).shareRanges s.core.task.job).answer i
    (.x d (BitVec.ofNat 64 (len / accSize f)) :: l)

/-- ACCRES at the home slices (05 R159; 13 R357): the entries of every target are taken together, or it fails; then each target is loaded
at its slice, an event of its own (10 R298, R315); the answer. -/
def State.performAccres (s : State) (i : MuItem) (f : Nat) (d : XReg) (len : Nat) : State :=
  let job := s.core.task.job
  match i.left with
  | [] =>
    (s.modJob job (fun j => if j.taking.contains (i.va, len, f) then
      { j with taking := j.taking.filter (fun r => r != (i.va, len, f)), ranges := j.ranges ++ [(i.va, len, f)] } else j)).accAnswer i f len d []
  | _ =>
    if i.untouched f len && !s.accresOk job f i.va len i.phys then s.accLater { i with left := [], kind := .accres f d 0 }
    else
      let s := if i.untouched f len then s.accTake job f i.va len i.phys else s
      let (p, s) := s.nextPart i
      (s.accLoad job f (i.va + p.1) (cutPieces i.phys p.1 p.2)).accLater { i with left := i.left.erase p }

/-- One target read out: rounded once into memory, its entries freed. A read-out that covers only a part of an uncorrectable word is
discarded and answered by an abort completion, which interrupts Shogiwald and is reported, once for an ACCREL, like a store's (17
R403, R404). -/
def State.readOut (s : State) (i : MuItem) (t : AccT) : State × Flags :=
  let r := t.round
  let n := accSize t.fmt
  let s := { s with accs := s.accs.erase t }
  match s.partWord [(t.pa, n)] with
  | none =>
    let bs := leBytes n r.1
    ((s.storeBytes [(t.pa, n)] bs).onCore (fun c => c.writeL1 [(t.pa, n)] bs), r.2)
  | some u =>
    let (code, s) := s.draw
    let e : Sump := { seq := i.seq, kind := .store, cls := i.cls, op := i.op, width := n, va := t.va, data := r.1, strong := i.strong,
                      bad := some (0x04, code), pcv := i.pcv, at_ := i.at_ }
    let s := { s with notes := s.notes ++ [(1, u.1)] }
    (s.struck (some u.1) (if s.core.sump.any (fun x => x.seq == i.seq) then s else s.onCore (fun c => { c with sump := insSump e c.sump })), r.2)

/-- ACCREL at the home slices (05 R161): a range that the job does not hold is left alone; else each target is read out at its slice, an
event of its own (10 R298, R315); the answer. -/
def State.performAccrel (s : State) (i : MuItem) (f : Nat) (d : XReg) (len : Nat) : State :=
  let job := s.core.task.job
  let r := (i.va, len, f)
  match i.left with
  | [] =>
    (s.modJob job (fun j => { j with giving := j.giving.filter (fun x => x != r) })).accAnswer i f len d [.fp (BitVec.ofNat _ i.data)]
  | _ =>
    if i.untouched f len && !(match s.job job with | some j => j.ranges.contains r | none => false) then
      s.accLater { i with left := [], kind := .accrel f d 0 }
    else
      let s := if i.untouched f len then s.modJob job (fun j => { j with ranges := j.ranges.filter (fun x => x != r), giving := j.giving ++ [r] }) else s
      let (p, s) := s.nextPart i
      let (s, fl) := match s.accs.find? (fun t => t.job == job && t.va == i.va + p.1) with
        | some t => s.readOut i t
        | none => (s, 0)
      s.accLater { i with left := i.left.erase p, data := i.data ||| fl.toNat }

/-- One access, or one part of it, performed at its home slice, at system scope (10 R300); with its last part it leaves the memory
unit. -/
def State.perform (s : State) (i : MuItem) : State :=
  let off (s : State) : State := s.onCore (fun c => { c with mu := c.mu.filter (fun x => x.seq != i.seq) })
  let job := s.core.task.job
  let own (s : State) (bytes : List Byte) : State := s.onCore (fun c => c.writeL1 i.phys bytes)
  let s := match i.kind with
    | .load d => s.loadPart i true (fun s v => s.answer i [.x d (BitVec.ofNat 64 v)])
    | .loadW d q gone => s.loadPart i (!gone) (fun s v => s.answer i [.x d (BitVec.ofNat 64 v), .q q gone])
    | .loadH d => s.loadPart i false (fun s v => s.answer i [.h d (BitVec.ofNat 256 v)])
    | .store => s.storePart i
    | .atomic k u d cmp =>
      let s := off s
      let old := leNat (s.readPieces i.phys)
      let bytes := leBytes i.width (atomicNew k u (8 * i.width) old i.data cmp.toNat)
      (own (s.storeBytes i.phys bytes) bytes).answer i [.x d (BitVec.ofNat 64 old)]
    | .afadd f exact =>
      let (s, fl) := (off s).addAt job f i.va i.phys i.data exact
      (own s (s.readPieces i.phys)).answer i [.fp fl]
    | .accres f d len => s.performAccres i f d len
    | .accrel f d len => s.performAccrel i f d len
    | .fence _ _ => off s
    | .launch =>
      let cls := fldN s.core.r.kstat 16 3
      (off s).modJob job (fun j => { j with posted := j.posted ++ [(i.va, cls)] })
  s.settleOrder.settleChanges s.core.task.asid

/-- Does the access read memory, or write only part of a word, that is uncorrectable? -/
def State.aborts (s : State) (i : MuItem) : Bool :=
  match i.kind with
  | .store => (s.partWord i.phys).isSome
  | .fence _ _ | .launch | .accrel _ _ _ => false
  | .accres _ _ _ => (s.badWord (i.left.flatMap (fun p => cutPieces i.phys p.1 p.2))).isSome
  | .afadd f exact =>
    !(exact && s.accs.any (fun t => t.job == s.core.task.job && t.va == i.va && t.fmt == f)) && (s.badWord i.phys).isSome
  | _ => i.fwd.isNone && (s.badWord i.phys).isSome

/-- The first item that may be performed at this cycle. A checker performs none: its leader does (17 R407). -/
def State.nextItem (s : State) : Option MuItem :=
  if s.core.r.chk then none
  else s.core.mu.find? (fun i => decide (i.ready ≤ s.cycle) && s.core.mayPerform s.whereIs i)

/-! ### The sump (01 R44, 13 R350) -/

/-- Must a store, an atomic without return or a reduction enter the sump behind earlier entries? Entries of its class are
present, or entries a fence ties it to (05 R163). -/
def Core.mustSump (c : Core) (cls seq : Nat) : Bool :=
  c.sump.any (fun e => e.cls == cls || c.tied e.cls cls e.seq seq)

/-- The entry whose data a load takes, with the data: the youngest matching entry of its class (10 R312), which must hold all its
bytes. A load does not take it past a younger write to its location that is of its class or strong as it is (10 R303), nor past a
fence that ties it to an access not yet performed (05 R163). -/
def Core.forward (c : Core) (va width cls : Nat) (strong : Bool) : Option (Nat × Nat) :=
  match (c.sump.filter (fun e => e.cls == cls && meets e.va e.width va width)).getLast? with
  | some e =>
    let seq := c.iss.seq
    let past : Bool :=
      c.mu.any (fun j => decide (e.seq < j.seq) && !j.isFence && (match j.kind with | .load _ | .loadW _ _ _ | .loadH _ => false | _ => true) &&
        meets j.va j.width va width && (j.cls == cls || (strong && j.strong))) ||
      c.sump.any (fun x => decide (e.seq < x.seq) && strong && x.strong && meets x.va x.width va width) ||
      c.mu.any (fun j => !j.isFence && c.tied j.cls cls j.seq seq) || c.sump.any (fun x => c.tied x.cls cls x.seq seq) ||
      c.commands.any (fun k => k.inMemory && c.tied k.cls cls k.seq seq)
    if !past ∧ e.kind = .store ∧ e.left.isEmpty ∧ e.va ≤ va ∧ va + width ≤ e.va + e.width then
      some (e.seq, e.data / 2 ^ (8 * (va - e.va)) % 2 ^ (8 * width))
    else none
  | none => none

/-- An entry as an access to perform. -/
def Sump.item (e : Sump) (l : List (Nat × Nat)) : MuItem :=
  { seq := e.seq, kind := e.kind, cls := e.cls, strong := e.strong, va := e.va, width := e.width, phys := l, data := e.data,
    ready := 0, fwd := none, pcv := e.pcv, op := e.op, at_ := e.at_, left := e.left }

/-- Is the fault of an access on record, or answered by a declaration that it has still to meet? -/
def State.noted (s : State) (va : Nat) (id : Option Nat) : Bool :=
  s.faults.any (fun f => f.asid == s.core.task.asid && (s.space s.core.task.asid).onePage f.va va && f.who.contains (s.cid, id))

/-- The first entry that may replay: not held, first of its class, and after what precedes it; with what its access meets, where its
page is settled or its fault is not on record yet; nothing, where its own word is uncorrectable. In a pair it must have been released (17
R409). -/
def State.nextReplay (s : State) : Option (Sump × Reach) :=
  let c := s.core
  if c.r.chk then none
  else c.sump.findSome? (fun e =>
    if e.bad.isSome || decide (s.cycle < e.ready) || c.heldCls.contains e.cls || (c.r.prot && decide (s.cycle < e.at_ + 3)) || c.blocked s.whereIs e.seq e.cls e.strong e.va e.width (s.whereIs e.va e.width) then none
    else if e.rot.isSome then some (e, .wait e.va)
    else match s.reach c.task.asid none e.va e.width true (some e.seq) with
      | .wait v => if s.noted v (some e.seq) then none else some (e, .wait v)
      | .bad _ _ => none
      | r => some (e, r))

/-- The oldest entry whose report waits. -/
def State.nextReport (s : State) : Option (Sump × Nat × Nat) :=
  s.core.sump.findSome? (fun e => e.bad.map (fun n => (e, n)))

/-! ### Events -/

/-- LOAD_RETURN, ACCESS_PERFORMED and AFADD_AT_SLICE: the first access of the focused core that may be performed now. -/
def State.performNext (s : State) : State :=
  let s := s.onCore (fun c => c.settleOld s.whereIs)
  match s.nextItem with
  | some i => if s.aborts i then s else s.perform i
  | none => s

/-- LOAD_RETURN (05 R156). -/
def execLoadReturn (s : State) : Out := .next s.performNext

/-- ACCESS_PERFORMED (10 R300). -/
def execAccessPerformed (s : State) : Out := .next s.performNext

/-- AFADD_AT_SLICE (05 R160, R162). -/
def execAfaddAtSlice (s : State) : Out := .next s.performNext

/-- The kind of an entry in a fault record. -/
def Sump.accKind (e : Sump) : AccKind := match e.kind with | .store => .store | _ => .atomic

/-- An entry of the sump changed. -/
def Core.setSump (c : Core) (e : Sump) : Core := { c with sump := c.sump.map (fun x => if x.seq = e.seq then e else x) }

/-- A part of a replayed store; with the last one the entry leaves. A weak one updates no L1 line (13 R350). -/
def State.replayPart (s : State) (e : Sump) (phys : List (Nat × Nat)) (alias_ : Option Nat) : State :=
  let e := if e.left.isEmpty then { e with left := accessParts .store e.va e.width alias_ } else e
  let (p, s) := s.nextPart (e.item phys)
  let l := cutPieces phys p.1 p.2
  let bs := ((leBytes e.width e.data).drop p.1).take p.2
  let s := s.storeBytes l bs
  let s := if e.strong then s.onCore (fun c => c.writeL1 l bs) else s
  let left := e.left.erase p
  let s :=
    if left.isEmpty then
      { s.onCore (fun c => { c with sump := c.sump.filter (fun x => x.seq != e.seq) }) with unc := s.unc.filter (fun u => !covers phys u) }
    else
      let (n, s) := s.drawIn 0 600
      s.onCore (fun c => c.setSump { e with left := left, ready := s.cycle + n })
  s.settleOrder.settleChanges s.core.task.asid

/-- SUMP_REPLAY: the entry is performed as the original access would have been (13 R350). An entry whose page does not admit it
faults as the original access would; one whose page is a transposing alias that the access may not use is reported with
DFAULT 5 (13 R345; mark: DESIGN CHOICE, log 52); one that meets an uncorrectable word with ABORT (17 R404), and so is one whose own word
in the sump is uncorrectable (R405). -/
def execSumpReplay (s : State) : Out :=
  .next (match s.nextReplay with
    | some ({ rot := some k, .. }, _) =>
      s.struck none (s.onCore (fun c => { c with sump := c.sump.map (fun x => if x.rot = some k then { x with bad := some (0x04, 9) } else x) }))
    | some (e, .ok l t first) =>
      let i := e.item l
      let (n, s) := s.translateAll e.va e.width
      let count (s : State) : State := if e.left.isEmpty then s.countHot s.core.task.asid none e.va e.width else s
      if t ∧ (e.kind ≠ .store ∨ e.width = 32) then s.onCore (fun c => c.setSump { e with bad := some (0x03, 5) })
      else if s.aborts i then
        let pa := match s.badWord i.phys with | some u => u.1 | none => 0
        let (code, s) := s.draw
        let s := { s with notes := s.notes ++ [(1, pa)] }
        s.struck (some pa) (s.onCore (fun c => c.setSump { e with bad := some (0x04, code) }))
      else if n ≠ 0 then s.onCore (fun c => c.setSump { e with ready := s.cycle + n })
      else if e.kind = .store then (count s).replayPart e l (if t then some ((fmtOf (pteFmt first)).width / 8) else none)
      else ((count s).onCore (fun c => { c with sump := c.sump.filter (fun x => x.seq != e.seq) })).perform i
    | some (e, .wait v) => s.noteFault v e.accKind e.cls (some e.seq)
    | _ => s)

/-- SUMP_REPORT: the trap of an entry declared invalid, at a bundle boundary while INH is clear; the entry leaves and is
never performed, the younger ones of its class are held until TRET (13 R351). Of an entry whose own word is uncorrectable the report
names no address but the word's index (17 R405). After HALT it ends the task FAILED; a task
that has failed or been ended discards the entry (05 R172, 16 R393). -/
def execSumpReport (s : State) : Out :=
  .next (match s.nextReport with
    | some (e, code, reason) =>
      s.onCore (fun c =>
        let c := { c with sump := c.sump.filter (fun x => x.seq != e.seq) }
        let t : Trap := { code := code, slot := 0, addr := if e.rot.isSome then 0 else BitVec.ofNat 64 e.va,
                          info := #v[0, BitVec.ofNat 64 reason, (match e.rot with | some k => BitVec.ofNat 64 k | none => e.pcv), BitVec.ofNat 64 (2 ^ 61 + e.op % 256 * 16 + e.cls % 16)] }
        match c.task.phase with
        | .ending true _ _ _ | .killed => c
        | _ => { c with heldCls := c.heldCls ++ [e.cls] }.enterTrap s.cycle t c.pc)
    | none => s)

/-- A load that a halt abandoned and that is performed afresh now, with what it meets, once the restore is over (13 R353). -/
def State.heldItem (s : State) : Option (MuItem × Reach) :=
  let c := s.core
  let now : Bool := match c.task.phase with
    | .starting => decide (c.iss.ready ≤ s.cycle)
    | _ => false
  if !now || c.r.chk then none
  else c.mu.findSome? (fun i =>
    if !i.held then none
    else match s.reach c.task.asid none i.va i.width (match i.kind with | .atomic _ _ _ _ => true | _ => false) (some i.seq) with
      | .wait v => if s.noted v (some i.seq) then none else some (i, .wait v)
      | r => some (i, r))

/-- Such a load sent: it is performed after a latency; an exact-accumulator reservation on a transposing alias reserves nothing, a
handle load or an atomic on one raises DFAULT 5 (13 R345). A missing mapping is reported; an invalid one traps. -/
def State.sendHeld (s : State) (i : MuItem) (r : Reach) : State :=
  let put (j : MuItem) (s : State) : State := s.onCore (fun c => { c with mu := c.mu.map (fun x => if x.seq = i.seq then j else x) })
  let trap (t : Trap) : State :=
    s.onCore (fun c => { c with mu := c.mu.filter (fun x => x.seq != i.seq) }.enterTrap s.cycle t (i.pcv.setWidth 47))
  match r with
  | .ok l t e =>
    let whole : Bool := match i.kind with | .loadH _ | .atomic _ _ _ _ => true | _ => false
    if t && whole then trap { code := 0x03, slot := 0, addr := BitVec.ofNat 64 i.va, info := #v[0, 5, 0, 0] }
    else
      let acc : Bool := match i.kind with | .accres _ _ _ => true | _ => false
      let (n, s) := if acc then s.drawIn 200 400 else s.drawLat i.va i.width e
      let (k, s) := if acc then s.translateAll i.va i.width else (0, s)
      let (m, s) := if acc then s.drawIn 1 n else (n, s)
      let (b, s) := s.draw
      let al := if t then some (if pteGeom e = 2 then (fmtOf (pteFmt e)).width / 8 else 1) else none
      let kind : MuKind := match i.kind with | .accres f d len => .accres f d (if t then 0 else len) | k => k
      put { i with kind := kind, phys := l, left := accessParts i.kind i.va i.width al, ready := s.cycle + k + m, due := s.cycle + k + n, held := false,
                   bypass := !i.strong && b % 2 == 1 } (s.countHot s.core.task.asid none i.va i.width)
  | .wait v => s.noteFault v (match i.kind with | .atomic _ _ _ _ => .atomic | _ => .load) i.cls (some i.seq)
  | .bad _ cow =>
    trap (if cow then { code := 0x08, slot := 0, addr := BitVec.ofNat 64 i.va } else { code := 0x03, slot := 0, addr := BitVec.ofNat 64 i.va })

/-- An access whose data is uncorrectable and withheld: Shogiwald is interrupted with the physical address; a load raises
ABORT at the access and has no effect, a store is reported through the sump (17 R403, R404). The array code of a memory
tier is not among those of R405: a free value. -/
def State.abortItem (s : State) (i : MuItem) : State :=
  let pa := match s.badWord i.phys with | some u => u.1 | none => 0
  let (code, s) := s.draw
  let s := { s with notes := s.notes ++ [(1, pa)] }
  let s := s.onCore (fun c => { c with mu := c.mu.filter (fun x => x.seq != i.seq) })
  let s := match i.kind with | .accres f _ len => s.accDrop s.core.task.job f i.va len | _ => s
  s.struck (some pa) <|
  if i.returns then
    s.onCore (fun c => c.enterTrap s.cycle
      { code := 0x04, slot := 0, addr := BitVec.ofNat 64 i.va, info := #v[0, BitVec.ofNat 64 code, 0, 0] } (i.pcv.setWidth 47))
  else
    s.onCore (fun c =>
      { c with sump := insSump { seq := i.seq, kind := i.kind, cls := i.cls, op := i.op, width := i.width, va := i.va,
                                 data := i.data, strong := i.strong, bad := some (0x04, code), pcv := i.pcv, at_ := i.at_ } c.sump })

end Sys2Proof.Machine
end

