-- ==== Sys2Proof/Machine/PumpMove.lean ====
section
/-! DEFINITION. The pump channels at work: endpoints, rows and units, write pointers, completion, faults and markers
(09 R266 to R286). -/

namespace Sys2Proof.Machine

open Sys2Proof

/-! ### Operand memory (01 R37, 08 R239) -/

/-- A slot's descriptor. -/
def Core.slot (c : Core) (o : Nat) : Omd := c.omd.get {} o

/-- One row of a slot's stored elements, `w` bits each. -/
def Core.slotWords (c : Core) (o r w : Nat) : List Nat := unpackRow w ((c.om.getMany 0 (o * 512 + r * w) w).map (·.toNat))

/-- One row of the elements a slot reads as in its format: zeros unless STORED. -/
def Core.slotRow (c : Core) (o r : Nat) : List Nat :=
  if (c.slot o).kind = 1 then c.slotWords o r (fmtOf (c.slot o).fmt).width else List.replicate 64 0

/-- One row written into a slot: a slot that is not STORED reads zero in its other rows; a special element, or another
float format over old rows, sets EXC (01 R36, R37; 09 R274). -/
def Core.putSlotRow (c : Core) (o r fmt : Nat) (els : List Nat) : Core :=
  let m := c.slot o
  let f := fmtOf fmt
  let w := f.width
  let stale := m.kind == 1 && m.fmt != fmt && (f.isBin || f == .dec64)
  let exc := (m.kind == 1 && m.fmt == fmt && m.exc) || stale || anySpecial f els
  let om := if m.kind = 1 then c.om else Sparse.drop (fun i => i / 512 == o) c.om
  { c.mend 2 (o * 512 + r * w) w with om := om.setMany 0 (o * 512 + r * w) (packRow w els), omd := c.omd.set {} o { m with kind := 1, fmt := fmt, exc := exc } }

/-- A slot that a whole ZERO source fills: no byte is written (09 R274). -/
def Core.putSlotZero (c : Core) (o fmt : Nat) : Core :=
  { c with omd := c.omd.set {} o { c.slot o with kind := 2, fmt := fmt, exc := false } }

/-! ### Regions (01 R18, 09 R272) -/

/-- Bytes `p` to `p + n - 1` of a region, cut at its runs and at 128-byte granules. -/
def regionPieces (base : Int) (e0 e1 : Nat) (s1 s2 : Int) : Nat → Nat → Nat → List (Nat × Nat)
  | 0, _, _ => []
  | fuel + 1, p, n =>
    if n = 0 then []
    else
      let (va, run) := regionAt base e0 e1 s1 s2 p
      let m := min (min n run) (128 - va % 128)
      (va, m) :: regionPieces base e0 e1 s1 s2 fuel (p + m) (n - m)

/-- Bytes of a memory side. -/
def End.pieces (e : End) (shift : Int) (p n : Nat) : List (Nat × Nat) :=
  match e with
  | .mem base e0 e1 _ s1 s2 _ => regionPieces (base + shift) e0 e1 s1 s2 n p n
  | _ => []

/-- Tile or slot and row of stream row `k`, the copy's distance added (09 R272). -/
def End.rowAt (e : End) (shift : Int) (k : Nat) : Nat × Nat :=
  match e with
  | .tile t a => let x : Int := a + shift + k; (wrapN 12 (t + x / 16), (x % 16).toNat)
  | .slot o a => let x : Int := a + shift + k; ((o + x / 16).toNat, (x % 16).toNat)
  | _ => (0, 0)

/-- A row as bytes. -/
def elsBytes (fmt : Nat) (els : List Nat) : List Byte := leBytes (rowBytes fmt) (packN (fmtOf fmt).width els)
/-- Bytes as a row. -/
def bytesEls (fmt : Nat) (bs : List Byte) : List Nat :=
  let v := leNat bs
  tab 64 (itemN (fmtOf fmt).width v)

/-- A row of a symbol (01 R35). -/
def Tile.symRow (e : Tile) (r : Nat) : List Nat :=
  let w := (fmtOf e.fmt).width
  match e.kind with
  | 3 => List.replicate 64 (e.val.toNat % 2 ^ w)
  | 4 => tab 64 (rampElem w e.rax e.val r)
  | _ => List.replicate 64 0

/-! ### Channels -/

/-- A channel changed. -/
def Core.modChan (c : Core) (ch : Nat) (f : Chan → Chan) : Core := { c with chans := c.chans.setIfInBounds ch (f (c.chan ch)) }
/-- The head of a channel's queue. -/
def Core.head (c : Core) (ch : Nat) : Option PumpCmd := (c.chan ch).queue.head?
/-- The head replaced. -/
def Core.setHead (c : Core) (ch : Nat) (k : PumpCmd) : Core := c.modChan ch (fun h => { h with queue := k :: h.queue.drop 1 })

/-- The other core's copy of a command changed (17 R407). -/
def Core.modCmd (c : Core) (ch seq : Nat) (f : PumpCmd → PumpCmd) : Core :=
  c.modChan ch (fun h => { h with queue := h.queue.map (fun k => if k.seq = seq then f k else k) })

/-- The leader of a pair forwards to its checker's copy of the command. -/
def State.forwardCmd (s : State) (ch seq : Nat) (f : PumpCmd → PumpCmd) : State :=
  if s.leads then s.putCore (peerOf s.cid) ((s.coreAt (peerOf s.cid)).modCmd ch seq f) else s

/-- Pointer advances, visible in the next cycle; the log of a pair counts those of a logged command (09 R268, 17 R414). -/
def State.advance (s : State) (ch seq n : Nat) : State :=
  if n = 0 then s
  else
    let log (c : Core) : Core :=
      { c with log := c.log.map (fun e => if e.seq = seq ∧ 0x100 ≤ e.op then { e with adv := e.adv + n } else e) }
    let s := s.onCore (fun c => log (c.modChan ch (fun h => { h with adv := h.adv ++ [(s.cycle + 1, n)] })))
    if s.leads then
      s.putCore (peerOf s.cid) (log ((s.coreAt (peerOf s.cid)).modCmd ch seq (fun k =>
        if k.follow then { k with fwd := k.fwd ++ [(s.cycle + 2, leBytes 8 n)] } else k)))
    else s

/-! ### Memory accesses of a command -/

/-- What one access of a command meets. -/
inductive PumpMeet where
  | ok (l : List (Nat × Nat)) (first : BitVec 128)
  | wait (va : Nat)
  | bad (f : PumpFault)
  deriving DecidableEq, Repr

/-- A fault of the command, at its unit or else at the granule. -/
def PumpCmd.faultAt (k : PumpCmd) (code reason va : Nat) (unit : Option Nat) : PumpFault :=
  { code := code, addr := BitVec.ofNat 64 (unit.getD (va / 128 * 128)), reason := reason, op := k.op }

/-- Translation of one piece (09 R285): outside its object, DFAULT 3; declared invalid, DFAULT 0 or COW; a page of another
format than the side's first, TILE 8. -/
def State.pumpMeet (s : State) (ch : Nat) (k : PumpCmd) (dst : Bool) (va n : Nat) (write : Bool) (unit : Option Nat) : PumpMeet :=
  let e := if dst then k.dst else k.src
  let outside : Bool := match e with
    | .mem _ _ _ _ _ _ (some x) => decide (va < x.1 ∨ x.2 < va + n)
    | _ => false
  if outside then .bad (k.faultAt 0x03 3 va unit)
  else
    match s.reach s.core.task.asid (some (s.cid * 16 + ch)) va n write (some k.seq) with
    | .ok l _ first =>
      let old := if dst then k.pfd else k.pfs
      if old.isSome && old != some (pteFmt first) then .bad (k.faultAt 0x05 8 va unit) else .ok l first
    | .wait v => .wait v
    | .bad v cow => .bad (k.faultAt (if cow then 0x08 else 0x03) 0 v unit)

/-- The page of an access that is about to be performed: the wait that its translation adds, none where the core's cache holds it
(13 R346). -/
def State.pumpPage (s : State) (k : PumpCmd) (va : Nat) : State × Option PumpCmd :=
  let (n, s) := s.translate (va / 4096)
  (s, if n = 0 then none else some { k with ready := s.cycle + n })

/-- A command that goes on later: in the next cycle, or when what it waits for is over. -/
def PumpCmd.again (k : PumpCmd) (now : Nat) : PumpCmd := { k with ready := max k.ready (now + 1) }

/-- The command with the format of a side's first page known. -/
def PumpCmd.sees (k : PumpCmd) (dst : Bool) (first : BitVec 128) : PumpCmd :=
  if dst then { k with pfd := some (k.pfd.getD (pteFmt first)) } else { k with pfs := some (k.pfs.getD (pteFmt first)) }

/-- The outcome of moving bytes: done, wait for a mapping, or a fault noted in the command. -/
inductive Moved where
  | done
  | wait
  | bad
  deriving DecidableEq, Repr

/-- An abort completion met by a command: Shogiwald is interrupted, the array code is a free value; in a pair that can rewind
the command stands still (17 R403 to R405, R412). -/
def State.pumpAbort (s : State) (k : PumpCmd) (va pa : Nat) (unit : Option Nat) : State × PumpCmd × Moved :=
  let (code, s) := s.draw
  let s := { s with notes := s.notes ++ [(1, pa)] }
  if s.strikes (some pa) then (s.struck (some pa) s, k, .wait)
  else (s, { k with bad := some (k.faultAt 0x04 code va unit) }, .bad)

/-- A bad word of the core's own arrays that a command reads: a fault of cause ABORT with the array code (17 R405). -/
def State.pumpLocal (s : State) (k : PumpCmd) (arr : Nat) : State × PumpCmd × Moved :=
  if s.strikes none then (s.struck none s, k, .wait)
  else (s, { k with bad := some { code := 0x04, addr := 0, reason := arr, op := k.op } }, .bad)

/-- A range of words of an array: array code, first index, count. -/
abbrev WordRange := Nat × Nat × Nat

/-- The entry of a tile. -/
def tileWord (t : Nat) : WordRange := (5, t, 1)

/-- The stored words of a row of a tile, of its source where it repeats one. -/
def Core.rowWords (c : Core) (x : Nat × Nat) : List WordRange :=
  let e := c.tile x.1
  let w := (fmtOf e.fmt).width
  let own (e : Tile) : List WordRange := if e.kind = 1 then [(1, e.base * 16 + x.2 * w, w)] else []
  tileWord x.1 :: (if e.kind = 5 then tileWord (e.val.toNat % 4096) :: own (c.tile (e.val.toNat % 4096)) else own e)

/-- The first bad word of ranges: its array and index. -/
def Core.badOfRanges (c : Core) (l : List WordRange) : Option (Nat × Nat) :=
  l.findSome? (fun x => (c.badIn x.1 x.2.1 x.2.2).map (fun k => (x.1, k)))

/-- The first bad local word of a row of a tile or slot side: its array and index. -/
def Core.badSide (c : Core) (e : End) (x : Nat × Nat) : Option (Nat × Nat) :=
  if c.badWords.isEmpty then none
  else match e with
    | .tile _ _ => c.badOfRanges (c.rowWords x)
    | .slot _ _ =>
      let w := (fmtOf (c.slot x.1).fmt).width
      if (c.slot x.1).kind = 1 then (c.badIn 2 (x.1 * 512 + x.2 * w) w).map (fun k => (2, k)) else none
    | _ => none

/-- Does an access begin a granule, or a row or unit? It is then one request (13 R354). -/
def newRequest (va sofar : Nat) : Bool := va % 128 == 0 || sofar == 0

/-- Bytes of physical pieces as a command reads them: those it counts as having read, else memory's. -/
def State.pumpBytes (s : State) (k : PumpCmd) (l : List (Nat × Nat)) : List Byte :=
  if k.pre.isEmpty then s.readPieces l
  else (byteAddrs l).map (fun a => match k.pre.find? (fun x => x.1 == a) with | some x => x.2 | none => s.readByte a)

/-- Commands before this one on other channels, with the same bytes still to read, count as having read them too: none of them may read
a newer value later (10 R303 item 2). -/
def Core.lend (c : Core) (ph : Where) (ch : Nat) (k : PumpCmd) (va n : Nat) (l : List (Nat × Nat)) (bs : List Byte) : Core :=
  (List.range 8).foldl (fun c h =>
    if h = ch ∨ !(c.chan h).queue.any (fun j => decide (j.seq < k.seq) && j.touches ph false va n l) then c
    else c.modChan h (fun q => { q with queue := q.queue.map (fun j =>
      if decide (j.seq < k.seq) && j.touches ph false va n l then
        { j with pre := j.pre ++ ((byteAddrs l).zip bs).filter (fun x => !j.pre.any (fun y => y.1 == x.1)) }
      else j) })) c

/-- Source pieces read into what the command has got; `m` of them at most before others have their turn. -/
def State.pumpRead (s : State) (ch : Nat) (unit : Option Nat) : Nat → PumpCmd → List (Nat × Nat) → State × PumpCmd × Moved
  | _, k, [] => (s, k, .done)
  | 0, k, _ => (s, k, .wait)
  | m + 1, k, (va, n) :: t =>
    if s.core.pumpWaits s.whereIs ch k false va n then (s, k, .wait)
    else match s.pumpMeet ch k false va n false unit with
    | .ok l first =>
      (match s.badWord l with
        | some u => s.pumpAbort k va u.1 unit
        | none =>
          match s.pumpPage k va with
          | (s, some k) => (s, k, .wait)
          | (s, none) =>
            let s := if newRequest va k.got.length then s.countHot s.core.task.asid (some (s.cid * 16 + ch)) va n else s
            let bs := s.pumpBytes k l
            State.pumpRead (s.onCore (fun c => c.lend s.whereIs ch k va n l bs)) ch unit m { k.sees false first with got := k.got ++ bs } t)
    | .wait v => (s.noteFault v .pumpRead k.cls (some k.seq), k, .wait)
    | .bad f => (s, { k with bad := some f }, .bad)

/-- The elements of pieces, `w` bytes each, without the first `n` bytes: a pump's read is atomic in nothing larger (10 R298). -/
def unitsFrom (w : Nat) (l : List (Nat × Nat)) (n : Nat) : List (Nat × Nat) :=
  (skipBytes l n).flatMap (fun p => (cutAt (max 1 w) p.1 p.2).map (fun q => (p.1 + q.1, q.2)))

/-- Source bytes: read by the leader or an unprotected core, and forwarded; taken from the leader by a checker. Others have their
turn after a free number of units (10 R298). -/
def State.pumpFetch (s : State) (ch : Nat) (k : PumpCmd) (unit : Option Nat) (l : List (Nat × Nat)) :
    State × PumpCmd × Moved × List Byte :=
  if s.core.r.chk then
    match k.fwd with
    | (at_, bs) :: t => if s.cycle < at_ then (s, k, .wait, []) else (s, { k with fwd := t }, .done, bs)
    | [] => (s, k, .wait, [])
  else
    let todo := unitsFrom ((fmtOf k.fs).width / 8) l k.got.length
    let (m, s) := s.drawIn 1 (max 1 todo.length)
    match s.pumpRead ch unit m k todo with
    | (s, k, .done) => (s.forwardCmd ch k.seq (fun x => { x with fwd := x.fwd ++ [(s.cycle + 2, k.got)] }), { k with got := [] }, .done, k.got)
    | (s, k, r) => (s, k, r, [])

/-- One element combined at its home slice (09 R278). -/
def State.pumpCombine (s : State) (k : PumpCmd) (va : Nat) (l : List (Nat × Nat)) (v : Nat) : State × Flags :=
  let f := fmtOf k.fd
  let n := f.width / 8
  let old := leNat (s.readPieces l)
  let put (r : Res) : State × Flags := (s.storeBytes l (leBytes n r.1), r.2)
  match k.comb with
  | 0 =>
    if f.isInt then put (f.putInt false (f.intVal old + f.intVal v))
    else
      let code := if f = .fp32 then 0 else if f = .fp64 then 1 else 2
      s.addAt s.core.task.job code va l v true
  | c =>
    let mx := c == 1
    if f.isInt then put (if (f.intVal v < f.intVal old) = mx then old else v, 0) else put (f.minmax mx old v)

/-- The next bytes of the destination to write: address, and how many lie in one run. -/
def PumpCmd.dstAt (k : PumpCmd) : Nat × Nat :=
  let shift : Int := if k.nr = 0 then 0 else ((k.pos / k.nr : Nat) : Int) * k.dist
  match k.op with
  | 1 =>
    if k.mode = 1 then (k.dst.unit (k.units.headD (0, [])).1 + k.out, k.dst.unitLen - k.out)
    else (match k.dst with
      | .mem base e0 e1 _ s1 s2 _ => regionAt base e0 e1 s1 s2 (k.pos * k.src.unitLen + k.out)
      | _ => (0, 0))
  | 2 => (k.dst.unit (k.list.getD k.pos 0) + k.out, k.dst.unitLen - k.out)
  | _ =>
    match k.dst with
    | .mem base e0 e1 _ s1 s2 _ => regionAt (base + shift) e0 e1 s1 s2 (k.pos % k.nr * rowBytes k.fd + k.out)
    | _ => (0, 0)

/-- The run of the destination that the next byte to write lies in: its first address and the bytes that the command writes there. -/
def PumpCmd.dstRun (k : PumpCmd) : Nat × Nat :=
  let shift : Int := if k.nr = 0 then 0 else ((k.pos / k.nr : Nat) : Int) * k.dist
  if k.listed true then (k.dstAt.1 - k.out, k.dst.unitLen)
  else match k.dst with
    | .mem base e0 e1 _ s1 s2 _ =>
      let (p, total) := if k.op = 1 then (k.pos * k.src.unitLen + k.out, k.nr * k.src.unitLen) else (k.pos % k.nr * rowBytes k.fd + k.out, k.nr * rowBytes k.fd)
      ((regionAt (base + shift) e0 e1 s1 s2 (p / e0 * e0)).1, min e0 (total - p / e0 * e0))
    | _ => (0, 0)

/-- An uncorrectable word that pieces of a command's write meet and that neither they nor the run they lie in covers (17 R403). -/
def State.pumpPart (s : State) (k : PumpCmd) (l : List (Nat × Nat)) : Option (Nat × Nat) :=
  s.unc.find? (fun u => piecesMeet [u] l && !covers l u && !covers (s.whereIs k.dstRun.1 k.dstRun.2) u)

/-- Words that the run of a command's write covers are good once the last of their bytes is written, `n` bytes at `va` now (17 R403). -/
def State.pumpMend (s : State) (k : PumpCmd) (va n : Nat) : State :=
  if s.unc.isEmpty then s
  else
    let run := s.whereIs k.dstRun.1 k.dstRun.2
    let last (u : Nat × Nat) : Nat :=
      ((List.range k.dstRun.2).zip (byteAddrs run)).foldl (fun m x => if u.1 ≤ x.2 ∧ x.2 < u.1 + u.2 then x.1 else m) 0
    let o := va - k.dstRun.1
    { s with unc := s.unc.filter (fun u => !(covers run u && decide (o ≤ last u ∧ last u < o + n))) }

/-- The unit being written, where units are indexed. -/
def PumpCmd.dstUnit (k : PumpCmd) : Option Nat :=
  if k.op = 2 then some (k.dst.unit (k.list.getD k.pos 0))
  else if k.op = 1 ∧ k.mode = 1 then some (k.dst.unit (k.units.headD (0, [])).1)
  else none

/-- Does a run of `n` bytes touch a granule? -/
def inGranule (g va n : Nat) : Bool := decide (va < 128 * g + 128 ∧ 128 * g < va + n)

/-- Does a byte of a region's first `n` touch a granule? -/
def regionTouches (base : Int) (e0 e1 : Nat) (s1 s2 : Int) (n g : Nat) : Bool :=
  (List.range (ceilDiv n e0)).any (fun q => inGranule g (regionAt base e0 e1 s1 s2 (q * e0)).1 (min e0 (n - q * e0)))

/-- Does the command write into granule `g` again after the bytes written so far? (09 R268: a granule counts once, at the
last byte the command writes in it.) -/
def PumpCmd.writesAgain (k : PumpCmd) (g : Nat) : Bool :=
  let next : Bool := !k.buf.isEmpty && k.dstAt.1 / 128 == g
  let u := k.dst.unitLen
  next ||
  match k.op with
  | 1 =>
    if k.mode = 1 then (k.units.drop 1).any (fun x => inGranule g (k.dst.unit x.1) u)
    else k.buf.isEmpty && decide (k.pos + 1 < k.nr) && { k with pos := k.pos + 1, out := 0 }.dstAt.1 / 128 == g
  | 2 => (k.list.drop (k.pos + 1)).any (fun x => x != noIndex && inGranule g (k.dst.unit x) u)
  | _ =>
    (k.buf.isEmpty && decide ((k.pos + 1) % k.nr ≠ 0) && { k with pos := k.pos + 1, out := 0 }.dstAt.1 / 128 == g) ||
    (match k.dst with
      | .mem base e0 e1 _ s1 s2 _ =>
        (List.range k.copies).any (fun i => decide (k.pos / k.nr < i) &&
          regionTouches (base + i * k.dist) e0 e1 s1 s2 (k.nr * rowBytes k.fd) g)
      | _ => false)

/-- Flags that the conversions of elements `a` to `b - 1` of the row in hand raised. -/
def PumpCmd.raised (k : PumpCmd) (a b : Nat) : Flags := ((k.fls.drop a).take (b - a)).foldl (· ||| ·) 0

/-- The bytes in hand written to memory: aligned units of 8 bytes, or elements for PREDUCE, each single-copy atomic, `m` of them at
most before others have their turn (10 R298). Each granule whose last byte is written advances the pointer; an element that is
written brings the flags of its conversion (09 R273). -/
def State.pumpStore (s : State) (ch : Nat) : Nat → PumpCmd → State × PumpCmd × Moved
  | 0, k => (s, k, if k.buf.isEmpty then .done else .wait)
  | m + 1, k =>
    if k.buf.isEmpty then (s, k, .done)
    else
      let (va, run) := k.dstAt
      let w := (fmtOf k.fd).width
      let n := min (min run k.buf.length) (if k.op = 3 then w / 8 else 8 - va % 8)
      if s.core.pumpWaits s.whereIs ch k true va n then (s, k, .wait)
      else match s.pumpMeet ch k true va n true k.dstUnit with
      | .ok l first =>
        (match (if k.op = 3 then s.badWord l else s.pumpPart k l) with
          | some u =>
            s.pumpAbort k va u.1 k.dstUnit
          | none =>
            match s.pumpPage k va with
            | (s, some k) => (s, k, .wait)
            | (s, none) =>
              let (s, fl) : State × Flags :=
                if k.op = 3 then s.pumpCombine k va l (leNat (k.buf.take n)) else ((s.storeBytes l (k.buf.take n)).pumpMend k va n, 0)
              let s := if newRequest va k.out then s.countHot s.core.task.asid (some (s.cid * 16 + ch)) va n else s
              let k := { k.sees true first with buf := k.buf.drop n, out := k.out + n,
                                                flags := k.flags ||| fl ||| k.raised (8 * k.out / w) (8 * (k.out + n) / w) }
              let g := va / 128
              let s := if k.writesAgain g then s else s.advance ch k.seq 1
              State.pumpStore s ch m k)
      | .wait v => (s.noteFault v .pumpWrite k.cls (some k.seq), k, .wait)
      | .bad f => (s, { k with bad := some f }, .bad)

/-- The bytes in hand written, a free number of units at a time. -/
def State.pumpWrite (s : State) (ch : Nat) (k : PumpCmd) : State × PumpCmd × Moved :=
  let (m, s) := s.drawIn 1 (max 1 k.buf.length)
  s.pumpStore ch m k

/-! ### Rows into tiles and slots -/

/-- The rows a command has written into a tile or slot. -/
def PumpCmd.mark (k : PumpCmd) (t r : Nat) (special : Bool) : PumpCmd :=
  let old := ((k.marks.find? (fun m => m.1 == t)).map (·.2)).getD 0
  { k with marks := (t, old ||| 2 ^ r ||| (if special then 2 ^ 16 else 0)) :: k.marks.filter (fun m => m.1 != t) }

/-- A resume record whose trap was taken in this cycle leaves a pump's write its elements (07 R237). -/
def Core.sparePump (c : Core) (now t r lo n : Nat) : Core :=
  match c.resume with
  | some p => (match p.w with
    | .vec v => if p.due = now then { c with resume := some { p with w := .vec { v with skip := v.skip ++ v.reached t r lo n } } } else c
    | _ => c)
  | none => c

/-- Elements of the row in hand written into the tile at `x`, each single-copy atomic, a free number of them before others have
their turn (10 R298, R308); the row of a slot, and any row of a checker, which never lags behind its leader (17 R407), is written at
once, `zero` where a whole ZERO source fills a whole slot. Is the row done? -/
def State.pumpRow (s : State) (ch : Nat) (k : PumpCmd) (x : Nat × Nat) (zero : Bool) : State × PumpCmd × Bool :=
  let (m, s) : Nat × State := match k.dst with
    | .slot _ _ => (64, s)
    | _ => if s.core.r.chk then (64 - k.part, s) else s.drawIn 1 (64 - k.part)
  let b := min 64 (k.part + m)
  let s := match k.dst with
    | .slot _ _ =>
      s.onCore (fun c =>
        if zero && (x.2 == 0 || (c.slot x.1).kind == 2) then c.putSlotZero x.1 k.fd else c.putSlotRow x.1 x.2 k.fd k.hand)
    | _ => s.onCore (fun c => if (c.tile x.1).kind = 1 then (c.putEls x.1 x.2 k.part ((k.hand.drop k.part).take m)).sparePump s.cycle x.1 x.2 k.part (b - k.part) else c)
  let k := { k with part := b, flags := k.flags ||| k.raised k.part b }
  if b < 64 then (s, k, false)
  else (s.advance ch k.seq 1, { k.mark x.1 x.2 (anySpecial (fmtOf k.fd) k.hand) with hand := [], part := 0, fls := [] }, true)

/-- The bad entry of a tile that the engine is about to write. -/
def Core.badEntry (c : Core) (e : End) (t : Nat) : Option (Nat × Nat) :=
  match e with
  | .tile _ _ => c.badOfRanges [tileWord t]
  | _ => none

/-- Is the row of a tile or slot side that the engine is about to use still being written by the core? -/
def Core.sideBusy (c : Core) (e : End) (x : Nat × Nat) : Bool :=
  match e with
  | .tile _ _ => c.rowBusy x.1 x.2
  | _ => false

/-- Does the stream of a copy cover all 16 rows of the slot that its row `i` falls in? -/
def coversSlot (a : Int) (nr i : Nat) : Bool :=
  let lo := (i : Int) - (a + i) % 16
  decide (0 ≤ lo ∧ lo + 16 ≤ nr)

/-! ### Steps of a command -/

/-- Cycles to move `n` bytes at 128 per cycle (09 Table 3). -/
def moveCycles (n : Nat) : Nat := max 1 (ceilDiv n 128)

/-- The command finished its moving: it completes once its advances are visible (09 R267). -/
def PumpCmd.finish (k : PumpCmd) (now : Nat) : PumpCmd := { k with fin := true, ready := now + 1 }

/-- A source row and the flags of its conversion; whether it is a row of a ZERO tile, slot or symbol. -/
def State.pumpSource (s : State) (ch : Nat) (k : PumpCmd) (i : Nat) : State × PumpCmd × Moved × List Nat × Bool :=
  let x := k.src.rowAt 0 i
  match s.core.badSide k.src x with
  | some (arr, _) =>
    let (s, k, m) := s.pumpLocal k arr
    (s, k, m, [], false)
  | none =>
  match k.src with
  | .sym e => (s, k, .done, e.symRow (i % 16), e.kind == 2)
  | .tile _ _ => (s, k, if s.core.rowBusy x.1 x.2 then .wait else .done, s.core.tileRow x.1 x.2, (s.core.tile x.1).kind == 2)
  | .slot _ _ => (s, k, .done, s.core.slotRow x.1 x.2, (s.core.slot x.1).kind == 2)
  | e =>
    match s.pumpFetch ch k none (e.pieces 0 (i * rowBytes k.fs) (rowBytes k.fs)) with
    | (s, k, m, bs) => (s, k, m, bytesEls k.fs bs, false)

/-- A row converted, with the flags of each element (09 R273). -/
def PumpCmd.convert (k : PumpCmd) (els : List Nat) : List Nat × List Flags :=
  if k.fs = k.fd then (els.map (fun v => v % 2 ^ (fmtOf k.fd).width), [])
  else
    let l := els.map (cvtElem (fmtOf k.fs) (fmtOf k.fd) .rne k.sat)
    (l.map (·.1), l.map (·.2))

/-- After row `pos` of the stream: the next row, or the end. -/
def PumpCmd.nextRow (k : PumpCmd) (now : Nat) : PumpCmd :=
  let k := { k with pos := k.pos + 1, out := 0, fls := [], ready := now + moveCycles (max (rowBytes k.fs) (rowBytes k.fd)) }
  if k.pos = k.nr * k.copies then k.finish now else k

/-- One row of PCOPY, PREDUCE, PBCAST or PFILL. -/
def State.rowStep (s : State) (ch : Nat) (k : PumpCmd) : State × PumpCmd :=
  let write (s : State) (k : PumpCmd) : State × PumpCmd :=
    match s.pumpWrite ch k with
    | (s, k, .done) => (s, k.nextRow s.cycle)
    | (s, k, .wait) => (s, k.again s.cycle)
    | (s, k, .bad) => (s, k)
  let i := k.pos % k.nr
  let copy := k.pos / k.nr
  let shift : Int := copy * k.dist
  let x := k.dst.rowAt shift i
  let put (s : State) (k : PumpCmd) (zero : Bool) : State × PumpCmd :=
    match s.core.badEntry k.dst x.1 with
    | some (arr, _) =>
      let (s, k, _) := s.pumpLocal k arr
      (s, k.again s.cycle)
    | none =>
      match s.pumpRow ch k x zero with
      | (s, k, true) => (s, k.nextRow s.cycle)
      | (s, k, false) => (s, k.again s.cycle)
  if !k.buf.isEmpty then write s k
  else if !k.hand.isEmpty then put s k false
  else if s.core.sideBusy k.dst x then (s, k.again s.cycle)
  else
      let (s, k, m, els, zero) : State × PumpCmd × Moved × List Nat × Bool :=
        if copy = 0 then
          (match s.pumpSource ch k i with
            | (s, k, .done, els, z) =>
              let (els, fls) := k.convert els
              (s, { k with fls := fls, rows := if k.op = 4 then k.rows ++ [els] else [] }, .done, els, z)
            | r => r)
        else (s, k, .done, k.rows.getD i [], match k.src with
          | .tile _ _ => (s.core.tile (k.src.rowAt 0 i).1).kind == 2
          | .slot _ _ => (s.core.slot (k.src.rowAt 0 i).1).kind == 2
          | _ => false)
      match m with
      | .wait => (s, k.again s.cycle)
      | .bad => (s, k)
      | .done =>
        match k.dst with
        | .mem _ _ _ _ _ _ _ => write s { k with buf := elsBytes k.fd els, out := 0 }
        | d =>
          let a : Int := match d with | .slot _ a => a + shift | _ => 0
          let aligned : Bool := match k.src with | .sym _ => true | e => (e.rowAt 0 i).2 == x.2
          put s { k with hand := els } (zero && aligned && k.fs == k.fd && coversSlot a k.nr i)

/-- Elements `0` to `n - 1` of the index list (09 R277). -/
def Core.readList (c : Core) (t n : Nat) : List Nat := tab n (fun i => c.tileElem (wrapN 12 (t + i / 1024)) (i % 1024))

/-- Is a row of the list still being written by the core? -/
def Core.listBusy (c : Core) (k : PumpCmd) (n : Nat) : Bool :=
  (List.range (ceilDiv n 64)).any (fun r => c.rowBusy (wrapN 12 (k.itile + r / 16)) (r % 16))

/-- The first bad local word of the index list. -/
def Core.badList (c : Core) (k : PumpCmd) (n : Nat) : Option (Nat × Nat) :=
  if c.badWords.isEmpty then none
  else (List.range (ceilDiv n 64)).findSome? (fun (r : Nat) => c.badOfRanges (c.rowWords (wrapN 12 ((k.itile + r / 16 : Nat) : Int), r % 16)))

/-- After a unit: the next one, or the end. -/
def PumpCmd.nextUnit (k : PumpCmd) (now : Nat) : PumpCmd :=
  let k := { k with pos := k.pos + 1, out := 0, ready := now + moveCycles k.src.unitLen }
  if k.pos = k.nr then k.finish now else k

/-- Units in hand put into rows of a tile or slot while they fill one; at the end the last row as far as they reach. Are they all
done? -/
def State.unitRows (s : State) (ch : Nat) (last : Bool) : Nat → PumpCmd → State × PumpCmd × Bool
  | 0, k => (s, k, true)
  | fuel + 1, k =>
    let rb := rowBytes k.fd
    let x := k.dst.rowAt 0 k.out
    if !k.hand.isEmpty then
      match s.pumpRow ch k x false with
      | (s, k, true) => State.unitRows s ch last fuel { k with out := k.out + 1 }
      | r => r
    else if rb ≤ k.buf.length then
      State.unitRows s ch last fuel { k with hand := bytesEls k.fd (k.buf.take rb), buf := k.buf.drop rb }
    else if last && !k.buf.isEmpty then
      let old := match k.dst with
        | .slot _ _ =>
          elsBytes k.fd (if (s.core.slot x.1).kind = 1 then s.core.slotWords x.1 x.2 (fmtOf k.fd).width else List.replicate 64 0)
        | _ => elsBytes k.fd (s.core.tileRow x.1 x.2)
      State.unitRows s ch last fuel { k with hand := bytesEls k.fd (k.buf ++ old.drop k.buf.length), buf := [] }
    else (s, k, true)

/-- Rows that the next unit of a gather reaches in its destination. -/
def PumpCmd.unitSpan (k : PumpCmd) : List (Nat × Nat) :=
  tab ((k.buf.length + k.src.unitLen) / rowBytes k.fd + 1) (fun j => k.dst.rowAt 0 (k.out + j))

/-- One unit of PGATHER, mode 0. -/
def State.gatherStep (s : State) (ch : Nat) (k : PumpCmd) : State × PumpCmd :=
  let write (s : State) (k : PumpCmd) : State × PumpCmd :=
    match s.pumpWrite ch k with
    | (s, k, .done) => (s, k.nextUnit s.cycle)
    | (s, k, .wait) => (s, k.again s.cycle)
    | (s, k, .bad) => (s, k)
  let rows (s : State) (k : PumpCmd) : State × PumpCmd :=
    match k.unitSpan.findSome? (fun x => s.core.badEntry k.dst x.1) with
    | some (arr, _) =>
      let (s, k, _) := s.pumpLocal k arr
      (s, k.again s.cycle)
    | none =>
    match s.unitRows ch (decide (k.pos + 1 = k.nr)) (2 * k.buf.length + 4) k with
    | (s, k, true) => (s, { k.nextUnit s.cycle with out := k.out })
    | (s, k, false) => (s, k.again s.cycle)
  let toMem : Bool := match k.dst with | .mem _ _ _ _ _ _ _ => true | _ => false
  if toMem && !k.buf.isEmpty then write s k
  else if !k.hand.isEmpty then rows s k
  else if !toMem && k.unitSpan.any (fun x => s.core.sideBusy k.dst x) then (s, k.again s.cycle)
  else
    let x := k.list.getD k.pos 0
    let u := k.src.unitLen
    let va := k.src.unit x
    let (s, k, m, bs) : State × PumpCmd × Moved × List Byte :=
      if x = noIndex then (s, k, .done, List.replicate u 0)
      else s.pumpFetch ch k (some va) (regionPieces va u 1 0 0 u 0 u)
    match m with
    | .wait => (s, k.again s.cycle)
    | .bad => (s, k)
    | .done => if toMem then write s { k with buf := bs, out := 0 } else rows s { k with buf := k.buf ++ bs }

/-- One unit of PGATHER in pair mode: every source unit is read before any is written (09 R277). -/
def State.pairsStep (s : State) (ch : Nat) (k : PumpCmd) : State × PumpCmd :=
  if k.pos < k.nr then
    let x := k.list.getD (2 * k.pos) 0
    let y := k.list.getD (2 * k.pos + 1) 0
    let next (k : PumpCmd) : PumpCmd :=
      let k := { k with pos := k.pos + 1, ready := s.cycle + moveCycles k.src.unitLen }
      if k.pos = k.nr then (if k.units.isEmpty then k.finish s.cycle else { k with buf := (k.units.headD (0, [])).2 }) else k
    if x = noIndex ∨ y = noIndex then (s, next k)
    else
      let u := k.src.unitLen
      let va := k.src.unit x
      match s.pumpFetch ch k (some va) (regionPieces va u 1 0 0 u 0 u) with
      | (s, k, .done, bs) => (s, next { k with units := k.units ++ [(y, bs)] })
      | (s, k, .wait, _) => (s, k.again s.cycle)
      | (s, k, .bad, _) => (s, k)
  else
    match s.pumpWrite ch k with
    | (s, k, .done) =>
      let l := k.units.drop 1
      let k := { k with units := l, out := 0, buf := (l.headD (0, [])).2, ready := s.cycle + moveCycles k.dst.unitLen }
      (s, if l.isEmpty then k.finish s.cycle else k)
    | (s, k, .wait) => (s, k.again s.cycle)
    | (s, k, .bad) => (s, k)

/-- The bytes of unit `j` of a scatter's stream side, taken from rows of tiles or slots. -/
def Core.rowBytesOf (c : Core) (k : PumpCmd) (j u : Nat) : List Byte :=
  let rb := rowBytes k.fs
  let lo := j * u / rb
  let n := (j * u % rb + u + rb - 1) / rb
  let all := (List.range n).flatMap (fun r =>
    let x := k.src.rowAt 0 (lo + r)
    elsBytes k.fs (match k.src with | .slot _ _ => c.slotRow x.1 x.2 | _ => c.tileRow x.1 x.2))
  (all.drop (j * u % rb)).take u

/-- One unit of PSCATTER; an absent index writes nothing. -/
def State.scatterStep (s : State) (ch : Nat) (k : PumpCmd) : State × PumpCmd :=
  let next (k : PumpCmd) : PumpCmd :=
    let k := { k with pos := k.pos + 1, out := 0, buf := [], ready := s.cycle + moveCycles k.dst.unitLen }
    if k.pos = k.nr then k.finish s.cycle else k
  let write (s : State) (k : PumpCmd) : State × PumpCmd :=
    match s.pumpWrite ch k with
    | (s, k, .done) => (s, next k)
    | (s, k, .wait) => (s, k.again s.cycle)
    | (s, k, .bad) => (s, k)
  if !k.buf.isEmpty then write s k
  else if k.list.getD k.pos 0 = noIndex then (s, next k)
  else
    let u := k.dst.unitLen
    match k.src with
    | .mem _ _ _ _ _ _ _ =>
      (match s.pumpFetch ch k none (k.src.pieces 0 (k.pos * u) u) with
        | (s, k, .done, bs) => write s { k with buf := bs, out := 0 }
        | (s, k, .wait, _) => (s, k.again s.cycle)
        | (s, k, .bad, _) => (s, k))
    | e =>
      let rb := rowBytes k.fs
      let busy := (List.range (u / rb + 2)).any (fun r => s.core.sideBusy e (e.rowAt 0 (k.pos * u / rb + r)))
      if busy then (s, k.again s.cycle)
      else match (List.range ((k.pos * u % rb + u + rb - 1) / rb)).findSome? (fun r => s.core.badSide e (e.rowAt 0 (k.pos * u / rb + r))) with
      | some (arr, _) =>
        let (s, k, _) := s.pumpLocal k arr
        (s, k.again s.cycle)
      | none => write s { k with buf := s.core.rowBytesOf k k.pos u, out := 0 }

/-! ### Events -/

/-- The command begins at its turn: the first data after issue + 6, + 8 with conversion, or + 6 and a memory latency; the
index list is read in 4 cycles more (09 R284). -/
def State.pumpBegin (s : State) (ch : Nat) (k : PumpCmd) : State × PumpCmd :=
  let start := max k.issued (s.core.chan ch).last
  let wait : State × PumpCmd := (s, { k with ready := s.cycle + 1 })
  let nl := if k.op = 1 ∨ k.op = 2 then (if k.mode = 1 then 2 * k.nr else k.nr) else 0
  let first : Option Nat := match k.src with
    | .mem base _ _ _ _ _ _ =>
      if k.op = 1 then ((s.core.readList k.itile nl).find? (fun x => x != noIndex)).map k.src.unit else some (wrapN 64 base)
    | _ => none
  if k.gone || k.follow || k.nr == 0 || k.copies == 0 then (s, { k with begun := true, ready := s.cycle })
  else if s.core.slotHeld k || s.core.pumpBlocked k || s.core.listBusy k nl then wait
  else match s.core.badList k nl with
  | some (arr, _) =>
    let (s, k, _) := s.pumpLocal k arr
    (s, k.again s.cycle)
  | none =>
    let list := s.core.readList k.itile nl
    let lead := (if nl = 0 then 6 else 10) + (if k.fs ≠ k.fd ∧ first.isNone then 2 else 0) + s.core.release
    match first with
    | none => (s, { k with begun := true, list := list, ready := max s.cycle (start + lead) })
    | some va =>
      if s.core.r.chk then (s, { k with begun := true, list := list, ready := max s.cycle (start + lead) })
      else
        match s.pumpMeet ch k false va 1 false none with
        | .ok _ e =>
          let (n, s) := s.drawLat va 1 e
          (s, { k with begun := true, list := list, ready := max s.cycle (start + lead + n) })
        | _ => (s, { k with begun := true, list := list, ready := max s.cycle (start + lead) })

/-- A checker's command whose destination is memory follows its leader's: advances, and the end. -/
def State.followStep (s : State) (ch : Nat) (k : PumpCmd) : State × PumpCmd :=
  match k.fwd with
  | [] => (s, { k with ready := s.cycle + 1 })
  | (at_, bs) :: t =>
    if s.cycle < at_ then (s, { k with ready := at_ })
    else if bs.isEmpty then (s, { k with fwd := t }.finish s.cycle)
    else (s.advance ch k.seq (leNat bs), { k with fwd := t, ready := s.cycle + 1 })

/-- One step of a command that has begun. -/
def State.pumpStep (s : State) (ch : Nat) (k : PumpCmd) : State × PumpCmd :=
  if k.gone then (s.advance ch k.seq k.count, k.finish s.cycle)
  else if k.follow then s.followStep ch k
  else if k.nr = 0 ∨ k.copies = 0 then (s, k.finish s.cycle)
  else
    match k.op with
    | 1 => if k.mode = 1 then s.pairsStep ch k else s.gatherStep ch k
    | 2 => s.scatterStep ch k
    | _ => s.rowStep ch k

/-- Is the head of the channel a command that moves now? -/
def Core.pumpReady (c : Core) (now ch : Nat) : Bool :=
  match c.head ch with
  | some k => k.marker.isNone && !k.fin && k.bad.isNone && decide (k.issued < now ∧ k.ready ≤ now)
  | none => false

/-- PUMP_COMMAND_START: the command at the head begins, and moves its next row or unit whenever it is ready to. -/
def execPumpCommandStart (ch : BitVec 3) (s : State) : Out :=
  let c := ch.toNat
  .next (match s.core.head c with
    | some k =>
      if s.core.pumpReady s.cycle c then
        let (s, k) := if k.begun then s.pumpStep c k else s.pumpBegin c k
        let s := if k.fin then s.forwardCmd c k.seq (fun x => if x.follow then { x with fwd := x.fwd ++ [(s.cycle + 2, [])] } else x) else s
        s.onCore (fun q => q.setHead c k)
      else s
    | none => s)

/-- WPTR_ADVANCE: advances due become visible (09 R268). -/
def execWptrAdvance (ch : BitVec 3) (s : State) : Out :=
  .next (s.onCore (fun c =>
    let h := c.chan ch.toNat
    let n := (h.adv.filter (fun a => decide (a.1 ≤ s.cycle))).foldl (fun n a => n + a.2) 0
    let c := c.modChan ch.toNat (fun h => { h with adv := h.adv.filter (fun a => decide (s.cycle < a.1)) })
    { c with r := { c.r with wptr := c.r.wptr.setIfInBounds ch.toNat ((c.wptr ch.toNat + n) % 2 ^ 64) } }))

/-- A tile that the channel holds returns: an owner flip, and a write completion where the channel wrote it (09 R269). -/
def Core.returnTile (c : Core) (now own t : Nat) (wrote : Bool) : Core :=
  if (c.tile t).own = own then
    let c := c.modTile t (fun e => e.setOwn 0 0)
    if wrote then c.completion now t else c
  else c

/-- EXC of the tiles and slots that one command wrote whole, with no special element (01 R36). -/
def Core.clearExc (c : Core) (k : PumpCmd) : Core :=
  k.marks.foldl (fun c m =>
    if m.2 = 0xFFFF then
      (match k.dst with
        | .tile _ _ => c.setStored m.1 { c.tile m.1 with exc := false }
        | .slot _ _ => { c with omd := c.omd.set {} m.1 { c.slot m.1 with exc := false } }
        | _ => c)
    else c) c

/-- Slots that a command or routine gave up: FREE in the next cycle where released (08 R242). -/
def Core.dropSlots (c : Core) (now : Nat) (l : List Nat) : Core :=
  l.foldl (fun c o => if (c.slot o).kind ≠ 0 ∧ (c.slot o).clm = false then c.push (now + 1) (.slotFree o) else c) c

/-- Commands are done: calls that they come before start in a later cycle. -/
def Core.releaseCalls (c : Core) (now : Nat) (l : List PumpCmd) : Core :=
  { c with mat := { c.mat with queue := c.mat.queue.map (fun k => if l.any k.follows then { k with after := now + 1 } else k) } }

/-- PUMP_COMMAND_COMPLETE: the command leaves the queue, its flags are raised, and the tiles no later command of the channel
names return (09 R267, R269, R273). -/
def execPumpCommandComplete (ch : BitVec 3) (s : State) : Out :=
  let n := ch.toNat
  .next (match s.core.head n with
    | some k =>
      if k.fin && k.marker.isNone && decide (k.ready ≤ s.cycle) && (s.core.chan n).adv.isEmpty then
        (s.onCore (fun c =>
          let c := ((c.modChan n (fun h => { h with queue := h.queue.drop 1, last := s.cycle })).releaseCalls s.cycle [k]).clearExc k
          let c := { c with r := c.r.raise k.flags }
          let rest := (c.chan n).queue
          let c := k.tiles.foldl (fun c t =>
            if rest.any (fun j => j.tiles.contains t) then
              (if k.wtiles.contains t then
                c.modChan n (fun h => { h with queue := h.queue.map (fun j => if j.tiles.contains t then { j with wtiles := insN t j.wtiles } else j) })
              else c)
            else c.returnTile s.cycle (n + 1) t (k.wtiles.contains t)) c
          c.dropSlots s.cycle k.slots)).settleOrder
      else s
    | none => s)

/-- PUMP_FAULT: the channel stops; what it wrote stands, later commands are discarded, its tiles return, and the fault
waits for its report (09 R285). Markers of a change behind it take effect with it. -/
def execPumpFault (ch : BitVec 3) (s : State) : Out :=
  let n := ch.toNat
  .next (match s.core.head n with
    | some k =>
      match k.bad with
      | some f =>
        let q := (s.core.chan n).queue
        let s := (s.onCore (fun c =>
          let c := ((c.modChan n (fun h => { h with queue := [], fault := some f, flags := k.flags, last := s.cycle })).releaseCalls s.cycle q).clearExc k
          let c := (dedupN (q.flatMap (fun j => j.tiles))).foldl (fun c t => c.returnTile s.cycle (n + 1) t true) c
          c.dropSlots s.cycle (dedupN (q.flatMap (fun j => j.slots))))).settleOrder
        let s := s.onCore (fun c => { c with declared := c.declared.filter (fun d => d.2.2 != some k.seq) })
        let ids := q.flatMap (fun j => match j.marker with | some (_, _, l) => l | none => [])
        let s := s.modSpace s.core.task.asid (fun sp => { sp with changes := sp.changes.map (fun x =>
          if ids.contains x.id then { x with wait := x.wait.filter (fun a => a != s.cid * 16 + n) } else x) })
        let s := s.settleChanges s.core.task.asid
        if s.leads then s.putCore (peerOf s.cid) ((s.coreAt (peerOf s.cid)).modCmd n k.seq (fun x => { x with bad := some f })) else s
      | none => s
    | none => s)

/-- MARKER_AT_HEAD: the translations of its range leave the core's translation cache (09 R281). A PINVM's marker waits for the accesses
of its core that precede the PINVM: a change that one of them follows is published by it (10 R310, R311). -/
def execMarkerAtHead (ch : BitVec 3) (s : State) : Out :=
  let n := ch.toNat
  .next (match s.core.head n with
    | some k =>
      match k.marker with
      | some (page, cnt, ids) =>
        if !k.begun && decide (k.issued < s.cycle) && (!ids.isEmpty || s.core.quietBefore k.seq 0xFFFF) then
          s.onCore (fun c =>
            { (c.setHead n { k with begun := true, ready := s.cycle + 4 }) with
              tlb := c.tlb.filter (fun p => !decide (page ≤ p ∧ p < page + cnt)) })
        else s
      | none => s
    | none => s)

/-- A PINVM's marker publishes the changes of its range to its channel (10 R310). -/
def Space.pinvm (sp : Space) (agent page n : Nat) : Space :=
  { sp with changes := sp.changes.map (fun c =>
      if c.wait.contains agent && decide (c.page < page + n ∧ page < c.page + c.n) then { c with past := c.past ++ [(agent, page, n)] } else c) }

/-- MARKER_COMPLETE: the channel has passed the marker's changes (10 R310). -/
def execMarkerComplete (ch : BitVec 3) (s : State) : Out :=
  let n := ch.toNat
  .next (match s.core.head n with
    | some k =>
      match k.marker with
      | some (page, cnt, ids) =>
        if k.begun && decide (k.ready ≤ s.cycle) then
          let s := s.onCore (fun c => c.modChan n (fun h => { h with queue := h.queue.drop 1, last := s.cycle }))
          let s := if ids.isEmpty then s.modSpace s.core.task.asid (fun sp => sp.pinvm (s.cid * 16 + n) page cnt) else s
          let s := s.modSpace s.core.task.asid (fun sp => { sp with changes := sp.changes.map (fun x =>
            if ids.contains x.id then { x with wait := x.wait.filter (fun a => a != s.cid * 16 + n) } else x) })
          s.settleChanges s.core.task.asid
        else s
      | none => s
    | none => s)

/-- PAGE_WALK_END: the page of a held P command enters the translation caches (13 R346). -/
def execPageWalkEnd (s : State) : Out :=
  .next (match s.core.hold.walk with
    | some (page, due) =>
      if due ≤ s.cycle then
        (s.fillTlb page).onCore (fun c => { c with hold := { c.hold with walk := none } })
      else s
    | none => s)

end Sys2Proof.Machine
end

