-- ==== Sys2Proof/Machine/Matrix.lean ====
section
/-! DEFINITION. The M-slot operations, the microprogram store and routine headers (08 R238 to R247, R262). -/

namespace Sys2Proof.Machine

open Sys2Proof

/-! ### Headers (08 Table 2) -/

/-- The header of a routine. -/
def Routine.header (r : Routine) : BitVec 64 := r.words.headD 0
/-- FIXED. -/
def Routine.fixed (r : Routine) : Bool := bitAt r.header 57
/-- SLOTS. -/
def Routine.slotMas (r : Routine) : List Nat := bitList 8 (fldN r.header 49 8)
/-- OUTS. -/
def Routine.outMas (r : Routine) : List Nat := bitList 8 (fldN r.header 41 8)
/-- Tiles per output argument. -/
def Routine.outTiles (r : Routine) : Nat := fldN r.header 39 2 + 1
/-- PERBLK. -/
def Routine.perBlk (r : Routine) : Bool := bitAt r.header 38

/-- A header word. -/
def headerWord (fixed : Bool) (slots outs c : Nat) (perBlk : Option (Nat × Nat)) : BitVec 64 :=
  BitVec.ofNat 64 (0x3F * 2 ^ 58 + (if fixed then 2 ^ 57 else 0) + slots * 2 ^ 49 + outs * 2 ^ 41 + (c - 1) * 2 ^ 39 +
    (match perBlk with | some (m, n) => 2 ^ 38 + m * 2 ^ 35 + n * 2 ^ 32 | none => 0))

/-- FIRST of a slot range (08 Table 4). -/
def maFirst (m : BitVec 32) : Nat := fldN m 0 6
/-- CNT of a slot range, 0 taken as 1. -/
def maCnt (m : BitVec 32) : Nat := max 1 (fldN m 8 6)
/-- TILE of an output argument (08 Table 5). -/
def maTile (m : BitVec 32) : Nat := fldN m 0 12
/-- OFMT. -/
def maOfmt (m : BitVec 32) : Nat := fldN m 12 5
/-- SAT. -/
def maSat (m : BitVec 32) : Bool := bitAt m 17
/-- KEEP. -/
def maKeep (m : BitVec 32) : Bool := bitAt m 18
/-- EXP. -/
def maExp (m : BitVec 32) : Int := sgn 8 (fldN m 19 8)

/-! ### The standard library (08 Table 8) -/

/-- A micro-word of the library. -/
def libWord (i : Instr) : BitVec 64 := (encodeU i).getD 0

/-- The words of a standard routine: the listing of 08 for routines 0 and 1, and their like for the others (log 20). ATT.SC, the
one with PERBLK, loads its one query tile for every block (08 Table 8). -/
def libWords (mode : Nat) (z skip ps : Bool) (perBlk : Option (Nat × Nat)) : List (BitVec 64) :=
  let m := BitVec.ofNat 3 mode
  let c := modeC mode
  let pre := if ps then [libWord (.mps true)] else []
  let top := 1 + pre.length
  let body := [libWord (.mlda 0 0 (if perBlk.isSome then 0 else 1) 0), libWord (.mldb m 1 0 1 0)] ++
    (if skip then [libWord (.mifz (BitVec.ofNat 11 (top + 4)))] else []) ++ [libWord (.mmac m z 0)]
  let out := libWord (.mout 0 (BitVec.ofNat 2 (c - 1)) 2 0 (if perBlk.isSome then 1 else 0) 0 true true 0 false)
  let loop := libWord (.mloop false true (if perBlk.isSome then 1 else 0) (BitVec.ofNat 11 top) 0)
  let tail := if perBlk.isSome then [out, loop] else [loop, out]
  headerWord (!z) 3 4 c perBlk :: (pre ++ body ++ tail ++ (if ps then [libWord (.mps false)] else []) ++ [libWord .mend])

/-- A standard routine. -/
def library (rix : Nat) : Option Routine :=
  let r (l : List (BitVec 64)) : Option Routine := some { base := 0, words := l }
  match rix with
  | 0 | 12 => r (libWords 0 false false false none)
  | 1 => r (libWords 0 true true false none)
  | 2 => r (libWords 1 false false false none)
  | 3 => r (libWords 1 true true false none)
  | 4 => r (libWords 2 false false false none)
  | 5 => r (libWords 2 true true false none)
  | 6 => r (libWords 3 false false false none)
  | 7 => r (libWords 4 true false false none)
  | 8 => r (libWords 5 true false false none)
  | 9 => r (libWords 0 false false true none)
  | 10 => r (libWords 1 false false true none)
  | 11 => r (libWords 0 false false false (some (1, 2)))
  | _ => none

/-- Routines packed from a micro-address on, in the order given (08 R246). -/
def packRoutines : Nat → List (Nat × List (BitVec 64)) → List (Nat × Routine)
  | _, [] => []
  | a, (k, ws) :: t => (k, { base := a, words := ws }) :: packRoutines (a + ws.length) t

/-- The routine an index names. -/
def Core.routine (c : Core) (rix : Nat) : Option Routine :=
  if rix < 64 then library rix else (c.rtns.find? (fun e => e.1 == rix)).map (·.2)

/-- The micro-address of word `k` of a routine. -/
def Core.microAddr (c : Core) (rix k : Nat) : Nat :=
  match c.routine rix with
  | some r => if rix < 64 then (Config.libraryBase rix + k) % 1024 else r.base + k
  | none => 0

/-! ### Calls -/

/-- Replacing the low byte of the MA registers that OVM names, in order, by the OV fields (03 R93). -/
def overrideMa : List Nat → BitVec 48 → Vector (BitVec 32) 8 → Vector (BitVec 32) 8
  | [], _, m => m
  | k :: t, ov, m => overrideMa t (ov >>> 8) (m.setIfInBounds k (setFld (m.toList.getD k 0) 0 (fld ov 0 8)))

/-- The call values of an MCALL. -/
def Core.callMa (c : Core) (ovm : BitVec 8) (ov : BitVec 48) : Vector (BitVec 32) 8 :=
  overrideMa (bitList 8 ovm.toNat) ov c.r.ma

/-- The blocks that PERBLK counts. -/
def Routine.blocks (r : Routine) (ma : Vector (BitVec 32) 8) : Nat :=
  if r.perBlk then max 1 (fldN (ma.toList.getD (fldN r.header 35 3) 0) 8 6 / 2 ^ fldN r.header 32 3) else 1

/-- The slots a call declares, in the order of its MA registers; one past slot 63 keeps its number. -/
def Routine.slots (r : Routine) (ma : Vector (BitVec 32) 8) : List Nat :=
  r.slotMas.flatMap (fun k => let m := ma.toList.getD k 0; tab (maCnt m) (fun j => maFirst m + j))

/-- The output tiles of a call with the format each must have; KEEP leaves an argument out unless the routine ignores
it. -/
def Routine.tiles (r : Routine) (rix : Nat) (ma : Vector (BitVec 32) 8) : List (Nat × Nat) :=
  r.outMas.flatMap (fun k =>
    let m := ma.toList.getD k 0
    if maKeep m && rix != 11 then []
    else tab (r.outTiles * r.blocks ma) (fun j => (wrapN 12 (maTile m + j), maOfmt m)))

/-- A pending matrix fault as the trap that reports it (08 R263). -/
def matTrap (f : Nat × Nat × Nat × Nat × Nat) : Trap :=
  { code := f.1, slot := 3,
    info := #v[BitVec.ofNat 64 f.2.1, BitVec.ofNat 64 f.2.2.1, BitVec.ofNat 64 f.2.2.2.2, BitVec.ofNat 64 (2 ^ 63 + f.2.2.2.1)] }

/-- An M-slot operation whose guard reads true reports a pending fault and has no effect (08 R263). -/
def State.matOp (s : State) (f : State → State) : State :=
  match s.core.mat.fault with
  | some x => s.trapSlot (matTrap x)
  | none => f s

/-- The tile checks of an MCALL (08 R243 item 4). -/
def Core.badOut (c : Core) (l : List (Nat × Nat)) : Option (Nat × Nat) :=
  l.findSome? (fun x =>
    let e := c.tile x.1
    if e.kind = 0 then some (x.1, 2)
    else if e.own ≠ 0 ∨ c.commands.any (fun k => k.tiles.contains x.1) ∨ c.mat.queue.any (fun k => k.tiles.contains x.1) ∨
        c.wl.itile = some x.1 then some (x.1, 3)
    else if e.fmt ≠ x.2 then some (x.1, 8)
    else none)

/-- An accepted call: its grants take effect at issue + 1 (08 R243). -/
def State.acceptCall (s : State) (rix : Nat) (ma : Vector (BitVec 32) 8) (tag : Bool) (slots tiles : List Nat) : State :=
  let s := s.onCore (fun c =>
    let k : Call := { rix := rix, ma := ma, tag := tag, tiles := tiles, slots := slots, issued := s.cycle, seq := c.iss.seq }
    let omd := slots.foldl (fun m o => let e := Sparse.get {} m o; Sparse.set {} m o { e with holds := e.holds + 1 }) c.omd
    tiles.foldl (fun c t => c.cancel t)
      { c with mat := { c.mat with queue := c.mat.queue ++ [k] }, omd := omd, iss := { c.iss with seq := c.iss.seq + 1 } })
  let s := tiles.foldl (fun s t => s.sched 1 (.grant t 9 none)) s
  slots.foldl (fun s o => s.sched 1 (.slotOwn o)) s

/-- MCALL. Mark: DESIGN CHOICE (log 21): an output argument whose OFMT is reserved raises ENC (02 R47), whatever its KEEP, after
the check of the routine index. -/
def execMcall (g : Guard) (rix : BitVec 10) (ovm : BitVec 8) (ov : BitVec 48) (tag : Bool) (s : State) : Out :=
  s.guarded g (fun s => s.matOp (fun s =>
    let c := s.core
    match c.routine rix.toNat with
    | none => s.trapEnc
    | some r =>
      let ma := c.callMa ovm ov
      let slots := r.slots ma
      let outs := r.tiles rix.toNat ma
      if r.outMas.any (fun k => (Fmt.ofCode (maOfmt (ma.toList.getD k 0))).isNone) then s.trapEnc
      else if 4 ≤ c.mat.queue.length then s.trapSlot { code := 0x01 }
      else
        match slots.find? (fun o => decide (64 ≤ o) || !(c.slot o).clm) with
        | some o => s.trapTile o 2 0 true
        | none =>
          match c.badOut outs with
          | some (t, why) => s.trapTile t why
          | none =>
            let ts := sortN (outs.map (·.1))
            s.promoting ts (s.acceptCall rix.toNat ma tag (sortN slots) ts)))

/-- MCLAIM. -/
def execMclaim (g : Guard) (slot : BitVec 6) (cnt : BitVec 4) (s : State) : Out :=
  s.guarded g (fun s => s.matOp (fun s =>
    match (tab (cnt.toNat + 1) (fun k => slot.toNat + k)).find? (fun o => (s.core.slot o).clm) with
    | some o => s.trapTile o 4 0 true
    | none => s.sched 1 (.claim slot.toNat (cnt.toNat + 1))))

/-- MREL: an effect that leaves a pair once (08 R242, 17 R409). -/
def execMrel (g : Guard) (slot : BitVec 6) (cnt : BitVec 4) (s : State) : Out :=
  s.guarded g (fun s => s.matOp (fun s =>
    match (tab (cnt.toNat + 1) (fun k => slot.toNat + k)).find? (fun o => !(s.core.slot o).clm) with
    | some o => s.trapTile o 2 0 true
    | none =>
      s.effect 0x202 slot.toNat [cnt.toNat] (fun s => s.sched (1 + s.core.release) (.release slot.toNat (cnt.toNat + 1)))
        (fun _ s => s.sched 1 (.release slot.toNat (cnt.toNat + 1)))))

/-- Does MWAIT hold: more than `k` routines queued, or a tagged one? A routine that ends in this cycle counts until the
next (08 R245). -/
def Core.mwaits (c : Core) (now k : Nat) (t : Bool) : Bool :=
  let gone := if c.mat.ended.1 = now ∧ 0 < now then c.mat.ended.2 else []
  if t then c.mat.queue.any (fun q => q.tag) || gone.any id
  else decide (k < c.mat.queue.length + gone.length)

/-- MWAIT. -/
def execMwait (g : Guard) (k : BitVec 2) (t : Bool) (s : State) : Out :=
  s.guarded g (fun s => s.matOp (fun s => if s.core.mwaits s.cycle k.toNat t then s.wait else s))

end Sys2Proof.Machine
end

