-- ==== Sys2Proof/Machine/Objects.lean ====
section
/-! DEFINITION. Objects: the operations of their table at the home slice, destruction and reclaim by the Drain engine
(06 R198 to R206, 13 R358 to R361, 10 R306, R314). -/

namespace Sys2Proof.Machine

open Sys2Proof

/-! ### The table -/

/-- Word `k` of an entry (06 Table 8). -/
def Obj.word (o : Obj) (k : Nat) : Word :=
  let n := o.ustamp % 2 ^ 32 * 2 ^ 160 + (if o.cow then 2 ^ 150 else 0) + o.state % 4 * 2 ^ 148 + o.prio % 16 * 2 ^ 144 +
    o.gen % 2 ^ 16 * 2 ^ 128 + o.weak % 2 ^ 16 * 2 ^ 112 + o.strong % 2 ^ 16 * 2 ^ 96 + o.pages % 2 ^ 32 * 2 ^ 64 + o.base % 2 ^ 48
  BitVec.ofNat 64 (n / 2 ^ (64 * k))

/-- What the bits of an object cache keep of a count (13 R359). -/
def strongClass (n : Nat) : Nat := min n 2

/-- An entry replaced; a change of STATE, GEN or COW, or of STRONG between 0, 1 and 2, invalidates it in every object
cache of the space (13 R359). -/
def State.putObj (s : State) (asid oid : Nat) (o : Obj) : State :=
  let old := (s.space asid).objs.get {} oid
  let s := s.modSpace asid (fun sp => { sp with objs := sp.objs.set {} oid o })
  if o.state = old.state ∧ o.gen = old.gen ∧ o.cow = old.cow ∧ strongClass o.strong = strongClass old.strong then s
  else s.mapCores (fun _ c => if c.task.asid = asid then { c with ocache := c.ocache.filter (fun x => x != oid) } else c)

/-- Level 4 entries of the space's own nodes listed for `n` pages from `page` on. -/
def Space.listed (sp : Space) (page n : Nat) : Nat :=
  let k := pteKey 4 (page * 4096)
  (sp.ptes.filter (fun e => decide (k ≤ e.1 ∧ e.1 < k + n))).length

/-- Leaves written for pages of an object: key and entry. -/
def Space.leavesOf (sp : Space) (oid : Nat) : List (Nat × BitVec 128) :=
  sp.ptes.filter (fun e => pteV e.2 && pteLeaf e.2 && pteObjv e.2 && pteOid e.2 == oid)

/-- 4 KiB pages that an entry maps. -/
def ptePages (e : BitVec 128) : Nat := if ptePs e = 2 then 512 else 1

/-- The two runs of an object's pages, on die 0 and on die 1: first page of the run, its length. -/
def Obj.runs (o : Obj) : List (Nat × Nat) :=
  [(0, min o.onDie0 o.mapped), (o.onDie0, o.mapped - o.onDie0)].filter (fun r => r.2 != 0)

/-- Pages of an object that lie where they were placed, by count of free pages, and those whose leaves were written since. -/
def Space.placedPages (sp : Space) (oid : Nat) (o : Obj) : List (Nat × Nat) :=
  (o.runs.map (fun r => (freeIx o.tier (o.frameOf r.1), min r.2 (o.pages - r.1) - sp.listed (o.base / 4096 + r.1) r.2))) ++
    (sp.leavesOf oid).map (fun e => (freeIx (pteTier e.2) (pteFrame e.2), ptePages e.2))

/-- Pages that an object has in a tier of a die (13 R361). -/
def Space.pagesOn (sp : Space) (oid : Nat) (o : Obj) (die tier : Nat) : Nat :=
  ((sp.placedPages oid o).filter (fun p => p.1 == 3 * die + tier)).foldl (fun n p => n + p.2) 0

/-- The prior entries of an object's pages: its runs, and the leaves written since. -/
def Space.priorsOf (sp : Space) (oid : Nat) (o : Obj) : List (Nat × Nat × BitVec 128) :=
  (sp.leavesOf oid).map (fun e => (e.1, 1, e.2)) ++
    o.runs.map (fun r => (pteKey 4 (o.base + 4096 * r.1), r.2, o.leaf oid r.1))

/-- The pages of an object are unmapped: its entry changes, entries written for its pages go, and its frames return once
every marker has completed (06 R202, 13 R347). -/
def State.unmapObj (s : State) (asid oid : Nat) (old new : Obj) : State :=
  let sp := s.space asid
  let s := s.putObj asid oid new
  if old.pages = 0 then s
  else
    let k := pteKey 4 old.base
    let s := s.modSpace asid (fun sp =>
      { sp with ptes := sp.ptes.filter (fun e => !(decide (k ≤ e.1 ∧ e.1 < k + old.mapped) || (pteV e.2 && pteLeaf e.2 && pteObjv e.2 && pteOid e.2 == oid))) })
    s.publish asid (sp.priorsOf oid old) (old.base / 4096) old.mapped (sp.placedPages oid old)

/-- A COW object's STRONG has risen above 1: its pages are mapped with W = 0, by the change sequence where a leaf had W
(13 R347, R352). -/
def State.cowShare (s : State) (asid oid : Nat) : State :=
  let sp := s.space asid
  let o := sp.objs.get {} oid
  if !o.shared || !o.write then s
  else
    let writable := (sp.leavesOf oid).filter (fun e => pteW e.2)
    if o.ro && writable.isEmpty then s
    else
      let s := s.modSpace asid (fun sp =>
        { sp with objs := sp.objs.set {} oid { o with ro := true },
                  ptes := sp.ptes.map (fun e => if pteV e.2 && pteLeaf e.2 && pteObjv e.2 && pteOid e.2 == oid then (e.1, setFld e.2 3 0#1) else e) })
      s.publish asid (if o.ro then writable.map (fun e => (e.1, 1, e.2)) else sp.priorsOf oid o) (o.base / 4096) o.mapped []

/-- An entry after its STRONG or WEAK fell (06 R202): without references it becomes FREE with a new generation; weakly
held it stays LIVE and the Drain engine may take it. -/
def State.dropped (s : State) (asid oid : Nat) (old new : Obj) : State :=
  if new.state = 1 ∧ new.strong = 0 ∧ new.weak = 0 then s.unmapObj asid oid old { new with state := 0, gen := new.gen + 1 }
  else if new.state = 2 ∧ new.weak = 0 then s.putObj asid oid { new with state := 0 }
  else
    let s := s.putObj asid oid new
    if new.state = 1 ∧ new.strong = 0 then [0, 1, 2].foldl State.drainCheck s else s

/-- Destruction: STATE := GONE and GEN + 1 in one step, only while STRONG is 0 (06 R202). -/
def State.destroyObj (s : State) (asid oid : Nat) : State :=
  let o := (s.space asid).objs.get {} oid
  if o.state = 1 ∧ o.strong = 0 then s.unmapObj asid oid o { o with state := 2, gen := o.gen + 1 } else s

/-! ### Victims (06 R202) -/

/-- Age of an object: the distance back from the current sequence. -/
def State.age (s : State) (o : Obj) : Nat := (s.ustamp + 2 ^ 32 - o.ustamp % 2 ^ 32) % 2 ^ 32

/-- Weakly held objects of every space that have pages in a tier, on a die where one is given. -/
def State.eligible (s : State) (die : Option Nat) (tier : Nat) : List (Nat × Nat × Obj) :=
  s.spaces.flatMap (fun (e : Nat × Space) => e.2.objs.filterMap (fun (p : Nat × Obj) =>
    let o : Obj := p.2
    let n (d : Nat) : Nat := e.2.pagesOn p.1 o d tier
    let here : Bool := match die with
      | none => n 0 != 0 || n 1 != 0
      | some d => n d != 0
    if o.state = 1 ∧ o.strong = 0 ∧ 0 < o.weak ∧ here then some (e.1, p.1, o) else none))

/-- The next victim: lowest PRIO, then oldest; among equals any, by a free value. -/
def State.victim (s : State) (die : Option Nat) (tier : Nat) : Option (Nat × Nat) × State :=
  let l := s.eligible die tier
  match l with
  | [] => (none, s)
  | x :: t =>
    let prio := t.foldl (fun m e => min m e.2.2.prio) x.2.2.prio
    let l := l.filter (fun e => e.2.2.prio == prio)
    let age := l.foldl (fun m e => max m (s.age e.2.2)) 0
    let l := l.filter (fun e => s.age e.2.2 == age)
    if l.length = 1 then (l.head?.map (fun e => (e.1, e.2.1)), s)
    else
      let (k, s) := s.draw
      ((l.getD (k % l.length) x |> fun e => some (e.1, e.2.1)), s)

/-- DRAIN_RECLAIM: one destruction, and the next about 200 cycles later, until the count reaches FREEHI, taken as at least
FREELO, or no eligible object remains (13 R360). -/
def execDrainReclaim (die : BitVec 1) (tier : BitVec 2) (s : State) : Out :=
  let k := 3 * die.toNat + tier.toNat
  let lo := s.freeLo.toList.getD k 0
  let hi := max lo (s.freeHi.toList.getD k 0)
  let s := { s with drains := s.drains.filter (fun x => x.2 != (die.toNat, tier.toNat)) }
  .next (if lo = 0 ∨ hi ≤ s.freePages.toList.getD k 0 then s
    else match s.victim (some die.toNat) tier.toNat with
      | (some (asid, oid), s) =>
        let s := s.destroyObj asid oid
        { s with drains := s.drains ++ [(s.cycle + 200, die.toNat, tier.toNat)] }
      | (none, s) => s)

/-! ### At the home slice -/

/-- An answer of the home slice: a trap, or the H, X and Q results. -/
abbrev ObjAns := Option Trap × Handle × Word × Bool

/-- HANDLE, naming the register. -/
def ansHandle (ha : HReg) : ObjAns := (some { code := 0x06, info := #v[0, ha.setWidth 64, 0, 0] }, 0, 0, false)
/-- RCSAT, naming the object. -/
def ansRcsat (oid : Nat) : ObjAns := (some { code := 0x07, info := #v[0, BitVec.ofNat 64 oid, 0, 0] }, 0, 0, false)
/-- Results. -/
def ansOk (h : Handle) (x : Word) (q : Bool) : ObjAns := (none, h, x, q)

/-- A handle with another KIND. -/
def Handle.withKind (h : Handle) (k : Nat) : Handle := setFld h 252 (BitVec.ofNat 4 k)

/-- An OBJS handle of an object (06 R201). -/
def objHandle (oid gen : Nat) : Handle := BitVec.ofNat 256 (3 * 2 ^ 252 + gen % 2 ^ 16 * 2 ^ 96 + oid % 2 ^ 32 * 2 ^ 64)

/-- Objects may be allocated where the entry is FREE and its GEN below 0xFFFF (06 R201). -/
def Space.allocatable (sp : Space) (oid : Nat) : Bool :=
  let o := sp.objs.get {} oid
  o.state == 0 && decide (o.gen < 0xFFFF)

/-- The first entry from `k` on that may be allocated, among the next `n`. -/
def Space.freeFrom (sp : Space) : Nat → Nat → Option Nat
  | 0, _ => none
  | n + 1, k => if sp.allocatable k then some k else sp.freeFrom n (k + 1)

/-- A FREE entry: any of the table, by a free value; the table grows in steps of 65536 entries up to 2^24 (13 R358). An
entry that is not listed is FREE, so a search as long as the list is enough. -/
def Space.pickOid (sp : Space) (k : Nat) : Option (Nat × Nat) :=
  let fuel := sp.objs.length + 1
  match sp.freeFrom (min fuel (sp.osize - k % sp.osize)) (k % sp.osize) with
  | some o => some (o, sp.osize)
  | none => match sp.freeFrom (min fuel sp.osize) 0 with
    | some o => some (o, sp.osize)
    | none => if sp.osize < 2 ^ 24 then some (sp.osize, sp.osize + 65536) else none

/-- Free pages of a tier on both dies, die 0's in whole leaves of `u` pages, so that a leaf does not lie on both. -/
def State.freeBoth (s : State) (tier u : Nat) : Nat :=
  s.freePages.toList.getD tier 0 / u * u + s.freePages.toList.getD (3 + tier) 0

/-- Free pages of a tier with those of destroyed objects whose markers have not completed. -/
def State.freeSoon (s : State) (tier u : Nat) : Nat :=
  s.freeBoth tier u + (s.spaces.flatMap (fun e => e.2.changes.flatMap (fun c => c.back.filter (fun p => p.1 == tier || p.1 == 3 + tier)))).foldl
    (fun n p => n + p.2) 0

/-! ### Pages of host memory (20 R426) -/

/-- Pages of host memory that a space uses: of its objects and regions, of entries written, of changes and moves under way. -/
def Space.hostPages (sp : Space) : List Nat :=
  let free (page : Nat) : Bool := (sp.ptes.find (pteKey 4 (page * 4096))).isNone
  let ofEntry (n : Nat) (e : BitVec 128) : List Nat :=
    if pteV e && pteLeaf e && pteTier e == 2 then tab (n * ptePages e) (fun k => pteFrame e + k) else []
  sp.objs.flatMap (fun e => if e.2.state = 1 ∧ e.2.tier = 2 then
      ((List.range e.2.mapped).filter (fun k => free (e.2.base / 4096 + k))).map e.2.frameOf else []) ++
    sp.regions.flatMap (fun r => if pteTier r.pte = 2 then ((List.range r.n).filter (fun k => free (r.page + k))).map (fun k => pteFrame r.pte + k) else []) ++
    sp.ptes.flatMap (fun e => ofEntry 1 e.2) ++ sp.changes.flatMap (fun c => c.olds.flatMap (fun o => ofEntry o.2.1 o.2.2)) ++
    sp.moving.flatMap (fun m => if m.tier = 2 then tab m.n (fun k => m.frame + k) else [])

/-- Pages of host memory in use. -/
def State.hostUsed (s : State) : List Nat := s.spaces.flatMap (fun e => e.2.hostPages)

/-- Pages that the host has supplied and that nothing uses. -/
def State.hostFree (s : State) : List Nat :=
  let used := s.hostUsed
  (s.host.bus.flatMap (fun r => tab r.2 (fun k => r.1 + k))).filter (fun p => !used.contains p)

/-- `pages` pages of host memory: any free ones where leaves are of one page, else a run that whole leaves of `u` pages cover. -/
def State.hostPick (s : State) (pages u : Nat) : Option (List Nat) :=
  let l := s.hostFree
  if u = 1 then (if l.length < pages then none else some (l.take pages))
  else
    let n := ceilDiv pages u * u
    (l.find? (fun p => p % u == 0 && (List.range n).all (fun k => l.contains (p + k)))).map (fun p => tab n (fun k => p + k))

/-- Entries written for the pages of a run that do not follow the frame of its first one: page `k` of it has frame `l[k]`, its entry
else that of page 0. -/
def Space.scatter (sp : Space) (page : Nat) (e : BitVec 128) (l : List Nat) : Space :=
  { sp with ptes := ((List.range l.length).zip l).foldl (fun p x =>
      if x.2 = pteFrame e + x.1 then p else p.put (pteKey 4 ((page + x.1) * 4096)) (setFld e 12 (BitVec.ofNat 40 x.2))) sp.ptes }

/-- Physical pieces of pages of host memory. -/
def hostBytes (l : List Nat) : List (Nat × Nat) := l.map (fun p => (2 ^ 52 + p * 4096, 4096))

/-! ### Frames -/

/-- Frames 64 KiB apart: the next one that objects are placed from. -/
def State.frame16 (s : State) : Nat := (s.nextFrame + 15) / 16 * 16

/-- Frames found for `pages` pages in leaves of `u`: in host memory their list; else none are named, and they follow one another. -/
def State.findFrames (s : State) (pages tier u : Nat) : Option (List Nat) := if tier = 2 then s.hostPick pages u else some []

/-- An object with the frames found for it: its first one, and how many of its pages are on die 0, in whole leaves, as many as fit. -/
def Obj.inFrames (o : Obj) (s : State) (l : List Nat) : Obj :=
  let u := 2 ^ (4 * o.ps)
  { o with frame := if o.tier = 2 then l.headD 0 else s.frame16,
           onDie0 := if o.tier = 2 then o.mapped else min o.mapped (s.freePages.toList.getD o.tier 0 / u * u) }

/-- The machine with the counts and the frames as an object leaves them. -/
def State.takeFrames (s : State) (o : Obj) : State :=
  let d0 := min o.pages o.onDie0
  { s with freePages := takePages (takePages s.freePages o.tier d0) (3 + o.tier) (o.pages - d0),
           nextFrame := if o.tier = 2 then s.nextFrame else s.frame16 + (o.pages + 15) / 16 * 16 }

/-- The bytes of an object's frames; `l` are those of host memory. -/
def Obj.bytes (o : Obj) (l : List Nat) : List (Nat × Nat) :=
  if o.tier = 2 then hostBytes l else o.runs.map (fun r => (o.frameOf r.1 * 4096, r.2 * 4096))

/-- Every byte of the pieces reads as zero, and their words are good (17 R403). -/
def State.zeroBytes (s : State) (l : List (Nat × Nat)) : State :=
  { s with mem := s.mem.filter (fun e => !l.any (fun r => decide (r.1 ≤ e.1 ∧ e.1 < r.1 + r.2))), unc := s.unc.filter (fun u => !covers l u) }

/-- An object placed in the frames found for it, every byte zero, at entry `oid` of a table of `size` entries. -/
def State.newObj (s : State) (asid oid size : Nat) (o : Obj) (l : List Nat) : State :=
  let s := ((s.takeFrames o).zeroBytes (o.bytes l)).modSpace asid (fun sp => { sp.scatter (o.base / 4096) (o.leaf oid 0) l with osize := size })
  (s.putObj asid oid o).drainCheck o.tier

/-- OALLOC once its pages are free (06 R201): entry, base address, frames and the placement on the dies are the
machine's own; every byte reads zero. It answers NULL where the table has no entry for it. Mark: DESIGN CHOICE (log 18): also where the
space has no such run of addresses left, of which the rule says nothing. -/
def State.allocObj (s : State) (pages : Nat) (prio : BitVec 4) (cow : Bool) (fmt : BitVec 5) (geom tier : BitVec 2)
    (write : Bool) (l : List Nat) : State × ObjAns :=
  let asid := s.core.task.asid
  let (k, s) := s.draw
  let (b, s) := s.draw
  let sp := s.space asid
  let first := (sp.nextVa + 65535) / 65536 * 16 + b % 2 ^ 16 * 16
  let room := (pages + 15) / 16 * 16
  match sp.pickOid k, sp.spot first room with
  | some (oid, size), some page =>
    let gen := (sp.objs.get {} oid).gen
    let o : Obj :=
      { ustamp := s.ustamp, cow := cow, state := 1, prio := prio.toNat, gen := gen, weak := 0, strong := 1, pages := pages,
        base := page * 4096, fmt := fmt.toNat, geom := geom.toNat, tier := tier.toNat, write := write }
    let s := s.newObj asid oid size (o.inFrames s l) l
    (s.modSpace asid (fun sp => { sp with nextVa := if page = first then (page + room) * 4096 else sp.nextVa }), ansOk (objHandle oid gen) 0 false)
  | _, _ => (s, ansOk 0 0 true)

/-- One operation on an entry (06 Table 9, R203 to R205). -/
def State.objHome (s : State) (i : Instr) (h : Handle) : State × ObjAns :=
  let asid := s.core.task.asid
  let oid := h.oid
  let o := (s.space asid).objs.get {} oid
  let live := h.gen = o.gen ∧ o.state = 1
  match i with
  | .oref _ _ ha =>
    if h.gen ≠ o.gen ∨ o.strong = 0 then (s, ansHandle ha)
    else if 0xFFFF ≤ o.strong then (s, ansRcsat oid)
    else ((s.putObj asid oid { o with strong := o.strong + 1 }).cowShare asid oid, ansOk h 0 false)
  | .odrop _ ha =>
    if h.gen ≠ o.gen then (s, ansHandle ha)
    else if o.strong = 0 then (s, ansRcsat oid)
    else (s.dropped asid oid o { o with strong := o.strong - 1 }, ansOk 0 0 false)
  | .oweak _ _ ha =>
    if h.gen ≠ o.gen ∨ o.strong = 0 then (s, ansHandle ha)
    else if 0xFFFF ≤ o.weak then (s, ansRcsat oid)
    else (s.putObj asid oid { o with weak := o.weak + 1 }, ansOk (Handle.withKind h 4) 0 false)
  | .ounweak _ _ _ =>
    if live then
      if o.weak = 0 then (s, ansRcsat oid)
      else (s.dropped asid oid o { o with weak := o.weak - 1 }, ansOk 0 0 false)
    else if o.state = 2 ∧ h.gen + 1 = o.gen then
      (if o.weak = 0 then s else s.dropped asid oid o { o with weak := o.weak - 1 }, ansOk 0 0 true)
    else (s, ansOk 0 0 true)
  | .oupg _ _ _ _ =>
    if live then
      if 0xFFFF ≤ o.strong then (s, ansRcsat oid)
      else
        let n := (s.ustamp + 1) % 2 ^ 32
        (({ s with ustamp := n }.putObj asid oid { o with strong := o.strong + 1, ustamp := n }).cowShare asid oid, ansOk (Handle.withKind h 3) 0 false)
    else (s, ansOk 0 0 true)
  | .oprio _ ha _ prio =>
    if live then (s.putObj asid oid { o with prio := prio.toNat }, ansOk 0 0 false)
    else if h.kind = 3 ∧ h.gen ≠ o.gen then (s, ansHandle ha)
    else (s, ansOk 0 0 true)
  | .ostat _ _ _ k => (s, ansOk 0 (o.word k.toNat) false)
  | _ => (s, ansOk 0 0 false)

/-- An object operation under way replaced. -/
def State.setObj (s : State) (op : ObjOp) : State :=
  s.onCore (fun c => { c with hold := { c.hold with obj := c.hold.obj.map (fun o => if o.pcv = op.pcv then op else o) } })

/-- The opcode of an object operation (06 Table 9). -/
def objCode (i : Instr) : Nat :=
  match i with
  | .oalloc _ _ _ _ _ _ _ _ _ _ => 0xA0
  | .oref _ _ _ => 0xA1
  | .odrop _ _ => 0xA2
  | .oweak _ _ _ => 0xA3
  | .ounweak _ _ _ => 0xA4
  | .oupg _ _ _ _ => 0xA5
  | .oprio _ _ _ _ => 0xA6
  | .ostat _ _ _ _ => 0xA7
  | _ => 0

/-- The answer kept for the bundle; the log of a pair keeps the results: the effect has been released (17 R409). -/
def State.objAnswer (s : State) (op : ObjOp) (a : ObjAns) : State :=
  let s := s.setObj { op with ans := some a }
  if s.core.r.prot && s.core.segOpen then
    let l : List Write := match op.i with
      | .oalloc _ hd _ xc _ _ _ _ _ _ => [.h hd a.2.1, .q xc a.2.2.2]
      | .oref _ hd _ | .oweak _ hd _ => [.h hd a.2.1]
      | .ounweak _ _ xc | .oprio _ _ xc _ => [.q xc a.2.2.2]
      | .oupg _ hd _ xc => [.h hd a.2.1, .q xc a.2.2.2]
      | .ostat _ hd _ _ => [.x hd a.2.2.1]
      | _ => []
    let e (c : Core) : LogEntry :=
      { op := objCode op.i, addr := op.h.oid, src := [op.h.toNat, op.x.toNat], ret := l, adv := 0, used := true, at_ := 0, seq := c.iss.seq, trap := a.1 }
    s.onPair (fun c => { c with log := c.log ++ [e c] })
  else s

/-- One object operation performed at its home slice. An OALLOC that finds too few pages destroys one victim, and goes on
until it fits, waiting for the markers of what it needs, or none is left; then it fails (13 R360, 14 R365). -/
def State.objPerform (s : State) (op : ObjOp) : State :=
  match op.i with
  | .oalloc _ _ _ _ prio cow fmt geom tier write =>
    let bytes := op.x.toNat
    let pages := (bytes + 4095) / 4096
    let u := 2 ^ (4 * ({ fmt := fmt.toNat, geom := geom.toNat } : Obj).ps)
    if bytes = 0 ∨ 2 ^ 40 < bytes then s.objAnswer op (ansOk 0 0 true)
    else match if pages ≤ s.freeBoth tier.toNat u then s.findFrames pages tier.toNat u else none with
      | some l =>
        let (s, a) := s.allocObj pages prio cow fmt geom tier write l
        s.objAnswer op a
      | none =>
        if s.freeBoth tier.toNat u < pages ∧ pages ≤ s.freeSoon tier.toNat u then s.setObj { op with due := s.cycle + 4, reclaims := true }
        else
          match s.victim none tier.toNat with
          | (some (asid, oid), s) => (s.destroyObj asid oid).setObj { op with due := s.cycle + 200, reclaims := true }
          | (none, s) => s.objAnswer op (ansOk 0 0 true)
  | i =>
    let (s, a) := s.objHome i op.h
    s.objAnswer op a

/-- The object operation that acts at its home slice now: no FENCE before it has accesses to wait for (10 R306). Mark: DESIGN CHOICE (log
57): while such an access waits for Shogiwald, so does a pre-emption that finds the operation under way. -/
def State.nextObj (s : State) : Option ObjOp :=
  s.core.hold.obj.find? (fun op => decide (op.due ≤ s.cycle) && op.ans.isNone && !s.core.mu.any (fun i => i.isFence && decide (i.seq < op.seq)))

/-- OBJECT_OP_HOME: an object operation or the object check of the holding bundle reaches its home slice in destruction
order and is answered. -/
def execObjectOpHome (s : State) : Out :=
  .next (
    let s : State := match s.core.hold.chk with
      | some (oid, due) =>
        if due ≤ s.cycle then
          s.onCore (fun c => { c with ocache := (c.ocache ++ [oid]).drop ((c.ocache.length + 1) - 64), hold := { c.hold with chk := none } })
        else s
      | none => s
    match s.nextObj with
    | some op => s.objPerform op
    | none => s)

/-! ### At issue -/

/-- The object operation that the issuing bundle has sent. -/
def Core.sentObj (c : Core) : Option ObjOp := c.hold.obj.find? (fun o => o.pcv == c.pairValue)

/-- An object operation holds issue until its home slice has answered, and issues with the answer (06 R199). -/
def State.objOp (s : State) (i : Instr) (h : Handle) (x : Word) (lo hi : Nat) (finish : State → ObjAns → State) : State :=
  let src := [h.toNat, x.toNat]
  if s.core.log.any (fun e => !e.used) then
    s.effect (objCode i) h.oid src (fun s => s) LogEntry.deliver
  else
    match s.core.sentObj with
    | some { ans := some a, .. } =>
      (match a.1 with
        | some t => s.trapSlot { t with slot := s.core.iss.slot }
        | none => finish (s.onCore (fun c => c.sign (23 :: objCode i :: h.oid :: src))) a)
    | some _ => s.wait
    | none =>
      let (n, s) := s.drawIn lo hi
      (s.onCore (fun c =>
        let op : ObjOp := { seq := c.iss.seq, pcv := c.pairValue, i := i, h := h, x := x, due := s.cycle + n + c.release, reclaims := false, ans := none }
        { c with hold := { c.hold with obj := c.hold.obj ++ [op] } })).wait

/-- An operation on the object that a handle of an accepted kind names; HANDLE for another kind, or an OID beyond the table
(01 R19, 13 R358). -/
def State.objOn (s : State) (i : Instr) (ha : HReg) (kinds : List Nat) (finish : State → ObjAns → State) : State :=
  let h := s.core.h ha
  let ok := kinds.contains h.kind && decide (h.oid < (s.space s.core.task.asid).osize)
  if s.core.sentObj.isNone && !ok then s.trapHandle ha else s.objOp i h 0 40 220 finish

/-- OALLOC. -/
def execOalloc (g : Guard) (hd : HReg) (xb : XReg) (xc : QReg) (prio : BitVec 4) (cow : Bool) (fmt : BitVec 5)
    (geom tier : BitVec 2) (write : Bool) (s : State) : Out :=
  s.guarded g (fun s =>
    s.objOp (.oalloc g hd xb xc prio cow fmt geom tier write) 0 (s.core.x xb) 300 2000 (fun s a =>
      (s.sched 3 (.h hd a.2.1)).sched 3 (.q xc a.2.2.2)))

/-- OREF. -/
def execOref (g : Guard) (hd ha : HReg) (s : State) : Out :=
  s.guarded g (fun s => s.objOn (.oref g hd ha) ha [3] (fun s a => s.sched 3 (.h hd a.2.1)))

/-- ODROP. -/
def execOdrop (g : Guard) (ha : HReg) (s : State) : Out :=
  s.guarded g (fun s => s.objOn (.odrop g ha) ha [3] (fun s _ => s))

/-- OWEAK. -/
def execOweak (g : Guard) (hd ha : HReg) (s : State) : Out :=
  s.guarded g (fun s => s.objOn (.oweak g hd ha) ha [3] (fun s a => s.sched 3 (.h hd a.2.1)))

/-- OUNWEAK. -/
def execOunweak (g : Guard) (ha : HReg) (xc : QReg) (s : State) : Out :=
  s.guarded g (fun s => s.objOn (.ounweak g ha xc) ha [4] (fun s a => s.sched 3 (.q xc a.2.2.2)))

/-- OUPG: NULL where the object is gone. -/
def execOupg (g : Guard) (hd ha : HReg) (xc : QReg) (s : State) : Out :=
  s.guarded g (fun s => s.objOn (.oupg g hd ha xc) ha [4] (fun s a => (s.sched 3 (.h hd a.2.1)).sched 3 (.q xc a.2.2.2)))

/-- OPRIO. -/
def execOprio (g : Guard) (ha : HReg) (xc : QReg) (prio : BitVec 4) (s : State) : Out :=
  s.guarded g (fun s => s.objOn (.oprio g ha xc prio) ha [3, 4] (fun s a => s.sched 3 (.q xc a.2.2.2)))

/-- OSTAT. -/
def execOstat (g : Guard) (hd : XReg) (ha : HReg) (k : BitVec 2) (s : State) : Out :=
  s.guarded g (fun s => s.objOn (.ostat g hd ha k) ha [3, 4] (fun s a => s.sched 3 (.x hd a.2.2.1)))

end Sys2Proof.Machine
end

