-- ==== Sys2Proof/Machine/Loader.lean ====
section
/-! DEFINITION. The loader: a linked object file placed in an address space (04 R127 to R137, 08 R246, R247). -/

namespace Sys2Proof.Machine

open Sys2Proof

/-! ### The file (04 R130 to R134) -/

/-- A section: its entry of the section table, with its content (none in the file for BSS). -/
structure Sect where
  kind  : Nat
  kern  : Nat
  size  : Nat
  fmt   : Nat
  geom  : Nat
  tier  : Nat
  attr  : Nat
  bytes : List Byte
  deriving DecidableEq, Repr

/-- The section whose entry lies at offset `o` of a file; an unknown KIND or content outside the file is refused. -/
def sectAt (file : List Byte) (o : Nat) : Option Sect :=
  let kind := cut file o 4
  let off := cut file (o + 8) 8
  let size := cut file (o + 16) 8
  if kind = 0 ∨ 12 < kind ∨ file.length < o + 32 ∨ (kind ≠ 6 ∧ file.length < off + size) then none
  else some { kind := kind, kern := cut file (o + 4) 4, size := size, fmt := cut file (o + 24) 1, geom := cut file (o + 25) 1,
              tier := cut file (o + 26) 1, attr := cut file (o + 27) 1,
              bytes := if kind = 6 then [] else (file.drop off).take size }

/-- Every element an answer, or none. -/
def allSome {α : Type} : List (Option α) → Option (List α)
  | [] => some []
  | x :: t => match x, allSome t with
    | some a, some l => some (a :: l)
    | _, _ => none

/-- A linked file: its kernel count, its string section and its sections. -/
structure Tof where
  nkern : Nat
  strs  : Nat
  sects : List Sect
  deriving DecidableEq, Repr

/-- The file's header and section table read. Mark: DESIGN CHOICE (log 34): a file whose reserved FLAGS bits are not 0 is
refused. -/
def readTof (file : List Byte) : Option Tof :=
  if cut file 0 4 ≠ 0x01464F54 ∨ cut file 4 2 ≠ 1 ∨ cut file 6 2 ≠ 1 ∨ cut file 24 8 ≠ 0 ∨ file.length < 32 then none
  else
    let n := cut file 8 4
    let o := cut file 12 4
    if file.length < o + 32 * n then none
    else match allSome (tab n (fun k => sectAt file (o + 32 * k))) with
      | some l => some { nkern := cut file 16 4, strs := cut file 20 4, sects := l }
      | none => none

/-- The zero-terminated string at an offset of the string section. -/
def Tof.str (f : Tof) (o : Nat) : List Byte :=
  match f.sects[f.strs]? with
  | some s => (s.bytes.drop o).takeWhile (fun b => b != 0)
  | none => []

/-- Records of a size in the sections of a kind. -/
def Tof.records (f : Tof) (kind size : Nat) : List (List Byte) :=
  (f.sects.filter (fun s => s.kind == kind)).flatMap (fun s => tab (s.size / size) (fun k => (s.bytes.drop (size * k)).take size))

/-! ### Placement (04 R136 step 1) -/

/-- Is the section mapped: TEXT, DATA or BSS? -/
def Sect.mapped (s : Sect) : Bool := s.kind == 3 || s.kind == 5 || s.kind == 6

/-- May the section's attributes stand in an entry? A transposing page needs a one-byte or two-byte format (13 R345). -/
def attrOk (fmt geom tier : Nat) : Bool :=
  (Fmt.ofCode fmt).isSome && decide (geom ≤ 2 ∧ tier ≤ 2) &&
    (geom != 2 || (let w := (fmtOf fmt).width; w == 8 || w == 16))

/-- Pages are placed in units of 64 KiB where a transposing alias needs it, else of 4 KiB. -/
def unitOf (fmt geom : Nat) : Nat := if geom = 2 ∧ (fmtOf fmt).width = 16 then 16 else 1

/-- `n` raised to a multiple of `k`. -/
def alignUp (n k : Nat) : Nat := ceilDiv n k * k

/-- First pages of the sections, from page `p` on, with the first page after them; 0 where nothing is mapped. -/
def placeSects (p : Nat) : List Sect → List Nat × Nat
  | [] => ([], p)
  | s :: t =>
    if s.mapped then
      let u := unitOf s.fmt s.geom
      let q := alignUp p u
      let r := placeSects (q + alignUp (ceilDiv s.size 4096) u) t
      (q :: r.1, r.2)
    else
      let r := placeSects p t
      (0 :: r.1, r.2)

/-! ### Objects (04 R127) -/

/-- An object of the file once placed: its name, its number, its entry, the index of its content's section. -/
structure Placed where
  name : List Byte
  oid  : Nat
  obj  : Obj
  bytes : List (Nat × Nat)
  cont : Nat
  deriving DecidableEq, Repr

/-- An object created by its record, from page `p` on; every byte reads as zero. -/
def State.placeObj (s : State) (asid : Nat) (f : Tof) (p : Nat) (b : List Byte) : Option (State × Placed × Nat) :=
  let pages := ceilDiv (cut b 8 8) 4096
  let fmt := cut b 18 1
  let geom := cut b 19 1
  let tier := cut b 20 1
  let u := unitOf fmt geom
  let (k, s) := s.draw
  let sp := s.space asid
  match sp.pickOid k with
  | none => none
  | some (oid, size) =>
    if !attrOk fmt geom tier || cut b 21 1 > 1 || cut b 16 1 > 15 || cut b 17 1 > 1 || decide (s.freeBoth tier u < pages) then none
    else match s.findFrames pages tier u with
      | none => none
      | some fs =>
        let q := alignUp p 16
        let gen := (sp.objs.get {} oid).gen
        let o : Obj :=
          { ustamp := s.ustamp, cow := cut b 17 1 == 1, state := 1, prio := cut b 16 1, gen := gen, weak := 0, strong := 1,
            pages := pages, base := q * 4096, fmt := fmt, geom := geom, tier := tier, write := cut b 21 1 == 1 }
        let o := o.inFrames s fs
        let s := (s.newObj asid oid size o fs).modSpace asid (fun sp => { sp with loaded := sp.loaded ++ [(oid, gen)] })
        some (s, { name := f.str (cut b 0 4), oid := oid, obj := o, bytes := o.bytes fs, cont := cut b 4 4 }, q + alignUp pages 16)

/-- Every object of the file created. -/
def State.placeObjs (s : State) (asid : Nat) (f : Tof) : Nat → List (List Byte) → Option (State × List Placed × Nat)
  | p, [] => some (s, [], p)
  | p, b :: t =>
    match s.placeObj asid f p b with
    | none => none
    | some (s, o, p) => match State.placeObjs s asid f p t with
      | some (s, l, p) => some (s, o :: l, p)
      | none => none

/-! ### Relocations (04 R133, R134 Table 11) -/

/-- What a file's symbols are resolved against: first pages of sections, and objects. -/
structure Layout where
  pages : List Nat
  objs  : List Placed
  deriving DecidableEq, Repr

/-- A symbol's object. -/
def Layout.objOf (l : Layout) (f : Tof) (sym : List Byte) : Option Placed := l.objs.find? (fun o => o.name == f.str (cut sym 0 4))

/-- A symbol's final value: a code label is a parcel index, a data label an address, an object its base address. Mark: DESIGN
CHOICE (log 34): the 8-byte value of a symbol is read as two's complement. Mark: DESIGN CHOICE (log 58): a data label inside an object has
the address of its content section. -/
def Layout.value (l : Layout) (f : Tof) (sym : List Byte) : Option Int :=
  let va : Int := l.pages.getD (cut sym 4 4) 0 * 4096
  let v := sgn 64 (cut sym 8 8)
  match cut sym 16 1 with
  | 1 => some (va / 2 + v)
  | 3 => some (va + v)
  | 6 => (l.objOf f sym).map (fun o => (o.obj.base : Int))
  | _ => some v

/-- Bytes written at an offset of a section's content. -/
def patch (bs new : List Byte) (o : Nat) : Option (List Byte) :=
  if bs.length < o + new.length then none else some (bs.take o ++ new ++ bs.drop (o + new.length))

/-- An imm32: two parcels, the higher first (03 R82). -/
def imm32Bytes (v : Nat) : List Byte := leBytes 2 (v / 65536 % 65536) ++ leBytes 2 (v % 65536)

/-- A value in 64 bits, of two's complement where it is negative; none where it fits neither way (03 R110, R114). -/
def fit64 (n : Int) : Option Nat := if -(2 ^ 63) ≤ n ∧ n < 2 ^ 64 then some (n % 2 ^ 64).toNat else none

/-- What a relocation writes; none where the value does not fit, or the type is one that the linker applies. Mark: DESIGN CHOICE (log 58): a
negative value does not fit a PIDX32. -/
def Layout.relocBytes (l : Layout) (f : Tof) (r sym : List Byte) : Option (List Byte) :=
  let a := sgn 64 (cut r 24 8)
  match cut r 4 2, l.value f sym with
  | 1, some v => (fit64 ((if cut sym 16 1 = 1 then 2 * v else v) + a)).map (leBytes 8)
  | 2, some v => some (imm32Bytes ((v + a) % 2 ^ 32).toNat)
  | 3, some v => some (imm32Bytes ((v + a) / 2 ^ 32 % 2 ^ 32).toNat)
  | 4, some v => if 0 ≤ v + a ∧ v + a < 2 ^ 32 then some (imm32Bytes (v + a).toNat) else none
  | 10, _ => match l.objOf f sym with
    | some o => some (leBytes 32 (objHandle o.oid o.obj.gen ||| BitVec.ofNat 256 (cut r 24 8)).toNat)
    | none => none
  | 11, _ => match l.objOf f sym with
    | some o => (fit64 (o.obj.base + a)).map (leBytes 8)
    | none => none
  | _, _ => none

/-- A relocation applied to the sections' contents. -/
def Layout.reloc (l : Layout) (f : Tof) (syms : List (List Byte)) (cs : List (List Byte)) (r : List Byte) : Option (List (List Byte)) :=
  let k := cut r 0 4
  match syms[cut r 16 4]?, cs[k]? with
  | some sym, some bs =>
    (match l.relocBytes f r sym with
      | some new => (patch bs new (cut r 8 8)).map (fun x => cs.set k x)
      | none => none)
  | _, _ => none

/-- Relocations one after another. -/
def Layout.relocs (l : Layout) (f : Tof) (syms : List (List Byte)) : List (List Byte) → List (List Byte) → Option (List (List Byte))
  | cs, [] => some cs
  | cs, r :: t => match l.reloc f syms cs r with
    | some cs => Layout.relocs l f syms cs t
    | none => none

/-! ### Kernels (04 R132, 08 R246, R247) -/

/-- Micro-routines of a section: index and words. Mark: DESIGN CHOICE (log 58): a header whose 4 zero bytes are not 0 is refused. -/
def readRoutines : Nat → List Byte → Option (List (Nat × List (BitVec 64)))
  | 0, _ => some []
  | n + 1, b =>
    let cnt := cut b 2 2
    if b.length < 8 + 8 * cnt ∨ cut b 4 4 ≠ 0 then none
    else match readRoutines n (b.drop (8 + 8 * cnt)) with
      | some l => some ((cut b 0 2, tab cnt (fun k => BitVec.ofNat 64 (cut b (8 + 8 * k) 8))) :: l)
      | none => none

/-- Is a word a header whose fields the loader accepts? -/
def headerOk (h : BitVec 64) : Bool :=
  fldN h 58 6 == 0x3F && fldN h 0 32 == 0 &&
    (if bitAt h 38 then decide (fldN h 32 3 ≤ 4) && (fldN h 49 8).testBit (fldN h 35 3) else true)

/-- Does a jump's target name a word of the routine at micro-address `base`, `n` words long? (08 R250) -/
def targetOk (base n : Nat) (i : Instr) : Bool :=
  let inside (t : BitVec 11) : Bool := decide (base ≤ t.toNat ∧ t.toNat < base + n)
  match i with
  | .mloop _ _ _ t _ => inside t
  | .mifz t => inside t
  | _ => true

/-- Does the loader accept a routine that stands at a micro-address? -/
def routineOk (base : Nat) (r : Nat × List (BitVec 64)) : Bool :=
  decide (64 ≤ r.1 ∧ r.1 ≤ 1023) &&
  (match r.2 with
    | [] => false
    | h :: t => headerOk h && t.all (fun w => match decodeU w with
      | some i => targetOk base r.2.length i && (match i with
        | .mmac _ z _ => !bitAt h 57 || !z
        | .mifz _ => !bitAt h 57
        | _ => true)
      | none => false))

/-- Routines in index order. -/
def insRoutine (r : Nat × List (BitVec 64)) : List (Nat × List (BitVec 64)) → List (Nat × List (BitVec 64))
  | [] => [r]
  | x :: t => if r.1 < x.1 then r :: x :: t else x :: insRoutine r t

/-- Does the loader accept a kernel's routines, in index order? -/
def routinesOk (l : List (Nat × List (BitVec 64))) : Bool :=
  (packRoutines 1024 l).all (fun r => routineOk r.2.base (r.1, r.2.words)) && decide (l.foldl (fun n r => n + r.2.length) 0 ≤ 1024) &&
  (dedupN (l.map (·.1))).length == l.length

/-- A dictionary entry of 48 bytes, parcel 0 lowest. -/
def dictEntry (b : List Byte) : BitVec 384 := BitVec.ofNat 384 (packN 16 (tab 24 (fun k => cut b (2 * k) 2)))

/-- A kernel of the file, with the sections' relocated contents. Mark: DESIGN CHOICE (log 34): a descriptor whose reserved bytes
32 to 63 are not 0 is refused. Mark: DESIGN CHOICE (log 58): so is one with a field outside Table 10. -/
def readKernel (f : Tof) (cs : List (List Byte)) (pages : List Nat) (d : List Byte) : Option KDesc :=
  let n := cut d 4 2
  let dict := cs.getD (cut d 12 4) []
  let rt := if cut d 6 2 = 0 then some [] else readRoutines (cut d 6 2) (cs.getD (cut d 20 4) [])
  let text := cut d 16 4
  let tierOf (k : Nat) : Nat := match f.sects[k]? with | some x => min x.tier 2 | none => 0
  if n = 0 ∨ 1024 < n ∨ 4 < cut d 8 1 ∨ 1 < cut d 9 1 ∨ 2 ^ 13 ≤ cut d 10 2 ∨ (d.drop 32).any (fun b => b != 0) ∨ dict.length < 48 * n ∨
      (f.sects[text]?).map (·.kind) ≠ some 3 then none
  else match rt with
    | none => none
    | some l =>
      let l := l.foldr insRoutine []
      if !routinesOk l then none
      else some { text := pages.getD text 0 * 2048, entry := cut d 24 4,
                  handler := if cut d 28 4 = 0xFFFFFFFF then none else some (cut d 28 4), l1cfg := cut d 8 1, skip := cut d 9 1 == 1,
                  excmask := cut d 10 2, dict := tab n (fun k => dictEntry (dict.drop (48 * k))), rtns := l,
                  tier := max (max (tierOf (cut d 12 4)) (tierOf text)) (if cut d 6 2 = 0 then 0 else tierOf (cut d 20 4)) }

/-! ### Loading (04 R136) -/

/-- Offsets of a kernel's deferred pages. -/
def Tof.deferred (f : Tof) (kern : Nat) : List Nat :=
  (f.sects.filter (fun s => s.kind == 12 && s.kern == kern)).flatMap (fun s => tab (s.size / 8) (fun k => cut s.bytes (8 * k) 8))

/-- A section mapped at a page, with its content; deferred pages stay invalid (04 R129). -/
def State.mapSect (s : State) (asid : Nat) (f : Tof) (x : Sect) (page : Nat) (bs : List Byte) : Option State :=
  let n := ceilDiv x.size 4096
  if !x.mapped || n = 0 then some s
  else
    let u := unitOf x.fmt x.geom
    let m := alignUp n u
    match s.findFrames m x.tier u with
    | none => none
    | some fs =>
      let frame := if x.tier = 2 then fs.headD 0 else alignUp s.nextFrame u
      let leaf : BitVec 128 := mkLeaf (x.kind != 3 && x.attr.testBit 0) x.geom x.tier (if u = 16 then 1 else 0) frame x.fmt none
      let s : State := if x.tier = 2 then ({ s with freePages := takePages s.freePages 2 m } : State).drainCheck 2 else { s with nextFrame := frame + m }
      let s := s.modSpace asid (fun sp =>
        { (sp.scatter page leaf fs) with regions := sp.regions ++ [({ page := page, n := m, pte := leaf } : Region)] })
      let s := if x.kind = 3 then
          (f.deferred x.kern).foldl (fun s o =>
            let e := setFld (setFld leaf 12 (BitVec.ofNat 40 (fs.getD (o / 4096) (frame + o / 4096)))) 0 0#1
            s.modSpace asid (fun (sp : Space) => { sp with ptes := sp.ptes.put (pteKey 4 (page * 4096 + o)) e })) s
        else s
      some (s.storeBytes (if x.tier = 2 then hostBytes fs else [(frame * 4096, m * 4096)]) (bs ++ List.replicate (m * 4096 - bs.length) 0))

/-- Every section mapped; none where the host has not supplied the pages for one. -/
def State.mapSects (s : State) (asid : Nat) (f : Tof) : List Sect → List Nat → List (List Byte) → Option State
  | x :: xs, p :: ps, b :: bs => match s.mapSect asid f x p b with
    | some s => State.mapSects s asid f xs ps bs
    | none => none
  | _, _, _ => some s

/-- Pages enough for the sections and objects of a file, wherever they start. -/
def Tof.room (f : Tof) : Nat :=
  (f.sects.filter Sect.mapped).foldl (fun n x => n + 16 + alignUp (ceilDiv x.size 4096) 16)
    ((f.records 7 32).foldl (fun n b => n + 16 + alignUp (ceilDiv (cut b 8 8) 4096) 16) 0)

/-- A linked file loaded into a space: steps 1 to 3; none where a step fails, and then nothing is done. -/
def State.loadTof (s : State) (asid : Nat) (file : List Byte) : Option State :=
  match readTof file with
  | none => none
  | some f =>
    let (k, s) := s.draw
    let hint := (s.space asid).nextVa / 4096 + k % 4096 * 16
    let first := ((s.space asid).spot hint f.room).getD hint
    let (pages, next) := placeSects first f.sects
    if f.sects.any (fun x => x.mapped && !attrOk x.fmt x.geom x.tier) then none
    else match s.placeObjs asid f next (f.records 7 32) with
      | none => none
      | some (s, objs, next) =>
        let l : Layout := { pages := pages, objs := objs }
        match l.relocs f (f.records 9 24) (f.sects.map (·.bytes)) (f.records 10 32) with
        | none => none
        | some cs =>
          match allSome (((f.records 1 64).take f.nkern).map (readKernel f cs pages)) with
          | none => none
          | some ks =>
            if ks.length ≠ f.nkern ∨ 2 ^ 36 < next then none
            else match s.mapSects asid f f.sects pages cs with
              | none => none
              | some s =>
                let s := objs.foldl (fun (s : State) (o : Placed) => s.writePieces o.bytes ((cs.getD o.cont []).take (o.obj.pages * 4096))) s
                some (s.modSpace asid (fun (sp : Space) => { sp with kernels := sp.kernels ++ ks, nextVa := if first = hint then next * 4096 else sp.nextVa }))

end Sys2Proof.Machine
end

