-- ==== Sys2Proof/Machine/Mapping.lean ====
section
/-! DEFINITION. Changes of a mapping by Shogiwald: faults settled or declared, entries changed with markers, pages moved
(13 R347 to R356). -/

namespace Sys2Proof.Machine

open Sys2Proof

/-! ### The job status record (16 R378) -/

/-- A leaf with another FRAME and TIER. -/
def movedLeaf (old : BitVec 128) (frame tier : Nat) : BitVec 128 := setFld (setFld old 12 (BitVec.ofNat 40 frame)) 7 (BitVec.ofNat 2 tier)

/-- The move under way of the page that holds an address. -/
def Space.moveOf (sp : Space) (va : Nat) : Option Move :=
  sp.moving.find? (fun m => decide (m.va ≤ va ∧ va < m.va + m.n * 4096))

/-- Where bytes of one 4 KiB page also lie: in the frame that its move has copied it to (13 R355). -/
def Space.copyOf (sp : Space) (va n : Nat) : List (Nat × Nat) :=
  match sp.moveOf va with
  | some m =>
    if m.copied then
      let bits := if m.n = 1 then 12 else if m.n = 16 then 16 else 21
      let e := setFld (movedLeaf m.leaf m.frame m.tier) 12 (BitVec.ofNat 40 (m.frame + if bits = 16 then va / 4096 % 16 else 0))
      if pteGeom e = 2 then tab n (fun i => (leafAddr e bits (va + i), 1)) else [(leafAddr e bits va, n)]
    else []
  | none => []

/-- The parts of a run of bytes that lie in different 4 KiB pages: address and length. -/
def pageCuts (va n : Nat) : List (Nat × Nat) :=
  if n = 0 then []
  else tab ((va + n - 1) / 4096 - va / 4096 + 1) (fun k =>
    let lo := max va ((va / 4096 + k) * 4096)
    (lo, min (va + n) ((va / 4096 + k + 1) * 4096) - lo))

/-- Bytes of one 4 KiB page written by Shogiwald; nothing where the page is not mapped. -/
def State.writePage (s : State) (asid va : Nat) (bs : List Byte) : State :=
  match (s.space asid).xlat none va bs.length false with
  | .ok l _ _ => (s.putBytes l bs).putBytes ((s.space asid).copyOf va bs.length) bs
  | .fault _ => s

/-- Bytes that Shogiwald writes at a virtual address of a space, page by page; a part that is not mapped is not written, and one
whose page has been copied for a move goes to both frames (13 R355). -/
def State.writeVa (s : State) (asid va : Nat) (bs : List Byte) : State :=
  (pageCuts va bs.length).foldl (fun (t : State) (p : Nat × Nat) => t.writePage asid p.1 ((bs.drop (p.1 - va)).take p.2)) s

/-- Bytes that Shogiwald reads at a virtual address of a space. -/
def State.readVa (s : State) (asid va n : Nat) : Option (List Byte) :=
  match (s.space asid).xlat none va n false with
  | .ok l _ _ => some (s.readPieces l)
  | .fault _ => none

/-- The record of a job (16 Table 3). -/
def Job.record (j : Job) : List Byte :=
  leBytes 8 (if j.done then (if j.tfail = 0 then 1 else 2) else 0) ++ leBytes 4 j.tdone ++ leBytes 4 j.tfail ++ leBytes 4 j.ftask ++
    leBytes 1 j.fcause ++ leBytes 1 j.fflags ++ leBytes 2 0 ++ leBytes 8 j.fpc ++ leBytes 8 j.latepromo ++ leBytes 4 j.npre ++
    leBytes 20 0

/-- The status record of a job brought up to date. -/
def State.writeStatus (s : State) (job : Nat) : State :=
  match s.job job with
  | some j => s.writeVa j.asid j.jsva j.record
  | none => s

/-! ### Entries -/

/-- Pages that an entry of a level covers. -/
def levelPages (level : Nat) : Nat := 512 ^ (4 - level)

/-- The first page under the entry of a level that translates `va`. -/
def levelPage (level va : Nat) : Nat := va / 4096 / levelPages level * levelPages level

/-- The space with pointers to its own nodes written where the walk for `va` would end above a level at an entry with V 0. -/
def Space.linkTo (sp : Space) (va : Nat) : Nat → Space
  | 0 | 1 => sp
  | level + 1 =>
    let sp := Space.linkTo sp va level
    match sp.keyAt none va level with
    | some k => if pteV (sp.entry none k) then sp else { sp with ptes := sp.ptes.put k (mkPtr (pteKey (level + 1) va / 512)) }
    | none => sp

/-- The key of the entry for `va` at a level: the one that the walk meets, else the one in the space's own node. -/
def Space.keyFor (sp : Space) (level va : Nat) : Nat := ((sp.linkTo va level).keyAt none va level).getD (pteKey level va)

/-- An entry written, with the nodes above it, and no marker. It is a write of 16 bytes: one that covers only part of an uncorrectable
burst is discarded (17 R403). -/
def State.putPte (s : State) (asid level va : Nat) (e : BitVec 128) : State :=
  let a := 16 * (s.space asid).keyFor level va
  if s.unc.any (fun u => decide (u.2 = 64 ∧ u.1 ≤ a ∧ a < u.1 + 64)) then s
  else { s with unc := s.unc.filter (fun u => u != (a, 16)) }.modSpace asid (fun sp => let t := sp.linkTo va level; { t with ptes := t.ptes.put (sp.keyFor level va) e })

/-- The entry that stands for `va` at a level. -/
def Space.standing (sp : Space) (level va : Nat) : BitVec 128 := (sp.linkTo va level).entry none (sp.keyFor level va)

/-- The pages of an object that an entry maps, by count of free pages. -/
def leafPages (e : BitVec 128) : List (Nat × Nat) :=
  if pteV e && pteLeaf e && pteObjv e then [(freeIx (pteTier e) (pteFrame e), if ptePs e = 2 then 512 else 1)] else []

/-- Do two entries map the same frames? -/
def sameFrame (o e : BitVec 128) : Bool := pteFrame o == pteFrame e && pteTier o == pteTier e && leafPages o != [] && leafPages e != []

/-- The frames that a new entry brings to an object's page leave the free pages (13 R360). -/
def State.takeLeaf (s : State) (old e : BitVec 128) : State :=
  if sameFrame old e ∨ leafPages e = [] then s
  else ({ s with freePages := (leafPages e).foldl (fun v p => takePages v p.1 p.2) s.freePages } : State).drainCheck (pteTier e)

/-- An entry changed by the whole sequence: markers go to every agent of the space where an entry was valid before
(13 R347). -/
def State.changePte (s : State) (asid level va : Nat) (e : BitVec 128) : State :=
  let sp := s.space asid
  let old := sp.standing level va
  let s := (s.putPte asid level va e).takeLeaf old e
  if pteV old then
    s.publish asid [(sp.keyFor level va, 1, old)] (levelPage level va) (levelPages level) (if sameFrame old e then [] else leafPages old)
  else s

/-- Does a new entry only grant access: nothing valid before, or the same leaf with W? -/
def grants (o e : BitVec 128) : Bool := !pteV o || (o ||| 8) == (e ||| 8) && (!pteW o || pteW e)

/-- An entry as Shogiwald writes it: a page of a COW object whose STRONG is above 1 is mapped with W = 0 (13 R352). -/
def Space.cowMask (sp : Space) (e : BitVec 128) : BitVec 128 :=
  if pteLeaf e && pteObjv e && (sp.objs.get {} (pteOid e)).shared then setFld e 3 0#1 else e

/-- The faults on the pages from `page` on are settled. -/
def State.clearFaults (s : State) (asid page n : Nat) : State :=
  { s with faults := s.faults.filter (fun f => !(f.asid == asid && decide (page ≤ f.va / 4096 ∧ f.va / 4096 < page + n))) }

/-- Does the new entry set W in a page of a COW object? That takes the change sequence, though it only grants (13 R352). -/
def Space.freesCow (sp : Space) (o e : BitVec 128) : Bool :=
  pteV o && pteLeaf o && pteObjv o && !pteW o && pteW e && (sp.objs.get {} (pteOid o)).cow

/-- FAULT_SETTLE: the entry makes the access valid; a change that only grants needs no marker (13 R347, R348), but where it sets W in a
page of a COW object (R352). -/
def execFaultSettle (asid : BitVec 16) (va : BitVec 48) (level : BitVec 2) (pte : BitVec 128) (s : State) : Out :=
  let a := asid.toNat
  let lv := level.toNat + 1
  let v := va.toNat
  let sp := s.space a
  let e := sp.cowMask pte
  .next (
    if grants (sp.standing lv v) e && !sp.freesCow (sp.standing lv v) e then ((s.putPte a lv v e).takeLeaf (sp.standing lv v) e).clearFaults a (levelPage lv v) (levelPages lv)
    else if !grants (sp.standing lv v) e && s.reserved a (levelPage lv v) (levelPages lv) then s
    else (s.changePte a lv v e).clearFaults a (levelPage lv v) (levelPages lv))

/-- What a declaration does to a core one of whose accesses it serves: an entry of the sump waits for its report (13 R351); another
access meets it where it stands. -/
def Core.declare (c : Core) (page : Nat) (cow : Bool) (id : Option Nat) : Core :=
  match id with
  | some n =>
    if c.sump.any (fun e => e.seq == n) then
      { c with sump := c.sump.map (fun e => if e.seq = n then { e with bad := some (e.bad.getD (if cow then 0x08 else 0x03, 0)) } else e) }
    else { c with declared := c.declared ++ [(page, cow, id)] }
  | none => { c with declared := c.declared ++ [(page, cow, id)] }

/-- The fault records on the page that holds an address. -/
def State.faultsOn (s : State) (asid va : Nat) : List FaultRec := s.faults.filter (fun f => f.asid == asid && (s.space asid).onePage f.va va)

/-- The faults on the page that holds an address declared invalid, or a COW, for every access that a record of them serves. -/
def State.declareFault (s : State) (asid va : Nat) (cow : Bool) : State :=
  let t := ((s.faultsOn asid va).flatMap (·.who)).foldl (fun s w => s.putCore w.1 ((s.coreAt w.1).declare (va / 4096) cow w.2)) s
  { t with faults := t.faults.filter (fun f => !(s.faultsOn asid va).contains f) }

/-- The object of a COW page that is mapped with W = 0, and the page's size in bits. -/
def Space.cowPage (sp : Space) (va : Nat) : Option (Obj × Nat) :=
  match sp.leaf none va with
  | some (e, bits) =>
    let o := sp.objs.get {} (pteOid e)
    if pteObjv e && !pteW e && o.cow then some (o, bits) else none
  | none => none

/-- W set in a page's entries by the change sequence, and its faults settled (13 R352). -/
def State.freeCow (s : State) (a v bits : Nat) : State :=
  let v0 := v / 2 ^ bits * 2 ^ bits
  let lv := if bits = 21 then 3 else 4
  let n := if bits = 16 then 16 else 1
  let s := (List.range n).foldl (fun (s : State) (i : Nat) => s.putPte a lv (v0 + 4096 * i) (setFld ((s.space a).standing lv (v0 + 4096 * i)) 3 1#1)) s
  (s.publish a [((s.space a).keyFor lv v0, n, setFld ((s.space a).standing lv v0) 3 0#1)] (v0 / 4096) (2 ^ (bits - 12)) []).clearFaults a (v0 / 4096)
    (2 ^ (bits - 12))

/-- FAULT_DECLARE: Shogiwald declares the fault on the page invalid. For a page of a COW object that is mapped with W = 0, the
object's entry decides, whatever is asked: with STRONG 1 he sets W by the change sequence and settles, else he declares a COW (13 R348,
R352); but where a walk for the page meets an uncorrectable word, he may declare the page invalid (17 R404). -/
def execFaultDeclare (asid : BitVec 16) (va : BitVec 48) (cow : Bool) (s : State) : Out :=
  let a := asid.toNat
  let v := va.toNat
  .next (match (s.space a).cowPage v with
    | some (o, bits) =>
      if !cow && (s.walkWord a none (v / 4096)).isSome then s.declareFault a v false
      else if o.shared then s.declareFault a v true
      else s.freeCow a v bits
    | none => if cow then s else s.declareFault a v false)

/-- TRANSLATION_CHANGE (13 R347). -/
def execTranslationChange (asid : BitVec 16) (va : BitVec 48) (level : BitVec 2) (pte : BitVec 128) (s : State) : Out :=
  let a := asid.toNat
  let lv := level.toNat + 1
  let v := va.toNat
  let e := (s.space a).cowMask pte
  .next (if !grants ((s.space a).standing lv v) e && s.reserved a (levelPage lv v) (levelPages lv) then s else s.changePte a lv v e)

/-! ### Moves (13 R355, R356) -/

/-- The first byte of a leaf's frame. -/
def frameBase (tier frame : Nat) : Nat := (if tier = 2 then 2 ^ 52 else 0) + frame * 4096

/-- 4 KiB pages of a move. -/
def Move.pages (m : Move) : Nat := m.n

/-- Entries that a move writes: one of a 4 KiB or 2 MiB page, 16 of a 64 KiB page. -/
def Move.entries (m : Move) : Nat := if m.n = 16 then 16 else 1

/-- A move put away. -/
def Space.endMove (sp : Space) (m : Move) : Space := { sp with moving := sp.moving.filter (fun x => x.va != m.va) }

/-- Has the object that owns the page become FREE or GONE since the move began? -/
def Space.moveDead (sp : Space) (m : Move) : Bool :=
  pteObjv m.leaf && (let o := sp.objs.get {} (pteOid m.leaf)
    o.state != 1 || !decide (o.base ≤ m.va ∧ m.va < o.base + o.mapped * 4096))

/-- The entries of a move written, each with its frame, and published; `back` are pages to count free (13 R347). -/
def State.moveEntries (s : State) (a : Nat) (m : Move) (first : BitVec 128) (back : List (Nat × Nat)) : State :=
  let old := (s.space a).entry none m.key
  let s := s.modSpace a (fun sp => { sp with ptes := (List.range m.entries).foldl (fun p i =>
    p.put (m.key + i) (setFld first 12 (BitVec.ofNat 40 (pteFrame first + i)))) sp.ptes })
  s.publish a [(m.key, m.entries, old)] (m.va / 4096) m.pages back

/-- Step 1: W is cleared in the page's leaf; the new frame's pages are taken. -/
def State.moveBegin (s : State) (a v frame tier : Nat) : State :=
  let sp := s.space a
  match sp.leaf none v with
  | none => s
  | some (_, bits) =>
    let v0 := v / 2 ^ bits * 2 ^ bits
    let n := 2 ^ (bits - 12)
    if (sp.moveOf v).isSome || s.reserved a (v0 / 4096) n then s
    else
      let key := sp.keyFor (if bits = 21 then 3 else 4) v0
      let m : Move := { va := v0, key := key, n := n, leaf := sp.entry none key, frame := frame, tier := tier, chg := s.nextChange }
      let s := s.moveEntries a m (setFld m.leaf 3 0#1) []
      ({ s with freePages := takePages s.freePages (freeIx tier frame) n }.modSpace a (fun sp => { sp with moving := sp.moving ++ [m] })).drainCheck tier

/-- A promotion cancelled: the new frame is free again (13 R356). -/
def State.moveCancel (s : State) (a : Nat) (m : Move) : State :=
  { s with freePages := Machine.addAt s.freePages (freeIx m.tier m.frame) m.n }.modSpace a (fun sp => sp.endMove m)

/-- Step 3: the new FRAME and TIER, with W as before; the old frame is free once the sequence is done. A page whose object is
no more is left to its unmapping. -/
def State.remap (s : State) (a : Nat) (m : Move) : State :=
  if (s.space a).moveDead m then s.moveCancel a m
  else
    (s.moveEntries a m ((s.space a).cowMask (movedLeaf m.leaf m.frame m.tier)) [(freeIx (pteTier m.leaf) (pteFrame m.leaf), m.n)]).modSpace a
      (fun sp => sp.endMove m)

/-- May the page be copied: have the markers of step 1 completed? Until then an access may still write the old frame. -/
def Space.mayCopy (sp : Space) (m : Move) : Bool := !sp.changes.any (fun c => c.id == m.chg)

/-- Step 2: the page copied. A word that the copy writes whole is good from then on; an uncorrectable one that it reads withholds its data
(17 R403), and the copy is not made. -/
def State.movePage (s : State) (a : Nat) (m : Move) : State :=
  let src := [(frameBase (pteTier m.leaf) (pteFrame m.leaf), m.n * 4096)]
  let dst := [(frameBase m.tier m.frame, m.n * 4096)]
  match s.badWord src with
  | some u => { s with notes := s.notes ++ [(1, u.1)] }
  | none =>
    let s := s.writePieces dst (s.readPieces src)
    ({ s with unc := s.unc.filter (fun u => !covers dst u) } : State).modSpace a (fun sp =>
      { sp with moving := sp.moving.map (fun (x : Move) => if x.va = m.va then { x with copied := true } else x) })

/-- May the new leaf be written: is the copy made, with no target reserved in the page since (13 R355, R357)? -/
def State.mayRemap (s : State) (a : Nat) (m : Move) : Bool := m.copied && !s.reserved a (m.va / 4096) m.n

/-- PAGE_MIGRATION of one page, in the steps of 13 R355: 0 clears W, 1 copies, 2 writes the new leaf, 3 settles the write
faults taken since; 4 is a promotion that is cancelled, which only a page whose object is FREE or GONE is, 5 one for a layer of
a job that has finished, whose number `frame` then holds in bits 31:0 (R356). -/
def execPageMigration (asid : BitVec 16) (va : BitVec 48) (frame : BitVec 40) (tier : BitVec 2) (phase : BitVec 3) (s : State) : Out :=
  let a := asid.toNat
  let v := va.toNat
  let sp := s.space a
  let job := frame.toNat % 2 ^ 32
  .next (match phase.toNat, sp.moveOf v with
    | 0, _ => s.moveBegin a v frame.toNat tier.toNat
    | 1, some m => if sp.mayCopy m then s.movePage a m else s
    | 2, some m => if sp.moveDead m || s.mayRemap a m then s.remap a m else s
    | 3, _ => (match sp.leaf none v with
        | some (_, bits) => s.clearFaults a (v / 2 ^ bits * 2 ^ bits / 4096) (2 ^ (bits - 12))
        | none => s)
    | 4, some m => if sp.moveDead m then s.moveCancel a m else s
    | 5, some m =>
      if sp.moveDead m then s.moveCancel a m
      else if !s.mayRemap a m then s
      else ((s.remap a m).modJob job (fun j => if j.asid = a then { j with latepromo := j.latepromo + 1 } else j)).writeStatus job
    | _, _ => s)

end Sys2Proof.Machine
end

