-- ==== Sys2Proof/Machine/Memory.lean ====
section
/-! DEFINITION. Scalar memory operations at issue: loads, stores, handles, atomics, exact accumulators, fences and LAUNCH
(05 R151 to R163, R173). -/

namespace Sys2Proof.Machine

open Sys2Proof

/-! ### Conventions -/

/-- Bytes of a width code (03 R105). -/
def widthBytes (w : BitVec 2) : Nat := 2 ^ w.toNat

/-- The address checks of 05 Table 10: reason 1 above 48 bits, reason 2 where natural alignment is asked for. -/
def State.eaOk (s : State) (ea : Word) (align : Nat) (f : Nat → State) : State :=
  if 2 ^ 48 ≤ ea.toNat then s.trapData ea 1
  else if ea.toNat % align ≠ 0 then s.trapData ea 2
  else f ea.toNat

/-- What an access at issue asks of the memory unit. -/
structure Ask where
  kind   : MuKind
  cls    : Cls
  strong : Bool
  width  : Nat
  data   : Nat := 0
  op     : Nat
  alias_ : Option Nat := none
  bypass : Bool := false
  held   : Bool := false
  due    : Nat := 0
  deriving DecidableEq, Repr

/-- Its kind in a fault record. -/
def Ask.accKind (a : Ask) : AccKind := match a.kind with | .store => .store | _ => .atomic

/-- The access enters the memory unit. -/
def State.pushMem (s : State) (a : Ask) (va : Nat) (phys : List (Nat × Nat)) (ready : Nat) (fwd : Option (Nat × Nat)) : State :=
  s.onCore (fun c =>
    { c with mu := c.mu ++ [{ seq := c.iss.seq, kind := a.kind, cls := a.cls.toNat, strong := a.strong, va := va, width := a.width,
                              phys := phys, data := a.data, ready := ready, fwd := fwd.map (·.2), src := fwd.map (·.1),
                              left := accessParts a.kind va a.width a.alias_, bypass := a.bypass, held := a.held, due := a.due, pcv := c.opValue, op := a.op,
                              at_ := s.cycle }],
             iss := { c.iss with seq := c.iss.seq + 1 } })

/-- A checker counts the number of an access that its leader makes (17 R407). -/
def State.skipSeq (s : State) : State := s.onCore (fun c => { c with iss := { c.iss with seq := c.iss.seq + 1 } })

/-- The access enters the sump; with 64 entries there the core holds (01 R44, 03 R102). -/
def State.enterSump (s : State) (a : Ask) (va : Nat) : State :=
  if 64 ≤ s.core.sump.length then s.wait
  else s.onCore (fun c =>
    { c with sump := c.sump ++ [{ seq := c.iss.seq, kind := a.kind, cls := a.cls.toNat, op := a.op, width := a.width, va := va,
                                  data := a.data, strong := a.strong, bad := none, pcv := c.opValue, at_ := s.cycle }],
             iss := { c.iss with seq := c.iss.seq + 1 } })

/-- The trap of an access whose mapping was declared invalid, or a COW (05 R153 reason 0, R154). -/
def State.trapMapping (s : State) (ea : Word) (cow : Bool) : State := if cow then s.trap 0x08 ea else s.trapData ea 0

/-- The element size of the transposing alias, where an access meets one (13 R345). -/
def aliasOf (transposed : Bool) (first : BitVec 128) : Option Nat :=
  if transposed then some (if pteGeom first = 2 then (fmtOf (pteFmt first)).width / 8 else 1) else none

/-- An access that returns a value: it takes the sump's data where an entry of its class holds it, is performed after a
latency, holds while its mapping is missing, and traps where the mapping was declared invalid (01 R43, R44; 13 R349). A weak load
that hits L1 may still be served by the home slice (10 R322); a core that halts abandons a load that is held (13 R353).
`hit` is the latency of an L1 hit, 0 for none; `whole` refuses the transposing alias (13 R345). An entry of the sump that is itself
uncorrectable raises ABORT (17 R405). -/
def State.loadOp (s : State) (a : Ask) (va hit : Nat) (write whole : Bool) : State :=
  let ea : Word := BitVec.ofNat 64 va
  if s.core.r.chk then s.pushMem { a with held := s.core.iss.abandon } va [] 0 none
  else
    match if write then none else s.core.forward va a.width a.cls.toNat a.strong with
    | some v =>
      (match (s.core.sump.find? (fun e => e.seq == v.1)).bind (fun e => e.rot) with
        | some k => s.trapSlot (abortTrap s.core.iss.slot (9, k))
        | none => s.pushMem a va [] (s.cycle + max hit 5) (some v))
    | none =>
      match s.reach s.core.task.asid none va a.width write (some s.core.iss.seq) with
      | .ok l t e =>
        if t && whole then s.trapData ea 5
        else
          let (k, s) : Nat × State := if hit = 0 || a.strong then (0, s) else s.draw
          let a := { a with alias_ := aliasOf t e, bypass := k % 2 == 1 }
          if hit ≠ 0 && !a.strong && !a.bypass && s.core.hitsL1 a.cls.toNat l then s.pushMem a va l (s.cycle + hit) none
          else
            let (n, s) := s.drawLat va a.width e
            (s.countHot s.core.task.asid none va a.width).pushMem a va l (s.cycle + n + (if write then s.core.release else 0)) none
      | .wait v =>
        if s.core.iss.abandon then s.pushMem { a with held := true } va [] s.cycle none
        else (s.noteFault v (if write then .atomic else .load) a.cls.toNat (some s.core.iss.seq)).wait
      | .bad _ cow => s.trapMapping ea cow

/-- An access that retires at issue: it is performed after a latency, or enters the sump on a translation fault or behind
earlier entries (01 R44). `lo`, `hi` bound the latency where they are not 0. -/
def State.storeOp (s : State) (a : Ask) (va : Nat) (whole : Bool) (lo hi : Nat) : State :=
  if s.core.r.chk then s.skipSeq
  else
    match s.reach s.core.task.asid none va a.width true (some s.core.iss.seq) with
    | .ok l t e =>
      let a := { a with alias_ := aliasOf t e }
      if t && whole then s.trapData (BitVec.ofNat 64 va) 5
      else if s.core.mustSump a.cls.toNat s.core.iss.seq then s.enterSump a va
      else
        let (n, s) := if hi = 0 then s.drawLat va a.width e else s.drawIn lo hi
        let (k, s) := if hi = 0 then (0, s) else s.translateAll va a.width
        (s.countHot s.core.task.asid none va a.width).pushMem a va l (s.cycle + n + k + s.core.release) none
    | .wait v | .bad v _ => (s.noteFault v a.accKind a.cls.toNat (some s.core.iss.seq)).enterSump a va

/-! ### Loads and stores -/

/-- LD. -/
def execLd (g : Guard) (strong : Bool) (w : BitVec 2) (d a : XReg) (cls : Cls) (imm : BitVec 32) (s : State) : Out :=
  s.guarded g (fun s =>
    let n := widthBytes w
    s.eaOk (s.core.x a + sext64 imm) (if strong then n else 1) (fun va =>
      s.loadOp { kind := .load d, cls := cls, strong := strong, width := n, op := 0x50 } va 5 false false))

/-- ST. -/
def execSt (g : Guard) (strong : Bool) (w : BitVec 2) (d a : XReg) (cls : Cls) (imm : BitVec 32) (s : State) : Out :=
  s.guarded g (fun s =>
    let n := widthBytes w
    let v := (s.core.x d).toNat % 2 ^ (8 * n)
    s.eaOk (s.core.x a + sext64 imm) (if strong then n else 1) (fun va =>
      s.effect 0x51 va [v] (fun s =>
        s.storeOp { kind := .store, cls := cls, strong := strong, width := n, data := v, op := 0x51 } va false 0 0)
        LogEntry.deliver))

/-- LDH: 32 bytes into H[hd], no check of the handle. -/
def execLdh (g : Guard) (strong : Bool) (hd : HReg) (xb : XReg) (cls : Cls) (off : BitVec 20) (s : State) : Out :=
  s.guarded g (fun s =>
    s.eaOk (s.core.x xb + sext64 off) 32 (fun va =>
      s.loadOp { kind := .loadH hd, cls := cls, strong := strong, width := 32, op := 0x53 } va 6 false true))

/-- STH. -/
def execSth (g : Guard) (strong : Bool) (ha : HReg) (xb : XReg) (cls : Cls) (off : BitVec 20) (s : State) : Out :=
  s.guarded g (fun s =>
    let v := (s.core.h ha).toNat
    s.eaOk (s.core.x xb + sext64 off) 32 (fun va =>
      s.effect 0x54 va [v] (fun s =>
        s.storeOp { kind := .store, cls := cls, strong := strong, width := 32, data := v, op := 0x54 } va true 0 0)
        LogEntry.deliver))

/-- An object's entry. -/
def State.objEntry (s : State) (oid : Nat) : Obj := (s.space s.core.task.asid).objs.get {} oid

/-- Does the job's table hold the OID? (13 R358) -/
def State.oidOk (s : State) (oid : Nat) : Bool := decide (oid < (s.space s.core.task.asid).osize)

/-- An object check through the core's cache: a miss holds issue for up to 40 cycles (09 R282, 13 R359). -/
def State.objCheck (s : State) (oid : Nat) (f : State → Obj → State) : State :=
  if s.core.r.chk || s.core.ocache.contains oid then f s (s.objEntry oid)
  else
    match s.core.hold.chk with
    | some _ => s.wait
    | none =>
      let (n, s) := s.drawIn 1 40
      (s.onCore (fun c => { c with hold := { c.hold with chk := some (oid, s.cycle + n + c.release) } })).wait

/-- Number of the value by which a leader tells its checker that the object of an LDW is gone. -/
def checkNo (slot : Nat) : Nat := 0x110 + slot

/-- What an object check has found enters its entry of a pair's log: the results where the object is gone, else its base; a leader tells
its checker (17 R407, R409). -/
def State.found (s : State) (d : XReg) (q : QReg) (gone : Bool) (base : Nat) : State :=
  let n := s.core.iss.seq
  (s.onCore (fun c => { c with log := c.log.map (fun e =>
    if e.seq = n ∧ e.op = 0x52 then { e with ret := if gone then [.x d 0, .q q true] else [], adv := base } else e) })).pass
    (checkNo s.core.iss.slot) (if gone then 1 else 0)

/-- Does the entry of an object check say that the object is gone? -/
def LogEntry.gone (e : LogEntry) : Bool := e.ret.any (fun w => match w with | .q _ g => g | _ => false)

/-- LDW (05 R155): an OBJW whose object is gone reads nothing; an OBJS whose GEN differs, or whose object holds STRONG 0,
raises HANDLE; bytes beyond the object raise DFAULT 3. In a pair the object check is an effect with an entry of its own in the log, of its
Q result and the object's base; the load, which is not logged, is performed again in a replay (17 R414). -/
def execLdw (g : Guard) (strong : Bool) (w : BitVec 2) (hd : XReg) (ha : HReg) (xb : XReg) (xc : QReg) (cls : Cls)
    (off : BitVec 20) (s : State) : Out :=
  s.guarded g (fun s =>
    let h := s.core.h ha
    let n := widthBytes w
    let o := fld h 0 64 + s.core.x xb + sext64 off
    let src := [h.kind, h.gen]
    let ask (gone : Bool) : Ask := { kind := .loadW hd xc gone, cls := cls, strong := strong, width := n, op := 0x52 }
    if s.core.r.chk then
      let go (s : State) : State := s.pushMem { ask false with held := s.core.iss.abandon } 0 [] 0 none
      s.effect 0x52 h.oid src (fun s => go (s.found hd xc (s.passed (checkNo s.core.iss.slot) 0 == 1) 0)) (fun e s => if e.gone then e.deliver s.skipSeq else go s)
    else if (h.kind ≠ 3 ∧ h.kind ≠ 4) ∨ !s.oidOk h.oid then s.trapHandle ha
    else s.objCheck h.oid (fun s e =>
      let send (base : Nat) (s : State) : State :=
        s.eaOk (BitVec.ofNat 64 (base + o.toNat)) n (fun va => s.loadOp (ask false) va 7 false false)
      let fresh (s : State) : State :=
        if h.kind = 4 ∧ h.gen ≠ e.gen then s.pushMem (ask true) 0 [] (s.cycle + 7) none
        else if h.kind = 3 ∧ (h.gen ≠ e.gen ∨ e.strong = 0) then s.trapHandle ha
        else if e.pages * 4096 < o.toNat + n then s.trapData 0 3 o
        else send e.base s
      let again (l : LogEntry) (s : State) : State := if l.gone then l.deliver s.skipSeq else send l.adv s
      let found := s.core.logged 0x52 h.oid src
      let t := match found with | some l => again l s | none => fresh s
      if t.core.iss.verdict ≠ .ok then t
      else s.effect 0x52 h.oid src (fun s => fresh (s.found hd xc (h.kind = 4 ∧ h.gen ≠ e.gen) e.base)) again))

/-! ### Atomics (05 R157) -/

/-- An integer atomic at the home slice; with d = X0 it returns nothing and retires at issue. -/
def State.atomicOp (s : State) (op k : Nat) (u w64 : Bool) (d a b : XReg) (cls : Cls) : State :=
  let n := if w64 then 8 else 4
  let v := (s.core.x b).toNat % 2 ^ (8 * n)
  let cmp := s.core.x d
  s.eaOk (s.core.x a) n (fun va =>
    s.effect op va [v, cmp.toNat] (fun s =>
      let ask : Ask := { kind := .atomic k u d cmp, cls := cls, strong := true, width := n, data := v, op := op }
      if d = 0 then s.storeOp ask va true 0 0 else s.loadOp ask va 0 true true)
      LogEntry.deliver)

/-- AADD. -/
def execAadd (g : Guard) (w64 : Bool) (d a b : XReg) (cls : Cls) (s : State) : Out :=
  s.guarded g (fun s => s.atomicOp 0x60 0 false w64 d a b cls)
/-- AMAX. -/
def execAmax (g : Guard) (w64 u : Bool) (d a b : XReg) (cls : Cls) (s : State) : Out :=
  s.guarded g (fun s => s.atomicOp 0x61 1 u w64 d a b cls)
/-- AMIN. -/
def execAmin (g : Guard) (w64 u : Bool) (d a b : XReg) (cls : Cls) (s : State) : Out :=
  s.guarded g (fun s => s.atomicOp 0x62 2 u w64 d a b cls)
/-- AXCHG. -/
def execAxchg (g : Guard) (w64 : Bool) (d a b : XReg) (cls : Cls) (s : State) : Out :=
  s.guarded g (fun s => s.atomicOp 0x63 3 false w64 d a b cls)
/-- ACAS: X[d] is the expected value. -/
def execAcas (g : Guard) (w64 : Bool) (d a b : XReg) (cls : Cls) (s : State) : Out :=
  s.guarded g (fun s => s.atomicOp 0x64 4 false w64 d a b cls)

/-! ### Exact accumulators -/

/-- AFADD (05 R160): DFAULT 6 for a target in a range of another format, an exact contribution inside a range of this
format, NDET in a deterministic job, an ordinary rounded add otherwise. -/
def execAfadd (g : Guard) (f : BitVec 2) (a b : XReg) (cls : Cls) (s : State) : Out :=
  s.guarded g (fun s =>
    let n := accSize f.toNat
    let ea := s.core.x a
    let v := (s.core.x b).toNat % 2 ^ (8 * n)
    s.eaOk ea n (fun va =>
      let hits (r : Nat × Nat × Nat) : Bool := meets r.1 r.2.1 va n
      if s.core.ranges.any (fun r => hits r && r.2.2 != f.toNat) then s.trapData ea 6
      else
        let exact := s.core.ranges.any (fun r => hits r && r.2.2 == f.toNat)
        if !exact && s.core.r.det then s.trap 0x0C ea
        else
          s.effect 0x65 va [v] (fun s =>
            s.storeOp { kind := .afadd f.toNat exact, cls := cls, strong := true, width := n, data := v, op := 0x65 } va true 40 130)
            LogEntry.deliver))

/-- ACCRES (05 R159): no trap for a range that cannot be reserved; reading the initial contents can fault like a load. -/
def execAccres (g : Guard) (f : BitVec 2) (d a b : XReg) (cls : Cls) (s : State) : Out :=
  s.guarded g (fun s =>
    let va := (s.core.x a).toNat
    let len := (s.core.x b).toNat
    let ask : Ask := { kind := .accres f.toNat d len, cls := cls, strong := true, width := len, op := 0x66 }
    s.effect 0x66 va [len] (fun s =>
      let fail : State :=
        let (n, s) := s.drawIn 200 400
        s.pushMem { ask with kind := .accres f.toNat d 0, width := 0 } 0 [] (s.cycle + n + s.core.release) none
      if s.core.r.chk then s.pushMem { ask with held := s.core.iss.abandon } va [] 0 none
      else if !s.accresForm s.core.task.job f.toNat va len then fail
      else match s.reach s.core.task.asid none va len false (some s.core.iss.seq) with
        | .ok l t _ =>
          if t then fail
          else
            let (n, s) := s.drawIn 200 400
            let (k, s) := s.translateAll va len
            let (m, s) := s.drawIn 1 n
            (s.countHot s.core.task.asid none va len).pushMem { ask with due := s.cycle + k + n + s.core.release } va l (s.cycle + k + m + s.core.release) none
        | .wait v =>
          if s.core.iss.abandon then s.pushMem { ask with held := true } va [] s.cycle none
          else (s.noteFault v .load cls.toNat (some s.core.iss.seq)).wait
        | .bad _ cow => s.trapMapping (s.core.x a) cow)
      LogEntry.deliver)

/-- ACCREL (05 R161). -/
def execAccrel (g : Guard) (f : BitVec 2) (d a b : XReg) (cls : Cls) (s : State) : Out :=
  s.guarded g (fun s =>
    let va := (s.core.x a).toNat
    let len := (s.core.x b).toNat
    s.effect 0x67 va [len] (fun s =>
      let (n, s) := s.drawIn 200 400
      let (m, s) := s.drawIn 1 n
      s.pushMem { kind := .accrel f.toNat d len, cls := cls, strong := true, width := len, op := 0x67, due := s.cycle + n + s.core.release } va []
        (s.cycle + m + s.core.release) none)
      LogEntry.deliver)

/-! ### FENCE and LAUNCH -/

/-- FENCE (05 R163): issue goes on; an empty mask has no effect; well scope or wider empties L1; a
checker, whose accesses are its leader's, has nothing to order. -/
def execFence (g : Guard) (mask : BitVec 16) (scope : BitVec 3) (s : State) : Out :=
  s.guarded g (fun s =>
    if mask = 0 then s
    else if s.core.r.chk then s.skipSeq
    else
      let n := s.core.iss.seq
      let s := s.pushMem { kind := .fence mask.toNat scope.toNat, cls := 0, strong := true, width := 0, op := 0x70 } 0 [] s.cycle none
      (s.onCore (fun c => if scope.toNat = 0 then c else { c with l1 := [], fences := c.fences ++ [(n, mask.toNat)] })).settleOrder)

/-- LAUNCH (05 R173): the record is posted once every earlier access of the core is performed. -/
def execLaunch (g : Guard) (xb : XReg) (s : State) : Out :=
  s.guarded g (fun s =>
    let ea := s.core.x xb
    s.eaOk ea 64 (fun va =>
      let transposed : Bool := match (s.space s.core.task.asid).xlat none va 64 false with
        | .ok _ t _ => t
        | _ => false
      if transposed then s.trapData ea 5
      else
        s.effect 0x7A va [] (fun s =>
          if s.core.r.chk then s.skipSeq
          else s.pushMem { kind := .launch, cls := 0, strong := true, width := 0, op := 0x7A } va [] (s.cycle + s.core.release) none)
          LogEntry.deliver))

end Sys2Proof.Machine
end

