-- ==== Sys2Proof/Machine/Tree.lean ====
section
/-! DEFINITION. The token-tree file (01 R39, R40, 06 R207 to R209). -/

namespace Sys2Proof.Machine

open Sys2Proof

/-- A node's word. -/
def Core.node (c : Core) (i : Nat) : Word := c.tree.get nodeReset i
/-- VALID of a node word. -/
def nodeValid (w : Word) : Bool := bitAt w 63
/-- PARENT of a node word. -/
def nodeParent (w : Word) : Nat := fldN w 48 8
/-- KVSLOT of a node word. -/
def nodeSlot (w : Word) : Nat := fldN w 32 16

/-- Is node `i` valid? -/
def Core.valid (c : Core) (i : Nat) : Bool := nodeValid (c.node i)

/-- The valid nodes, ascending. -/
def Core.nodes (c : Core) : List Nat := (c.tree.filter (fun p => nodeValid p.2)).map (·.1)

/-- Node `i` and its ancestors, root first; parents lie below their children, so 256 steps suffice. -/
def Core.treePath (c : Core) : Nat → Nat → List Nat
  | 0, _ => []
  | f + 1, i => if nodeParent (c.node i) = 0xFF then [i] else Core.treePath c f (nodeParent (c.node i)) ++ [i]

/-- DEPTH of a node: its number of ancestors, 0 for an invalid one (01 R40, 06 R209). -/
def Core.depth (c : Core) (i : Nat) : Nat := if c.valid i then (c.treePath 256 i).length - 1 else 0

/-- Bit `j` of ANC(i); no bit for an invalid node (06 R209). -/
def Core.anc (c : Core) (i j : Nat) : Bool := c.valid i && (c.treePath 256 i).contains j

/-- A node index in a register: bits 7:0 (06 R207). -/
def Core.nodeIx (c : Core) (x : XReg) : Nat := (c.x x).toNat % 256

/-- TREE (16 Table 6): TRAPINFO1 names the node asked for. -/
def State.trapTree (s : State) (i : Nat) : State := s.trap 0x09 0 0 (BitVec.ofNat 64 i)

/-- KTCLR. -/
def execKtclr (g : Guard) (s : State) : Out := s.guarded g (fun s => s.sched 3 .treeClear)

/-- The index KTADD takes: one past the highest valid node. -/
def Core.nextNode (c : Core) : Nat := c.nodes.foldl (fun m i => max m (i + 1)) 0

/-- KTADD: TREE for a full file, a parent that is not valid, or one at or above the new node (06 R208). -/
def execKtadd (g : Guard) (hd xb xc : XReg) (s : State) : Out :=
  s.guarded g (fun s =>
    let c := s.core
    let n := c.nextNode
    let p := c.nodeIx xb
    if n = 256 ∨ (p ≠ 0xFF ∧ (n ≤ p ∨ !c.valid p)) then s.trapTree n
    else
      (s.sched 3 (.node n (BitVec.ofNat 64 (2 ^ 63 + p * 2 ^ 48 + (c.x xc).toNat % 2 ^ 48)))).schedX 3 hd
        (BitVec.ofNat 64 n))

/-- KTSET (06 R208). -/
def execKtset (g : Guard) (xb xc : XReg) (s : State) : Out :=
  s.guarded g (fun s =>
    let c := s.core
    let i := c.nodeIx xb
    let w := c.x xc &&& 0x80FFFFFFFFFFFFFF
    let p := nodeParent w
    if nodeValid w then
      (if p ≠ 0xFF ∧ (i ≤ p ∨ !c.valid p) then s.trapTree i else s.sched 3 (.node i w))
    else if i ≠ 0xFF ∧ c.nodes.any (fun j => nodeParent (c.node j) == i) then s.trapTree i
    else s.sched 3 (.node i w))

/-- KTGET.node. -/
def execKtgetNode (g : Guard) (hd xb : XReg) (s : State) : Out :=
  s.guarded g (fun s => s.schedX 3 hd (s.core.node (s.core.nodeIx xb)))

/-- KTGET.depth. -/
def execKtgetDepth (g : Guard) (hd xb : XReg) (s : State) : Out :=
  s.guarded g (fun s => s.schedX 3 hd (BitVec.ofNat 64 (s.core.depth (s.core.nodeIx xb))))

/-- NODES (01 R40). -/
def Core.nodeCount (c : Core) : Nat := c.nodes.length

/-- KTGET.nodes. -/
def execKtgetNodes (g : Guard) (hd : XReg) (s : State) : Out :=
  s.guarded g (fun s => s.schedX 3 hd (BitVec.ofNat 64 s.core.nodeCount))

/-- A tree operation that writes all 16 rows of a tile of one format (06 R209); the elements are formed at issue. -/
def State.treeTile (s : State) (ha : HReg) (fmt : Fmt) (f : Nat → State) : State :=
  s.onTile ha (fun t => s.owned t (fun e =>
    if e.fmt ≠ fmt.code then s.trapTile t 8 else f t))

/-- The write of a tree operation, after the promotion of a symbolic target. -/
def State.treeWrite (s : State) (t : Nat) (els : List Nat) (p : Option (XReg × Word)) : State :=
  s.promoting [t] ((s.onCore (fun c => c.cancel t)).sched 3 (.rows t els p))

/-- KTANC: ancestor masks of 16 query nodes over 64 key nodes. -/
def execKtanc (g : Guard) (ha : HReg) (xb xc : XReg) (s : State) : Out :=
  s.guarded g (fun s => s.treeTile ha .mask1 (fun t =>
    let q0 := fldN (s.core.x xb) 4 4 * 16
    let k0 := fldN (s.core.x xc) 6 2 * 64
    s.treeWrite t (tab 1024 (fun i => if s.core.anc (q0 + i / 64) (k0 + i % 64) then 1 else 0)) none))

/-- KTPOS: positions of the nodes behind a prefix. -/
def execKtpos (g : Guard) (ha : HReg) (xb : XReg) (s : State) : Out :=
  s.guarded g (fun s => s.treeTile ha .int32 (fun t =>
    s.treeWrite t (tab 1024 (fun i =>
      if i < 256 then
        (if s.core.valid i then ((s.core.x xb).toNat + s.core.depth i) % 2 ^ 32 else 0xFFFFFFFF)
      else 0)) none))

/-- The elements KTPRUNE writes for the leaf `a` and prefix length `p` (06 R209). -/
def Core.pruneEls (c : Core) (a : Nat) (p : Word) : List Nat :=
  let path := c.treePath 256 a
  let gone := c.nodes.filter (fun i => !path.contains i)
  tab 1024 (fun i =>
    if i < 512 then
      (if i / 2 < path.length then
        (if i % 2 = 0 then nodeSlot (c.node (path.getD (i / 2) 0)) else (p.toNat + i / 2) % 2 ^ 32)
      else 0xFFFFFFFF)
    else if i < 768 then
      (if i - 512 < gone.length then nodeSlot (c.node (gone.getD (i - 512) 0)) else 0xFFFFFFFF)
    else 0)

/-- KTPRUNE: the path to a leaf, the rejected nodes, and the file cleared. -/
def execKtprune (g : Guard) (hd : XReg) (ha : HReg) (xb xc : XReg) (s : State) : Out :=
  s.guarded g (fun s => s.treeTile ha .int32 (fun t =>
    let a := s.core.nodeIx xb
    if !s.core.valid a then s.trapTree a
    else
      s.treeWrite t (s.core.pruneEls a (s.core.x xc))
        (some (hd, BitVec.ofNat 64 (s.core.treePath 256 a).length))))

end Sys2Proof.Machine
end

