-- ==== Sys2Proof/Machine/Windlass.lean ====
section
/-! DEFINITION. The Windlass (09 R287 to R296): configuration, replay, offsets and the indirect lookup. -/

namespace Sys2Proof.Machine

open Sys2Proof

/-! ### Reading the configuration (09 R290, R293) -/

/-- Does the captured copy serve reads? -/
def Wl.held (w : Wl) : Bool := w.active || w.susp

/-- A configuration word as WLSTAT reads it: the captured copy of a captured level while a replay runs or is suspended. -/
def Wl.word (w : Wl) (lv k : Nat) : Word :=
  if w.held && decide (lv < w.depth) then w.cap.get 0 (lv * 16 + k) else w.cfg.get 0 (lv * 16 + k)

/-- A counter. -/
def Wl.count (w : Wl) (l : Nat) : Nat := w.wc.toList.getD l 0

/-- The byte step of a level for a channel: its counter times CINC, and for the indirect level LV times CINC (INT32
indices), or LV where CINC is not 0 (virtual addresses). -/
def Wl.coff (w : Wl) (l ch : Nat) : Word :=
  let cinc := w.word l (3 + ch)
  let w0 := w.word l 0
  if !bitAt w0 8 then BitVec.ofNat 64 (w.count l) * cinc
  else if bitAt w0 9 then (if cinc = 0 then 0 else w.lv)
  else w.lv * cinc

/-- WOFF of a channel (09 R293). -/
def Wl.woff (w : Wl) (ch : Nat) : Word := (List.range w.depth).foldl (fun acc l => acc + w.coff l ch) 0

/-! ### Configuration (09 R288, R289) -/

/-- WLCFG. -/
def execWlcfg (g : Guard) (xb : XReg) (lv : BitVec 3) (word : BitVec 4) (s : State) : Out :=
  s.guarded g (fun s => s.sched 1 (.wlWord lv.toNat word.toNat (s.core.x xb)))

/-- Opcodes that no template entry may hold: BR, BRX, CALL, RET, LOOP, TRET, WLCFG, WLTPL, WLRUN, SETSEQ. -/
def notInTemplate : List Nat := [0x40, 0x41, 0x42, 0x43, 0x44, 0x78, 0xB8, 0xB9, 0xBA, 0xBD]

/-- May entry `e` stand in a template, as its last entry or before it? -/
def templateEntryOk (e : BitVec 384) (last : Bool) : Bool :=
  let h := fld e 0 16
  bitAt h 8 == last && (!last || bitAt h 6) && !(bitAt h 0 && notInTemplate.contains (fldN e 24 8))

/-- An entry of the dictionary. -/
def Core.entry (c : Core) (k : Nat) : BitVec 384 := c.dict.get 0 k

/-- WLTPL: checks the range against the dictionary; an empty range is not checked. -/
def execWltpl (g : Guard) (xb xc : XReg) (lv : BitVec 3) (tpl : BitVec 2) (s : State) : Out :=
  s.guarded g (fun s =>
    let start := fldN (s.core.x xb) 0 10
    let len := fldN (s.core.x xc) 0 11
    if len ≠ 0 ∧ s.core.kern.n < start + len then s.trapEnc 1
    else if !(List.range len).all (fun k => templateEntryOk (s.core.entry (start + k)) (k + 1 == len)) then s.trapEnc 2
    else s.sched 1 (.wlWord lv.toNat (11 + tpl.toNat) (BitVec.ofNat 64 (len * 2 ^ 16 + start))))

/-- SETSEQ. -/
def execSetseq (g : Guard) (xb : XReg) (s : State) : Out := s.guarded g (fun s => s.sched 1 (.seqlen (s.core.x xb)))

/-- WLSTAT (09 R290). -/
def execWlstat (g : Guard) (hd : XReg) (lv : BitVec 3) (item : BitVec 5) (s : State) : Out :=
  s.guarded g (fun s =>
    let w := s.core.wl
    s.schedX 3 hd
      (if item.toNat ≤ 13 then w.word lv.toNat item.toNat
       else if item.toNat = 14 then BitVec.ofNat 64 (w.count lv.toNat)
       else if item.toNat = 15 then w.woff lv.toNat
       else w.position))

/-! ### WLRUN (09 R291) -/

/-- The trip count of a level's word 0, 32 bits. -/
def Core.trip (c : Core) (w0 : Word) : Nat :=
  (match fldN w0 0 2 with
    | 0 => fldN w0 32 16
    | 1 => (c.x (fld w0 2 6)).toNat
    | 2 => ceilDiv c.r.seqlen.toNat 16
    | _ => c.nodes.length) % 2 ^ 32

/-- Is an X register the destination of an outstanding access? -/
def Core.xBusy (c : Core) (x : XReg) : Bool :=
  x != 0 && c.mu.any (fun i => i.returns && (match i.kind with
    | .load d | .loadW d _ _ | .atomic _ _ d _ | .accres _ d _ | .accrel _ d _ => d == x
    | _ => false))

/-- The replay that WLRUN starts, at its first pass with an entry, or finished. -/
def Core.startReplay (c : Core) (depth : Nat) (ind itile : Option Nat) : Core :=
  let cap := c.wl.cfg.filter (fun e => decide (e.1 < 16 * depth))
  let word0 (l : Nat) : Word := c.wl.cfg.get 0 (16 * l)
  let w : Wl :=
    { c.wl with cap := cap, depth := depth, trips := Vector.ofFn (fun l => if l.val < depth then c.trip (word0 l.val) else 0),
                wc := c.wl.wc.set 0 0, active := true, susp := false, runIx := c.iss.pc, retIx := c.iss.next,
                level := 0, tpl := 0, fin := false, stop := false, lv := 0, look := none, itile := itile,
                seen := match ind with | some 0 => none | some l => some (c.wl.count l) | none => none }
  let w := if w.tplLen 0 0 = 0 then w.nextPass wlFuel else { w with entry := w.tplStart 0 0 }
  { c with wl := w, r := c.r.setWlact true }

/-- WLRUN: a suspended replay is discarded first; the configuration is captured and checked; ITILE passes to the Windlass at
issue + 1, and the first replayed bundle, or the bundle after WLRUN where none is replayed, issues at issue + 3. -/
def execWlrun (g : Guard) (lv : BitVec 3) (s : State) : Out :=
  s.guarded g (fun s =>
    let s := s.onCore (fun c => if c.wl.susp then { c.dropItile with wl := { c.dropItile.wl with susp := false } } else c)
    let c := s.core
    let depth := lv.toNat + 1
    let word0 (l : Nat) : Word := c.wl.cfg.get 0 (16 * l)
    let inds := (List.range depth).filter (fun l => bitAt (word0 l) 8)
    let ind := inds.head?
    let bare := (List.range depth).any (fun l => fldN (c.wl.cfg.get 0 (16 * l + 12)) 16 11 == 0)
    let busy := (List.range depth).any (fun l => fldN (word0 l) 0 2 == 1 && c.xBusy (fld (word0 l) 2 6))
    let go (t : Option Nat) : State :=
      let s := s.onCore (fun c => { c.startReplay depth ind t with iss := { c.iss with ready := s.cycle + 3 } })
      match t with
      | some t => (s.onCore (fun c => c.cancel t)).sched 1 (.grant t 10 none)
      | none => s
    if busy then s.wait
    else if 1 < inds.length then s.trapEnc 3
    else if bare then s.trapEnc 4
    else match ind with
      | none => go none
      | some l =>
        let t := fldN (word0 l) 10 12
        let e := c.tile t
        if e.kind = 0 then s.trapTile t 2
        else if e.own ≠ 0 then s.trapTile t 3
        else if e.fmt ≠ (if bitAt (word0 l) 9 then Fmt.int64 else Fmt.int32).code then s.trapTile t 8
        else go (some t))

/-- WLSTOP: the replay ends with the current pass; from the stream it has no effect (09 R292). -/
def execWlstop (g : Guard) (s : State) : Out :=
  s.guarded g (fun s => s.onCore (fun c => if c.wl.active && c.iss.replay then { c with wl := { c.wl with stop := true } } else c))

/-! ### The indirect lookup (09 R294) -/

/-- The indirect level of the captured configuration. -/
def Wl.ind (w : Wl) : Option Nat := (List.range w.depth).find? (fun l => bitAt (w.cap.get 0 (16 * l)) 8)

/-- Core writes to a row that issued before the tile's grant are ob-before the engine's reads of it (10 R307): the core as they leave it. -/
def Core.rowAhead (c : Core) (now t r : Nat) : Core :=
  ((c.flight ++ c.captured ++ c.halted ++ c.resume.toList).filter (fun p => decide (p.seq < (c.tile t).gseq) && p.w.hits t r)).foldl
    (fun d p => d.applyWrite now p.w) c

/-- At the issue of a replayed bundle: where the indirect counter has a value not seen yet, element `i mod 1024` of ITILE is
read, as writes of the core from before the grant leave it, and becomes LV 6 cycles later; until then LV is the value looked up for
the counter before. -/
def Core.wlLook (c : Core) (now : Nat) : Core :=
  match c.wl.active, c.wl.ind, c.wl.itile with
  | true, some l, some t =>
    let i := c.wl.count l
    if c.wl.seen = some i then c
    else
      let lv := match c.wl.look with | some (_, v) => v | none => c.wl.lv
      { c with wl := { c.wl with seen := some i, lv := lv, look := some (now + 6, BitVec.ofNat 64 ((c.rowAhead now t (i % 1024 / 64)).tileElem t (i % 1024))) } }
  | _, _, _ => c

/-- WINDLASS_LOOKUP: the value looked up is visible. -/
def execWindlassLookup (s : State) : Out :=
  .next (s.onCore (fun c =>
    match c.wl.look with
    | some (due, v) => if due ≤ s.cycle then { c with wl := { c.wl with lv := v, look := none } } else c
    | none => c))

/-! ### The end of a replay (09 R291, R292) -/

/-- WINDLASS_REPLAY_END: WLACT clears and ITILE returns; the stream goes on after WLRUN. -/
def execWindlassReplayEnd (s : State) : Out :=
  .next (s.onCore (fun c =>
    if c.wl.active && c.wl.fin then
      let c := c.dropItile
      { c with wl := { c.wl with active := false, fin := false, stop := false }, r := c.r.setWlact false, pc := c.wl.retIx }
    else c))

end Sys2Proof.Machine
end

