-- ==== Sys2Proof/Machine/Pumps.lean ====
section
/-! DEFINITION. Issue of the P commands: endpoints, object checks, formats, regions, ownership, acceptance (09 R266 to R283)
and the report of a pending pump fault (09 R285). -/

namespace Sys2Proof

/-! ### A command's fields -/

/-- FLAGS subfields (09 Table 1). -/
def PArgs.sk (p : PArgs) : Nat := fldN p.flags 13 2
/-- DK. -/
def PArgs.dk (p : PArgs) : Nat := fldN p.flags 11 2
/-- CV. -/
def PArgs.cv (p : PArgs) : Bool := bitAt p.flags 10
/-- CFMT. -/
def PArgs.cfmt (p : PArgs) : Nat := fldN p.flags 5 5
/-- SAT. -/
def PArgs.sat (p : PArgs) : Bool := bitAt p.flags 4
/-- GQ. -/
def PArgs.gq (p : PArgs) : QReg := fld p.flags 0 4

/-- VFMT of a VIEW. -/
def Handle.vfmt (h : Handle) : Nat := fldN h 224 5
/-- STR of a VIEW. -/
def Handle.str (h : Handle) : Bool := bitAt h 229

end Sys2Proof

namespace Sys2Proof.Machine

open Sys2Proof

/-! ### Staging and reports -/

/-- Register `j` of the command's staging set: SA in P0, SB in P1 (03 R94). -/
def Core.staged (c : Core) (p : PArgs) (j : Nat) : Word :=
  c.r.stg.at (4 * p.set.toNat + j + (if c.iss.slot = 5 then 32 else 0))

/-- A pending pump fault as the trap that reports it (09 R285). -/
def PumpFault.trap (f : PumpFault) (ch slot : Nat) : Trap :=
  { code := f.code, slot := slot, addr := f.addr,
    info := #v[0, BitVec.ofNat 64 f.reason, BitVec.ofNat 64 f.op, BitVec.ofNat 64 (2 ^ 62 + ch)] }

/-! ### Endpoints (09 R272, R282) -/

/-- One side at issue: the endpoint; the VIEW it is reached through; its format, none where a page gives it. -/
structure Side where
  e    : End
  view : Option Handle := none
  fmt  : Option Nat := none
  deriving DecidableEq, Repr

/-- Is the side in memory? -/
def Side.isMem (x : Side) : Bool := match x.e with | .mem _ _ _ _ _ _ _ => true | _ => false
/-- Is the side operand memory? -/
def Side.isSlot (x : Side) : Bool := match x.e with | .slot _ _ => true | _ => false
/-- First address of a memory side. -/
def Side.first (x : Side) : Nat := match x.e with | .mem b _ _ _ _ _ _ => wrapN 64 b | _ => 0

/-- A VIEW's region of its object, at an addend (01 R18): the object's first address and the addresses it covers. -/
def viewEnd (h : Handle) (o : Obj) (add : Word) : End :=
  .mem ((o.base + (fld h 0 64 + add).toNat : Nat) : Int) (viewCnt (fldN h 112 16)) (viewCnt (fldN h 128 16))
    (viewCnt (fldN h 144 16)) (sgn 32 (fldN h 160 32)) (sgn 32 (fldN h 192 32)) (some (o.base, o.base + o.pages * 4096))

/-- A side of an endpoint code; none where the handle is of another kind. `tile` and `view` say whether code 0 may name
one. An address of code 2 has its shape put in later. -/
def State.sideOf (s : State) (code : Nat) (r : HReg) (add woff : Word) (tile view : Bool) : Option Side :=
  let h := s.core.h r
  let row := fldN add 0 16
  match code with
  | 0 =>
    if h.kind = 1 ∧ tile then some { e := .tile h.tix row, fmt := some (s.core.tile (wrapN 12 (h.tix + row / 16))).fmt }
    else if h.kind = 5 ∧ view then
      some { e := viewEnd h (s.objEntry h.oid) (add + woff), view := some h, fmt := if h.vfmt = 31 then none else some h.vfmt }
    else none
  | 1 =>
    if h.kind = 1 ∧ h.tix < 64 then some { e := .slot h.tix row, fmt := some (s.core.slot (h.tix + row / 16)).fmt } else none
  | _ => some { e := .mem ((add + woff).toNat : Int) 1 1 1 0 0 none }

/-- A memory side with runs of `e0` bytes (09 R272, R277); a VIEW keeps its own region where `view` is false. -/
def Side.shaped (x : Side) (view : Bool) (e0 e1 e2 : Nat) (s1 s2 : Int) : Side :=
  match x.e with
  | .mem b _ _ _ _ _ ext => if view || x.view.isNone then { x with e := .mem b e0 e1 e2 s1 s2 ext } else x
  | _ => x

/-- The dense shape of S2. -/
def Side.dense (x : Side) (s2 : Word) : Side :=
  let e0 := viewCnt (fldN s2 0 16)
  let e1 := viewCnt (fldN s2 16 16)
  x.shaped false e0 e1 (viewCnt (fldN s2 32 16)) e0 ((e0 * e1 : Nat) : Int)

/-- The object check of a VIEW at issue (01 R19, 09 R282): ENC for a reserved VFMT, HANDLE, COW for a write, or gone. -/
def State.viewCheck (s : State) (r : HReg) (x : Side) (write : Bool) (f : Bool → State → State) : State :=
  match x.view with
  | none => f false s
  | some h =>
    if h.vfmt ≠ 31 ∧ (Fmt.ofCode h.vfmt).isNone then s.trapEnc
    else if !s.oidOk h.oid then s.trapHandle r
    else s.objCheck h.oid (fun s o =>
      let same := h.gen = o.gen ∧ o.state = 1
      if h.str = true ∧ (¬ same ∨ o.strong = 0) then s.trapHandle r
      else if h.str = false ∧ ¬ same then f true s
      else if write && o.shared then s.trap 0x08 (BitVec.ofNat 64 x.first) 0 (BitVec.ofNat 64 h.oid) (BitVec.ofNat 64 o.strong)
      else f false s)

/-! ### Formats (09 R273) -/

/-- The format a first page gives, translated at issue: a miss of the core's cache holds for the walk, a missing mapping
until Shogiwald answers, a mapping declared invalid raises DFAULT 0. -/
def State.pageFmt (s : State) (ch cls va : Nat) (f : Nat → State → State) : State :=
  match s.reach s.core.task.asid (some (s.cid * 16 + ch)) va 1 false (some s.core.iss.seq) with
  | .ok _ _ e =>
    if s.core.tlb.contains (va / 4096) then f (pteFmt e) s
    else
      match s.core.hold.walk with
      | some _ => s.wait
      | none =>
        let (n, s) := s.walkLat (va / 4096)
        (s.onCore (fun c => { c with hold := { c.hold with walk := some (va / 4096, s.cycle + n + c.release) } })).wait
  | .wait v => (s.noteFault v .pumpRead cls (some s.core.iss.seq)).wait
  | .bad _ _ => s.trapData (BitVec.ofNat 64 va) 0

/-- The format of a side: its own, or that of the first page it touches; none where it touches none that is known. -/
def State.sideFmt (s : State) (ch cls : Nat) (x : Side) (first : Option Nat) (f : Option Nat → State → State) : State :=
  match x.fmt, first with
  | some v, _ => f (some v) s
  | none, none => f none s
  | none, some va => s.pageFmt ch cls va (fun v s => f (some v) s)

/-- The first entry of the index list that moves a unit, as far as the list is settled at issue: a tile that the channel
still holds may be written before the list is read. -/
def Core.firstUnit (c : Core) (ch itile ne : Nat) (pair : Bool) : Option (Nat × Nat) :=
  let step : Nat := if pair then 2 else 1
  let tileOf (k : Nat) : Nat := wrapN 12 (itile + k * step / 1024)
  let known (k : Nat) : Bool := !(c.chan ch).queue.any (fun j => j.tiles.contains (tileOf k)) && (c.tile (tileOf k)).kind != 0
  ((List.range ne).takeWhile known).findSome? (fun (k : Nat) =>
    let x := c.tileElem (tileOf k) (k * step % 1024)
    let y := if pair then c.tileElem (tileOf k) ((k * step + 1) % 1024) else 0
    if x = noIndex ∨ y = noIndex then none else some (x, y))

/-! ### Tiles, slots and regions -/

/-- The rows' groups of 16 that `n` rows from addend `a` lie in. -/
def groupsOf (a : Int) (n : Nat) : List Int :=
  if n = 0 then [] else tab ((a % 16 + n + 15) / 16).toNat (fun i => a / 16 + i)

/-- Tiles of a tile side, over all copies, ascending. -/
def Side.tiles (x : Side) (n copies : Nat) (dist : Int) : List Nat :=
  match x.e with
  | .tile t a => sortN ((List.range copies).flatMap (fun (i : Nat) => (groupsOf (a + i * dist) n).map (fun g => wrapN 12 (t + g))))
  | _ => []

/-- Slots of a slot side, over all copies; an index outside 0 to 63 becomes 64. -/
def Side.slots (x : Side) (n copies : Nat) (dist : Int) : List Nat :=
  match x.e with
  | .slot o a =>
    sortN ((List.range copies).flatMap (fun (i : Nat) => (groupsOf (a + i * dist) n).map (fun g =>
      let k : Int := o + g
      if 0 ≤ k ∧ k < 64 then k.toNat else 64)))
  | _ => []

/-- Does a region hold `n` bytes, and, as a destination, ascend? (09 R276) -/
def Side.regionOk (x : Side) (n : Nat) (dst : Bool) : Bool :=
  match x.e with
  | .mem _ e0 e1 e2 s1 s2 _ =>
    decide (n ≤ e0 * e1 * e2) &&
    (!dst || ((decide (e1 ≤ 1) || decide ((e0 : Int) ≤ s1)) && (decide (e2 ≤ 1) || decide (((e1 : Int) - 1) * s1 + e0 ≤ s2))))
  | _ => true

/-- The runs (first byte, one past the last) that the first `n` bytes of a region lie in. -/
def End.runs (e : End) (shift : Int) (n : Nat) : List (Nat × Nat) :=
  match e with
  | .mem base e0 e1 _ s1 s2 _ =>
    tab (ceilDiv n e0) (fun q =>
      let a := (regionAt (base + shift) e0 e1 s1 s2 (q * e0)).1
      (a, a + min e0 (n - q * e0)))
  | _ => []

/-- Intervals with `lo` to `hi - 1` joined in. -/
def spanUnion (l : List (Nat × Nat)) (lo hi : Nat) : List (Nat × Nat) :=
  let near (x : Nat × Nat) : Bool := decide (x.1 ≤ hi ∧ lo ≤ x.2)
  let m := l.filter near
  (m.foldl (fun a x => min a x.1) lo, m.foldl (fun a x => max a x.2) hi) :: l.filter (fun x => !near x)

/-- Granules that runs touch, each once. -/
def granulesTouched (runs : List (Nat × Nat)) : Nat :=
  ((runs.foldl (fun l x => spanUnion l (x.1 / 128) ((x.2 + 127) / 128)) []).map (fun x => x.2 - x.1)).foldl (· + ·) 0

/-- The first address of the runs that lies in a range reserved in another format (09 R278). -/
def firstOther (runs : List (Nat × Nat)) (ranges : List (Nat × Nat × Nat)) (f : Nat) : Option Nat :=
  (runs.flatMap (fun x => ranges.filterMap (fun r =>
    if r.2.2 ≠ f ∧ r.1 < x.2 ∧ x.1 < r.1 + r.2.1 then some (max x.1 r.1) else none))).foldl
      (fun m a => match m with | none => some a | some b => some (min a b)) none

/-- The first address from `a` on that the ranges leave free, `fuel` steps at most. -/
def skipRanges (ranges : List (Nat × Nat × Nat)) (f : Nat) : Nat → Nat → Nat
  | 0, a => a
  | fuel + 1, a =>
    match ranges.find? (fun r => decide (r.2.2 = f ∧ r.1 ≤ a ∧ a < r.1 + r.2.1)) with
    | some r => skipRanges ranges f fuel (r.1 + r.2.1)
    | none => a

/-- The first address of the runs outside every range of the format. -/
def firstFree (runs : List (Nat × Nat)) (ranges : List (Nat × Nat × Nat)) (f : Nat) : Option Nat :=
  runs.findSome? (fun x =>
    let a := skipRanges ranges f ranges.length x.1
    if a < x.2 then some a else none)

/-! ### Acceptance (09 R266, R269, R270) -/

/-- Q[GQ] at issue + 3. -/
def State.goneResult (s : State) (p : PArgs) (gone : Bool) : State := s.sched 3 (.q p.gq gone)

/-- The command enters its queue; the tiles it names pass to the channel at issue + 1, those it writes with its format. -/
def State.accept (s : State) (p : PArgs) (k : PumpCmd) : State :=
  let n := p.ch.toNat
  let follow := s.core.r.chk && !k.gone && k.nr != 0 && k.copies != 0 && (match k.dst with | .mem _ _ _ _ _ _ _ => true | _ => false)
  let s := s.onCore (fun c =>
    let c := c.modChan n (fun h => { h with queue := h.queue ++ [{ k with seq := c.iss.seq, issued := s.cycle, ready := s.cycle, follow := follow }] })
    k.tiles.foldl (fun c t => c.cancel t) { c with iss := { c.iss with seq := c.iss.seq + 1 } })
  k.tiles.foldl (fun s t => s.sched 1 (.grant t (n + 1) (if k.wtiles.contains t then some k.fd else none))) s

/-- The command without its effect: gone, or met in a log (09 R282, 17 R414). -/
def PumpCmd.noEffect (k : PumpCmd) (count : Nat) : PumpCmd :=
  { k with gone := true, count := count, tiles := [], wtiles := [], slots := [] }

/-- Number of the value a leader passes to its checker for the command in a slot (17 R407): gone, Fs and Fd. -/
def goneNo (slot : Nat) : Nat := 0x100 + slot

/-- A command that leaves a pair is matched with its log, its gone result with it (17 R409, R414). -/
def State.acceptLogged (s : State) (p : PArgs) (k : PumpCmd) (view : Bool) (src : List Nat) : State :=
  let s := s.onCore (fun c =>
    if c.r.prot && !c.r.chk then
      { c with iss := { c.iss with fwd := c.iss.fwd ++ [(goneNo c.iss.slot, BitVec.ofNat 64 ((if k.gone then 1 else 0) + 2 * k.fs + 64 * k.fd))] } }
    else c)
  let mem := match k.dst with | .mem _ _ _ _ _ _ _ => true | _ => false
  let go (s : State) : State :=
    let seq := s.core.iss.seq
    (s.onCore (fun c => c.logRet seq [.q p.gq k.gone])).accept p k |>.goneResult p k.gone
  if mem || view then
    s.effect ((if mem then 0x100 else 0x120) + k.op) (src.headD 0) src go (fun e s =>
      let s := if mem then s.accept p (k.noEffect e.adv)
        else if e.ret.contains (.q p.gq true) then s.accept p (k.noEffect k.count) else s.accept p k
      e.deliver s)
  else go s

/-! ### Issue -/

/-- What a command asks for, once its sides and formats are known; `lost` says of the source and of the destination whether its object
is gone. -/
structure PumpAsk where
  op   : Nat
  p    : PArgs
  s0   : Word
  s1   : Word
  s2   : Word
  s3   : Word
  src  : Side
  dst  : Side
  gone : Bool := false
  lost : Bool × Bool := (false, false)
  fs   : Option Nat := none
  fd   : Option Nat := none
  deriving DecidableEq, Repr

/-- NR, or the entries NE. -/
def PumpAsk.n (a : PumpAsk) : Nat := fldN a.s3 0 16
/-- Unit U. -/
def PumpAsk.u (a : PumpAsk) : Nat := fldN a.s2 0 32
/-- Unit stride. -/
def PumpAsk.stride (a : PumpAsk) : Nat := fldN a.s2 32 32
/-- Index tile. -/
def PumpAsk.itile (a : PumpAsk) : Nat := fldN a.s3 16 12
/-- Mode of an indexed command. -/
def PumpAsk.mode (a : PumpAsk) : Nat := if a.op = 1 ∨ a.op = 2 then fldN a.s3 28 2 else 0
/-- Does the command move units by an index list? -/
def PumpAsk.indexed (a : PumpAsk) : Bool := a.op == 1 || a.op == 2
/-- Copies. -/
def PumpAsk.copies (a : PumpAsk) : Nat := if a.op = 4 then fldN a.s2 0 16 else 1
/-- Distance between copies. -/
def PumpAsk.dist (a : PumpAsk) : Int := if a.op = 4 then sgn 32 (fldN a.s2 32 32) else 0
/-- Bytes of the stream side of an indexed command. -/
def PumpAsk.streamBytes (a : PumpAsk) : Nat := a.n * a.u

/-- The command with the shapes of its memory sides: a side whose units an index names, the stream side of an indexed
command, a dense run for PBCAST, the shape of S2 otherwise. -/
def PumpAsk.shape (a : PumpAsk) : PumpAsk :=
  let indexed (x : Side) : Side := x.shaped true a.u 0xFFFFFFFF 1 a.stride 0
  let run (x : Side) (n : Nat) : Side := x.shaped false n 1 1 0 0
  let wide (f : Option Nat) : Nat := a.n * rowBytes (f.getD Fmt.int64.code)
  match a.op with
  | 1 => { a with src := indexed a.src, dst := if a.mode = 1 then indexed a.dst else run a.dst a.streamBytes }
  | 2 => { a with src := run a.src a.streamBytes, dst := indexed a.dst }
  | 4 => { a with src := run a.src (wide a.fs), dst := run a.dst (wide a.fd) }
  | _ => { a with src := a.src.dense a.s2, dst := a.dst.dense a.s2 }

/-- The pointer advance of a gone command, formed without reading memory or a list (09 R282). A row of a tile destination is as wide
as the tile's format, which has Fd's width. Mark: DESIGN CHOICE (log 50): a format that only a page of the gone object would give counts
as the one with which the pointer advances furthest. -/
def PumpAsk.goneCount (a : PumpAsk) : Nat :=
  let fd := (if a.p.cv then some a.p.cfmt else a.fd).getD Fmt.int64.code
  if a.indexed then
    if a.dst.isMem then a.n * (ceilDiv a.u 128 + 1)
    else ceilDiv a.streamBytes (rowBytes ((if a.dst.isSlot then a.fs else a.dst.fmt).getD Fmt.mask1.code))
  else if a.dst.isMem then
    granulesTouched ((List.range a.copies).flatMap (fun (i : Nat) => a.dst.e.runs (i * a.dist) (a.n * rowBytes fd)))
  else a.n * a.copies

/-- The command as its queue holds it. -/
def PumpAsk.cmd (a : PumpAsk) : PumpCmd :=
  let page (x : Side) (f : Option Nat) : Option Nat := if x.isMem && x.fmt.isNone then f else none
  { seq := 0, op := a.op, src := a.src.e, dst := a.dst.e, fs := a.fs.getD (if a.gone then 31 else 0), fd := a.fd.getD (if a.gone then 31 else 0), sat := a.p.sat,
    cls := a.p.cls.toNat, nr := a.n, copies := a.copies, dist := a.dist, mode := a.mode, itile := a.itile,
    comb := if a.op = 3 then fldN a.s3 16 2 else 0, gone := a.gone, count := if a.gone then a.goneCount else 0,
    pfs := page a.src a.fs, pfd := page a.dst a.fd }

/-- The source values that form the effect in a pair's log. -/
def PumpAsk.values (a : PumpAsk) (c : Core) : List Nat :=
  [a.s1.toNat, a.s0.toNat, a.s2.toNat, a.s3.toNat, (c.h a.p.hs).toNat, (c.h a.p.hd).toNat]

/-- Acceptance of a command that passed its checks; symbolic destination tiles are promoted first (09 R274). -/
def State.pumpAccept (s : State) (a : PumpAsk) (k : PumpCmd) : State :=
  s.promoting k.wtiles (s.acceptLogged a.p k (a.src.view.isSome || a.dst.view.isSome) (a.values s.core))

/-- Tiles, slots and owners (09 R269, R272, R273, R277). -/
def State.pumpTiles (s : State) (a : PumpAsk) : State :=
  let c := s.core
  let n := a.p.ch.toNat
  let fd := a.fd.getD 0
  let rows := if a.indexed then ceilDiv a.streamBytes (rowBytes fd) else a.n
  let lists := if a.indexed then sortN (tab (max 1 (ceilDiv (if a.mode = 1 then 2 * a.n else a.n) 1024)) (fun i => wrapN 12 (a.itile + i))) else []
  let srcs := if a.op = 5 then [] else a.src.tiles rows 1 0
  let dsts := a.dst.tiles rows a.copies a.dist
  let slots := a.dst.slots rows a.copies a.dist
  let isFree (t : Nat) : Bool := (c.tile t).kind == 0
  let unclaimed (o : Nat) : Bool := decide (64 ≤ o) || !(c.slot o).clm
  let all := sortN (lists ++ srcs ++ dsts)
  let held (t : Nat) : Bool :=
    let e := c.tile t
    (e.own != 0 && !(e.own == n + 1 && (c.chan n).queue.any (fun j => j.tiles.contains t))) ||
    (List.range 8).any (fun i => i != n && (c.chan i).queue.any (fun j => j.tiles.contains t)) ||
    c.mat.queue.any (fun j => j.tiles.contains t) || c.wl.itile == some t
  match lists.find? isFree with
  | some t => s.trapTile t 2
  | none =>
  match lists.find? (fun t => (c.tile t).fmt != Fmt.int32.code) with
  | some t => s.trapTile t 8
  | none =>
  match srcs.find? isFree with
  | some t => s.trapTile t 2
  | none =>
  match (a.src.slots rows 1 0 ++ slots).find? unclaimed with
  | some o => s.trapTile o 2 0 true
  | none =>
  match dsts.find? isFree with
  | some t => s.trapTile t 2
  | none =>
  match dsts.find? (fun t => (fmtOf (c.tile t).fmt).width != (fmtOf fd).width) with
  | some t => s.trapTile t 8
  | none =>
  match all.find? held with
  | some t => s.trapTile t 3
  | none => s.pumpAccept a { a.cmd with tiles := all, wtiles := dsts, slots := slots }

/-- PREDUCE's own checks (09 R278). -/
def State.reduceChecks (s : State) (a : PumpAsk) (f : State → State) : State :=
  let fd := fmtOf (a.fd.getD 0)
  let comb := fldN a.s3 16 2
  let runs := a.dst.e.runs 0 (a.n * rowBytes fd.code)
  let code := if fd = .fp32 then 0 else if fd = .fp64 then 1 else 2
  if a.op ≠ 3 then f s
  else if comb = 3 ∨ ¬ (fd ∈ [Fmt.int32, .int64, .bf16, .fp32, .fp64]) then s.trapTile 0 8
  else if !fd.isBin then f s
  else match firstOther runs s.core.ranges code with
    | some va => s.trapData (BitVec.ofNat 64 va) 6
    | none =>
      match if s.core.r.det && comb == 0 then firstFree runs s.core.ranges code else none with
      | some va => s.trap 0x0C (BitVec.ofNat 64 va)
      | none => f s

/-- Fs and Fd from what the sides give (09 R273): the units of an indexed command are not converted, so that one side's format is the
other's. -/
def PumpAsk.formats (a : PumpAsk) (fs fd : Option Nat) : Option Nat × Option Nat :=
  let fs' := if a.dst.isMem then fs else if a.p.cv then fs else fs.orElse (fun _ => if a.indexed then (a.dst.fmt) else none)
  let fd' := if a.dst.isMem then fd else if a.p.cv then some a.p.cfmt else fs'
  (fs', fd')

/-- A command without rows of which a side would take its format from the first page that it touches: it touches none, and no check of
that format applies (09 R275). -/
def State.pumpNoRows (s : State) (a : PumpAsk) (fd : Option Nat) : State :=
  let badFmt : Bool := match fd with | some d => !((fmtOf d) ∈ [Fmt.int32, .int64, .bf16, .fp32, .fp64]) | none => false
  if a.op = 3 ∧ (fldN a.s3 16 2 = 3 ∨ badFmt) then s.trapTile 0 8
  else if a.indexed && (a.u % 64 != 0 || decide (a.u < 64 ∨ 2 ^ 20 < a.u)) then
    s.trapData (BitVec.ofNat 64 (if a.op = 1 then a.src.first else a.dst.first)) 4
  else s.pumpTiles a.shape

/-- Formats and regions, once both formats are known (09 R273, R276, R277). -/
def State.pumpFormats (s : State) (a : PumpAsk) (fs fd : Option Nat) : State :=
  let fs' := (a.formats fs fd).1
  let fd' := (a.formats fs fd).2
  let s1 := (fs'.orElse (fun _ => fd')).getD 0
  let d1 := (fd'.orElse (fun _ => fs')).getD 0
  let noRows : Bool := a.n == 0 && ((a.src.isMem && fs.isNone) || (a.dst.isMem && fd.isNone))
  if noRows then s.pumpNoRows { a with fs := fs', fd := fd' } fd' else
  let a := { a with fs := some s1, fd := some d1 }.shape
  let slot64 (x : Side) (f : Nat) : Bool := x.isSlot && (fmtOf f).width == 64
  if a.dst.isMem && a.p.cv && a.p.cfmt != d1 then s.trapTile 0 8
  else if a.indexed && (a.p.cv || s1 != d1) then s.trapTile 0 8
  else if s1 ≠ d1 ∧ !cvtOk (fmtOf s1) (fmtOf d1) then s.trapTile 0 8
  else if slot64 a.src s1 then s.trapTile (match a.src.e with | .slot o _ => o | _ => 0) 8 0 true
  else if slot64 a.dst d1 then s.trapTile (match a.dst.e with | .slot o _ => o | _ => 0) 8 0 true
  else if a.indexed && (a.u % 64 != 0 || decide (a.u < 64 ∨ 2 ^ 20 < a.u)) then
    s.trapData (BitVec.ofNat 64 (if a.op = 1 then a.src.first else a.dst.first)) 4
  else if a.op ≠ 1 ∧ !a.src.regionOk (if a.op = 2 then a.streamBytes else a.n * rowBytes s1) false then
    s.trapData (BitVec.ofNat 64 a.src.first) 4
  else if a.op ≠ 2 ∧ !(a.op == 1 && a.mode == 1) ∧ !a.dst.regionOk (if a.op = 1 then a.streamBytes else a.n * rowBytes d1) true then
    s.trapData (BitVec.ofNat 64 a.dst.first) 4
  else s.reduceChecks a (fun s => s.pumpTiles a)

/-- The sides' formats: that of the first page is found at issue (09 R273). A checker takes both from its leader. -/
def State.pumpSides (s : State) (a : PumpAsk) : State :=
  let ch := a.p.ch.toNat
  let cls := a.p.cls.toNat
  let lead := if s.core.r.chk then s.core.iss.fwd.find? (fun e => e.1 == goneNo s.core.iss.slot) else none
  let lost (s : State) (a : PumpAsk) : State := s.pumpAccept a { a.shape.cmd with tiles := [], wtiles := [], slots := [] }
  if a.gone then
    match lead with
    | some (_, v) =>
      let fmt (n : Nat) : Option Nat := if n = 31 then none else some n
      lost s { a with fs := fmt (fldN v 1 5), fd := fmt (fldN v 6 5) }
    | none =>
      let first (y : Side) (gone : Bool) : Option Nat := if gone || a.indexed || !y.isMem || a.n == 0 then none else some y.first
      s.sideFmt ch cls a.src (first a.src a.lost.1) (fun fs s => s.sideFmt ch cls a.dst (first a.dst a.lost.2) (fun fd s =>
        let f := a.formats fs fd
        lost s { a with fs := if a.dst.isSlot then fs else f.1, fd := f.2 }))
  else
    match lead with
    | some (_, v) => s.pumpFormats a (some (fldN v 1 5)) (some (fldN v 6 5))
    | none =>
      let x := if a.indexed then s.core.firstUnit ch a.itile a.n (a.mode == 1) else none
      let at_ (y : Side) (k : Nat) : Nat := wrapN 64 ((y.first : Int) + k * a.stride)
      let first (y : Side) (listed : Bool) (k : Option Nat) : Option Nat :=
        if !y.isMem || a.n == 0 then none else if listed then k.map (at_ y) else some y.first
      s.sideFmt ch cls a.src (first a.src (a.op == 1) (x.map (·.1))) (fun fs s =>
        s.sideFmt ch cls a.dst (first a.dst (a.op == 2 || a.mode == 1) (x.map (fun q => if a.op = 1 then q.2 else q.1))) (fun fd s =>
          s.pumpFormats a fs fd))

/-- The endpoints of a command other than PINVM and their object checks, source before destination (09 R272, R282,
R283). Mark: DESIGN CHOICE (log 23): a FREE tile of PFILL raises TILE with reason 8, as any that is not ZERO, CONST or RAMP (R280), where 01
R35 gives a FREE source reason 2. -/
def State.pumpEnds (s : State) (op : Nat) (p : PArgs) (s0 s1 s2 s3 woff : Word) : State :=
  let pair := op = 1 ∧ fldN s3 28 2 = 1
  let it := fldN s3 16 12
  let src := s.sideOf p.sk p.hs s0 woff (op != 1) (op != 5)
  let dst := s.sideOf p.dk p.hd s1 woff (!(decide pair) && op != 2 && op != 3) true
  if op = 1 ∧ 2 ≤ fldN s3 28 2 then s.trapTile it 8
  else if op = 2 ∧ fldN s3 28 2 ≠ 0 then s.trapTile it 8
  else if pair ∧ p.dk = 1 then s.trapEnc
  else
    match src, dst with
    | none, _ => s.trapHandle p.hs
    | _, none => s.trapHandle p.hd
    | some x, some y =>
      if s.core.r.chk then
        let gone : Bool := match s.core.iss.fwd.find? (fun e => e.1 == goneNo s.core.iss.slot) with
          | some (_, v) => bitAt v 0
          | none => false
        let x := match x.e with | .tile t _ => if op = 5 then { x with e := .sym (s.core.tile t) } else x | _ => x
        s.pumpSides { op := op, p := p, s0 := s0, s1 := s1, s2 := s2, s3 := s3, src := x, dst := y, gone := gone }
      else
      s.viewCheck p.hs x false (fun g1 s => s.viewCheck p.hd y true (fun g2 s =>
        match x.e with
        | .tile t _ =>
          let e := s.core.tile t
          if op = 5 then
            (if e.kind = 2 ∨ e.kind = 3 ∨ e.kind = 4 then
              s.pumpSides { op := op, p := p, s0 := s0, s1 := s1, s2 := s2, s3 := s3, src := { x with e := .sym e, fmt := some e.fmt }, dst := y, gone := g2,
                             lost := (false, g2) }
            else s.trapTile t 8)
          else s.pumpSides { op := op, p := p, s0 := s0, s1 := s1, s2 := s2, s3 := s3, src := x, dst := y, gone := g2,
                                   lost := (false, g2) }
        | _ => s.pumpSides { op := op, p := p, s0 := s0, s1 := s1, s2 := s2, s3 := s3, src := x, dst := y, gone := g1 || g2,
                             lost := (g1, g2) }))

/-- Is the channel's queue full? A command that completes in this cycle frees its place in the next (09 R267). -/
def Chan.full (h : Chan) (now : Nat) : Bool := decide (16 ≤ h.queue.length + (if h.last = now then 1 else 0))

/-- A P command at issue: the pending fault of its channel is reported first, a full queue holds (09 R267, R285). -/
def State.pumpIssue (s : State) (p : PArgs) (f : State → State) : State :=
  let h := s.core.chan p.ch.toNat
  match h.fault with
  | some x => s.trapSlot (x.trap p.ch.toNat s.core.iss.slot)
  | none => if h.full s.cycle && !s.core.r.chk then s.wait else f s

/-- A command other than PINVM. -/
def State.pumpCommand (s : State) (op : Nat) (p : PArgs) : State :=
  s.pumpIssue p (fun s =>
    let c := s.core
    s.pumpEnds op p (c.staged p 0) (c.staged p 1) (c.staged p 2) (c.staged p 3) (if c.iss.replay then c.wl.woff p.ch.toNat else 0))

/-- PCOPY (09 R276). -/
def execPcopy (p : PArgs) (s : State) : Out := s.guarded p.g (fun s => s.pumpCommand 0 p)
/-- PGATHER by a list; S3 names the mode (09 R277). -/
def execPgatherList (p : PArgs) (s : State) : Out := s.guarded p.g (fun s => s.pumpCommand 1 p)
/-- PGATHER by pairs; S3 names the mode (09 R277). -/
def execPgatherPairs (p : PArgs) (s : State) : Out := s.guarded p.g (fun s => s.pumpCommand 1 p)
/-- PSCATTER (09 R277). -/
def execPscatter (p : PArgs) (s : State) : Out := s.guarded p.g (fun s => s.pumpCommand 2 p)
/-- PREDUCE (09 R278). -/
def execPreduce (p : PArgs) (s : State) : Out := s.guarded p.g (fun s => s.pumpCommand 3 p)
/-- PBCAST (09 R279). -/
def execPbcast (p : PArgs) (s : State) : Out := s.guarded p.g (fun s => s.pumpCommand 4 p)
/-- PFILL (09 R280). -/
def execPfill (p : PArgs) (s : State) : Out := s.guarded p.g (fun s => s.pumpCommand 5 p)

/-- PINVM: a marker of the byte range from S0, S1 bytes long, enters the queue; every change in the range takes effect for
the channel when it passes (09 R281). -/
def execPinvm (p : PArgs) (s : State) : Out :=
  s.guarded p.g (fun s => s.pumpIssue p (fun s =>
    let c := s.core
    let lo := (c.staged p 0 + (if c.iss.replay then c.wl.woff p.ch.toNat else 0)).toNat
    let n := (c.staged p 1).toNat
    let page := lo / 4096
    let cnt := if n = 0 then 0 else (lo + n + 4095) / 4096 - page
    s.onCore (fun c =>
      { c.modChan p.ch.toNat (fun h => { h with queue := h.queue ++ [{ markerCmd c.iss.seq page cnt [] with issued := s.cycle }] }) with
        iss := { c.iss with seq := c.iss.seq + 1 } })))

/-- PWAIT: reports a pending fault of the channel, else waits for its write pointer (05 R167, 09 R285). -/
def execPwait (g : Guard) (ch : BitVec 3) (a : XReg) (imm : BitVec 32) (s : State) : Out :=
  s.guarded g (fun s =>
    match (s.core.chan ch.toNat).fault with
    | some x => s.trapSlot (x.trap ch.toNat s.core.iss.slot)
    | none => if (s.core.x a + sext64 imm).toNat ≤ s.core.wptr ch.toNat then s else s.wait)

end Sys2Proof.Machine
end

