-- ==== Sys2Proof/Machine/Issue.lean ====
section
/-! DEFINITION. From parcels to a bundle that may issue: fetch (03 R78 to R87), what each operation reads and writes
(03 R95), and the encoding and group checks of 03 R104, steps 1 to 4. -/

namespace Sys2Proof

/-! ### Register numbers of the group rule (03 R95) -/

/-- X registers are 0 to 63. -/
def xId (r : XReg) : Nat := r.toNat
/-- Q registers are 64 to 79. -/
def qId (q : QReg) : Nat := 64 + q.toNat
/-- H registers are 128 to 191. -/
def hId (h : HReg) : Nat := 128 + h.toNat
/-- MA registers are 192 to 199. -/
def maId (m : BitVec 3) : Nat := 192 + m.toNat
/-- Staging registers are 200 to 263. -/
def sId (r : BitVec 6) : Nat := 200 + r.toNat
/-- Ports are 264 to 275. -/
def portId (p : BitVec 4) : Nat := 264 + p.toNat
/-- Q1 to Q15. -/
def allQ : List Nat := tab 15 (fun k => 65 + k)

/-- Registers and ports that an operation reads and writes. -/
structure Access where
  reads  : List Nat
  writes : List Nat
  deriving DecidableEq, Repr

/-- Reads with the guard's, and writes without those that X0 and Q0 discard. -/
def Access.of (g : Guard) (rd wr : List Nat) : Access :=
  { reads := qId g.qp :: rd, writes := wr.filter (fun w => w != 0 && w != 64) }

/-- The first `n` staging registers of a command's set, by its slot (03 R94). -/
def PArgs.sets (p : PArgs) (slot n : Nat) : List Nat :=
  tab n (fun k => 200 + (if slot = 5 then 32 else 0) + 4 * p.set.toNat + k)

/-- What a V operation reads: the ports it pops and pushes, and X[xs] where a source or the operation reads it (03 R91,
R95; 07 R222, R225, R226). VEXPQ also writes X[xs]. -/
def Instr.vAccess (i : Instr) (v : VArgs) : Access :=
  let n := match i.vInfo with | some k => k.n | none => 2
  let codes := [v.sa.toNat, v.sb.toNat, v.sc.toNat].take n
  let own := match i with
    | .vsplat _ | .viota _ | .vexpq _ => true
    | .vrrot _ | .vcrot _ | .vrbc _ | .vcbc _ => bitAt v.imm 6
    | _ => false
  .of v.g ((codes.filter (fun c => decide (c < 8))).map (fun c => 264 + c) ++
      (if v.dw.toNat < 4 then [272 + v.dw.toNat] else []) ++ (if own || codes.contains 8 then [xId v.xs] else []))
    (match i with | .vexpq _ => [xId v.xs] | _ => [])

/-- The registers and ports of an operation in a slot. -/
def Instr.access (i : Instr) (slot : Nat) : Access :=
  match i with
  | .add g d a b | .sub g d a b | .and_ g d a b | .or_ g d a b | .xor g d a b | .shl g d a b | .shr g d a b
  | .sar g d a b | .mul g d a b | .mulh g d a b | .mulhu g d a b | .div g d a b | .divu g d a b | .rem g d a b
  | .remu g d a b | .min_ g d a b | .max_ g d a b | .minu g d a b | .maxu g d a b | .fadd g _ d a b
  | .fsub g _ d a b | .fmul g _ d a b | .fmin g _ d a b | .fmax g _ d a b | .aadd g _ d a b _ | .amax g _ _ d a b _
  | .amin g _ _ d a b _ | .axchg g _ d a b _ | .accres g _ d a b _ | .accrel g _ d a b _ => .of g [xId a, xId b] [xId d]
  | .clz g d a | .popc g d a | .sext g _ d a | .zext g _ d a | .addi g d a _ | .andi g d a _ | .ori g d a _
  | .xori g d a _ | .shlImm g d a _ | .shrImm g d a _ | .sarImm g d a _ | .movhi g d a _ | .fcvtS2d g d a
  | .fcvtD2s g d a | .fcvtS2l g d a | .fcvtD2l g d a | .fcvtL2s g d a | .fcvtL2d g d a | .fclass g _ d a
  | .ld g _ _ d a _ _ | .stkwait g d a => .of g [xId a] [xId d]
  | .movi g d _ | .cread g d _ => .of g [] [xId d]
  | .ffma g _ d a b | .acas g _ d a b _ => .of g [xId d, xId a, xId b] [xId d]
  | .fcmpEq g _ d a b | .fcmpLt g _ d a b | .fcmpLe g _ d a b | .fcmpUn g _ d a b | .cmpEq g d a b | .cmpNe g d a b
  | .cmpLt g d a b | .cmpGe g d a b | .cmpLtu g d a b | .cmpGeu g d a b | .cmpBt g d a b => .of g [xId a, xId b] [qId d]
  | .cmpiEq g d a _ | .cmpiNe g d a _ | .cmpiLt g d a _ | .cmpiGe g d a _ | .cmpiLtu g d a _ | .cmpiGeu g d a _
  | .cmpiBt g d a _ | .movpXq g d a => .of g [xId a] [qId d]
  | .plogAnd g d a b | .plogOr g d a b | .plogXor g d a b | .plogAndn g d a b | .plogOrn g d a b
  | .plogNand g d a b | .plogNor g d a b | .plogXnor g d a b => .of g [qId a, qId b] [qId d]
  | .sel g d a b q => .of g [xId a, xId b, qId q] [xId d]
  | .movpGet g d => .of g allQ [xId d]
  | .movpPut g a => .of g [xId a] allQ
  | .movpQx g d a => .of g [qId a] [xId d]
  | .br g _ | .fence g _ _ | .sync g _ _ | .trap g _ | .tret g | .halt g | .patsw g | .ktclr g | .wlrun g _
  | .wlstop g => .of g [] []
  | .brx g a | .ret g a | .pwait g _ a _ | .cwrite g a _ => .of g [xId a] []
  | .call g link _ => .of g [] [xId link]
  | .loop g link _ => .of g [xId link] [xId link]
  | .st g _ _ d a _ _ => .of g [xId d, xId a] []
  | .ldw g _ _ hd ha xb xc _ _ => .of g [hId ha, xId xb] [xId hd, qId xc]
  | .ldh g _ hd xb _ _ | .hmkt g hd xb _ => .of g [xId xb] [hId hd]
  | .sth g _ ha xb _ _ | .tsymConst g ha xb _ | .tsymRamp g ha xb _ _ | .ktpos g ha xb => .of g [hId ha, xId xb] []
  | .afadd g _ a b _ => .of g [xId a, xId b] []
  | .owait g ha | .talloc g ha _ _ _ | .tfree g ha | .tsymZero g ha _ | .tretype g ha _ | .townGive g ha _
  | .townTake g ha _ | .tflag g ha _ _ _ _ | .patld g ha _ _ _ | .odrop g ha => .of g [hId ha] []
  | .launch g xb | .wlcfg g xb _ _ | .setseq g xb => .of g [xId xb] []
  | .tsymRepeat g hd ha => .of g [hId hd, hId ha] []
  | .tprobeLo g hd ha | .tprobeHi g hd ha | .hget g hd ha _ | .ostat g hd ha _ => .of g [hId ha] [xId hd]
  | .tld g hd ha xb _ => .of g [hId ha, xId xb] [xId hd]
  | .tst g ha xb xc _ | .ktanc g ha xb xc => .of g [hId ha, xId xb, xId xc] []
  | .hmov g hd ha | .oref g hd ha | .oweak g hd ha => .of g [hId ha] [hId hd]
  | .hset g hd xb _ => .of g [hId hd, xId xb] [hId hd]
  | .hmkw g hd xb xc _ => .of g [xId xb, xId xc] [hId hd]
  | .hmkv g hd ha xb xc _ keep => .of g ((if keep then [hId hd] else []) ++ [hId ha, xId xb, xId xc]) [hId hd]
  | .portsetBind g ha port => .of g [hId ha] [portId port]
  | .portsetClr g port => .of g [] [portId port]
  | .portget g hd xc port => .of g [portId port] [hId hd, xId xc]
  | .portadvStep g xb port _ | .portadvSet g xb port => .of g [xId xb] [portId port]
  | .stgPut g d a => .of g [xId a] [sId d]
  | .stgGet g d a => .of g [sId a] [xId d]
  | .maput g d a => .of g [xId a] [maId d]
  | .oalloc g hd xb xc _ _ _ _ _ _ => .of g [xId xb] [hId hd, qId xc]
  | .ounweak g ha xc | .oprio g ha xc _ => .of g [hId ha] [qId xc]
  | .oupg g hd ha xc => .of g [hId ha] [hId hd, qId xc]
  | .ktadd g hd xb xc => .of g [xId xb, xId xc] [xId hd]
  | .ktset g xb xc | .wltpl g xb xc _ _ => .of g [xId xb, xId xc] []
  | .ktgetNode g hd xb | .ktgetDepth g hd xb => .of g [xId xb] [xId hd]
  | .ktgetNodes g hd | .wlstat g hd _ _ => .of g [] [xId hd]
  | .ktprune g hd ha xb xc => .of g [hId ha, xId xb, xId xc] [xId hd]
  | .vadd v | .vsub v | .vmul v | .vfma v | .vfms v | .vmin v | .vmax v | .vabs v | .vneg v | .vand v | .vor v
  | .vxor v | .vnot v | .vshl v | .vshr v | .vsar v | .vcmp v | .vsel v | .vmsk v | .vcvt v | .vclamp v | .vmov v
  | .vsplat v | .viota v | .vexp v | .vexpq v | .vlog2 v | .vrcp v | .vrsq v | .vrefineRcp v | .vrefineRsq v
  | .vrrot v | .vcrot v | .vrbc v | .vcbc v | .vrred v | .vcred v | .vrscan v | .vshuf v | .vscale v | .dadd v
  | .dsub v | .dmul v | .dfma v | .dquant v | .drnd v | .dcmp v | .dcvtTo v | .dcvtFrom v => i.vAccess v
  | .mcall g _ _ _ _ => .of g (tab 8 (fun k => 192 + k)) []
  | .mclaim g _ _ | .mrel g _ _ | .mwait g _ _ => .of g [] []
  | .pinvm p => .of p.g (p.sets slot 2) []
  | .pcopy p | .pgatherList p | .pgatherPairs p | .pscatter p | .preduce p | .pbcast p | .pfill p =>
    .of p.g (p.sets slot 4 ++ (if p.sk ≤ 1 then [hId p.hs] else []) ++ (if p.dk ≤ 1 then [hId p.hd] else [])) [qId p.gq]
  | _ => { reads := [], writes := [] }

/-- Results that an operation of a slot leaves in flight where it has its effect (01 R42). -/
def Instr.resultCount (i : Instr) (slot : Nat) : Nat :=
  let written : Nat := ((i.access slot).writes.filter (fun w => decide (w < 264))).length
  match i with
  | .ld _ _ _ _ _ _ _ | .ldw _ _ _ _ _ _ _ _ _ | .ldh _ _ _ _ _ _ | .aadd _ _ _ _ _ _ | .amax _ _ _ _ _ _ _ | .amin _ _ _ _ _ _ _
  | .axchg _ _ _ _ _ _ | .acas _ _ _ _ _ _ | .accres _ _ _ _ _ _ | .accrel _ _ _ _ _ _ => 0
  | .movpPut _ _ | .talloc _ _ _ _ _ | .tfree _ _ | .tsymZero _ _ _ | .tsymConst _ _ _ _ | .tsymRamp _ _ _ _ _ | .tsymRepeat _ _ _
  | .tretype _ _ _ | .townGive _ _ _ | .townTake _ _ _ | .tflag _ _ _ _ _ _ | .tst _ _ _ _ _ | .ktset _ _ _ | .ktclr _ | .cwrite _ _ _
  | .setseq _ _ | .patsw _ => 1
  | .ktadd _ _ _ _ => 1 + written
  | .ktanc _ _ _ _ | .ktpos _ _ _ => 16
  | .ktprune _ _ _ _ _ => 18
  | .mclaim _ _ c | .mrel _ _ c => c.toNat + 1
  | _ => match i.vInfo with
    | some n => written + (if n.v.dw.toNat < 4 then n.rows else 0)
    | none => written

/-- The guard of an operation of a slot. -/
def Instr.guard (i : Instr) : Guard :=
  match i with
  | .add g _ _ _ | .sub g _ _ _ | .and_ g _ _ _ | .or_ g _ _ _ | .xor g _ _ _ | .shl g _ _ _ | .shr g _ _ _
  | .sar g _ _ _ | .mul g _ _ _ | .mulh g _ _ _ | .mulhu g _ _ _ | .div g _ _ _ | .divu g _ _ _ | .rem g _ _ _
  | .remu g _ _ _ | .min_ g _ _ _ | .max_ g _ _ _ | .minu g _ _ _ | .maxu g _ _ _ | .clz g _ _ | .popc g _ _
  | .sext g _ _ _ | .zext g _ _ _ | .addi g _ _ _ | .andi g _ _ _ | .ori g _ _ _ | .xori g _ _ _ | .shlImm g _ _ _
  | .shrImm g _ _ _ | .sarImm g _ _ _ | .movi g _ _ | .movhi g _ _ _ | .fadd g _ _ _ _ | .fsub g _ _ _ _
  | .fmul g _ _ _ _ | .ffma g _ _ _ _ | .fmin g _ _ _ _ | .fmax g _ _ _ _ | .fcvtS2d g _ _ | .fcvtD2s g _ _
  | .fcvtS2l g _ _ | .fcvtD2l g _ _ | .fcvtL2s g _ _ | .fcvtL2d g _ _ | .fcmpEq g _ _ _ _ | .fcmpLt g _ _ _ _
  | .fcmpLe g _ _ _ _ | .fcmpUn g _ _ _ _ | .fclass g _ _ _ | .cmpEq g _ _ _ | .cmpNe g _ _ _ | .cmpLt g _ _ _
  | .cmpGe g _ _ _ | .cmpLtu g _ _ _ | .cmpGeu g _ _ _ | .cmpBt g _ _ _ | .cmpiEq g _ _ _ | .cmpiNe g _ _ _
  | .cmpiLt g _ _ _ | .cmpiGe g _ _ _ | .cmpiLtu g _ _ _ | .cmpiGeu g _ _ _ | .cmpiBt g _ _ _ | .plogAnd g _ _ _
  | .plogOr g _ _ _ | .plogXor g _ _ _ | .plogAndn g _ _ _ | .plogOrn g _ _ _ | .plogNand g _ _ _ | .plogNor g _ _ _
  | .plogXnor g _ _ _ | .sel g _ _ _ _ | .movpGet g _ | .movpPut g _ | .movpQx g _ _ | .movpXq g _ _ | .br g _ | .brx g _
  | .call g _ _ | .ret g _ | .loop g _ _ | .ld g _ _ _ _ _ _ | .st g _ _ _ _ _ _ | .ldw g _ _ _ _ _ _ _ _
  | .ldh g _ _ _ _ _ | .sth g _ _ _ _ _ | .aadd g _ _ _ _ _ | .amax g _ _ _ _ _ _ | .amin g _ _ _ _ _ _
  | .axchg g _ _ _ _ _ | .acas g _ _ _ _ _ | .afadd g _ _ _ _ | .accres g _ _ _ _ _ | .accrel g _ _ _ _ _ | .fence g _ _
  | .sync g _ _ | .stkwait g _ _ | .pwait g _ _ _ | .owait g _ | .cread g _ _ | .cwrite g _ _ | .trap g _ | .tret g
  | .halt g | .launch g _ | .talloc g _ _ _ _ | .tfree g _ | .tsymZero g _ _ | .tsymConst g _ _ _ | .tsymRamp g _ _ _ _
  | .tsymRepeat g _ _ | .tprobeLo g _ _ | .tprobeHi g _ _ | .tretype g _ _ | .townGive g _ _ | .townTake g _ _
  | .tflag g _ _ _ _ _ | .tld g _ _ _ _ | .tst g _ _ _ _ | .hmov g _ _ | .hset g _ _ _ | .hget g _ _ _ | .hmkt g _ _ _
  | .hmkw g _ _ _ _ | .hmkv g _ _ _ _ _ _ | .portsetBind g _ _ | .portsetClr g _ | .portget g _ _ _
  | .portadvStep g _ _ _ | .portadvSet g _ _ | .stgPut g _ _ | .stgGet g _ _ | .maput g _ _ | .patld g _ _ _ _ | .patsw g
  | .oalloc g _ _ _ _ _ _ _ _ _ | .oref g _ _ | .odrop g _ | .oweak g _ _ | .ounweak g _ _ | .oupg g _ _ _
  | .oprio g _ _ _ | .ostat g _ _ _ | .ktclr g | .ktadd g _ _ _ | .ktset g _ _ | .ktgetNode g _ _ | .ktgetDepth g _ _
  | .ktgetNodes g _ | .ktanc g _ _ _ | .ktpos g _ _ | .ktprune g _ _ _ _ | .wlcfg g _ _ _ | .wltpl g _ _ _ _ | .wlrun g _
  | .wlstop g | .wlstat g _ _ _ | .setseq g _ | .mcall g _ _ _ _ | .mclaim g _ _ | .mrel g _ _ | .mwait g _ _ => g
  | .vadd v | .vsub v | .vmul v | .vfma v | .vfms v | .vmin v | .vmax v | .vabs v | .vneg v | .vand v | .vor v | .vxor v
  | .vnot v | .vshl v | .vshr v | .vsar v | .vcmp v | .vsel v | .vmsk v | .vcvt v | .vclamp v | .vmov v | .vsplat v
  | .viota v | .vexp v | .vexpq v | .vlog2 v | .vrcp v | .vrsq v | .vrefineRcp v | .vrefineRsq v | .vrrot v | .vcrot v
  | .vrbc v | .vcbc v | .vrred v | .vcred v | .vrscan v | .vshuf v | .vscale v | .dadd v | .dsub v | .dmul v | .dfma v
  | .dquant v | .drnd v | .dcmp v | .dcvtTo v | .dcvtFrom v => v.g
  | .pcopy p | .pgatherList p | .pgatherPairs p | .pscatter p | .preduce p | .pbcast p | .pfill p | .pinvm p => p.g
  | _ => Guard.always

/-- Must the operation stand in a bundle with STOP set? (03 R97, 09 R291) -/
def Instr.needsStop : Instr → Bool
  | .br _ _ | .brx _ _ | .call _ _ _ | .ret _ _ | .loop _ _ _ | .trap _ _ | .tret _ | .wlrun _ _ => true
  | _ => false

/-- Does the operation hold the divider? (03 R101) -/
def Instr.divides : Instr → Bool
  | .div _ _ _ _ | .divu _ _ _ _ | .rem _ _ _ _ | .remu _ _ _ _ => true
  | _ => false

/-- Issue cycles for which an operation holds its V slot (03 R101). -/
def Instr.slotPasses (i : Instr) : Nat := match i.vInfo with | some n => n.passes | none => 1

/-- The ports an operation pops, and the write port it pushes to as 8 to 11 (03 R92). -/
def Instr.portUse (i : Instr) : List Nat :=
  match i with
  | .vscale v => if v.sb.toNat < 8 then [v.sb.toNat] else []
  | _ => match i.vInfo with
    | some n => n.pops ++ (if n.v.dw.toNat < 4 then [8 + n.v.dw.toNat] else [])
    | none => []

end Sys2Proof

namespace Sys2Proof.Machine

open Sys2Proof

/-! ### Fetch (03 R78, R79, R81, R85) -/

/-- The parcel at an index, where its line is in the parcel cache. -/
def Core.parcel (c : Core) (p : Nat) : Option Parcel :=
  (c.lines.find? (fun l => l.1 == p / 32)).map (fun l => fld l.2 (16 * (p % 32)) 16)

/-- What lies at a parcel index: a bundle whose parcels are all in hand; the first parcel that is not; or a leading parcel
that is refused (03 Table 1). -/
inductive Fetched where
  | go (b : Bundle)
  | miss (p : Nat)
  | enc
  deriving DecidableEq, Repr

/-- Has a dictionary entry a parity error whose clean copy has not come? (17 R402) -/
def Core.dictAwait (c : Core) (now e : Nat) : Bool :=
  c.dictBad.any (fun b => b.1 == e && (match b.2 with | some d => decide (now < d) | none => true))

/-- Parcel indices have 47 bits. -/
def parcelNo (ix : ParcelIx) (k : Nat) : Nat := (ix.toNat + k) % 2 ^ 47

/-- Parcels `k` to `k + n - 1` after an index, or the first that is not in hand. -/
def Core.parcels (c : Core) (ix : ParcelIx) (k : Nat) : Nat → Except Nat (List Parcel)
  | 0 => .ok []
  | n + 1 =>
    match c.parcel (parcelNo ix k) with
    | none => .error (parcelNo ix k)
    | some p => match c.parcels ix (k + 1) n with
      | .ok t => .ok (p :: t)
      | .error m => .error m

/-- The bundle at a parcel index of the stream. -/
def Core.stream (c : Core) (ix : ParcelIx) : Fetched :=
  match c.parcel ix.toNat with
  | none => .miss ix.toNat
  | some p =>
    if p.toNat < 0x8000 then
      if p.toNat < c.kern.n then .go (entryBundle (entryParcels (c.dict.get 0 p.toNat))) else .enc
    else if p ≠ 0xFFFF then .enc
    else match c.parcels ix 1 1 with
      | .error m => .miss m
      | .ok l => match c.parcels ix 2 (literalLen (l.headD 0) - 2) with
        | .error m => .miss m
        | .ok r => .go (literalBundle (l.headD 0) r)

/-- Lines that the parcel cache holds. -/
def parcelLines : Nat := 512

/-- A line put into the parcel cache; the oldest leaves. -/
def Core.putLine (c : Core) (n : Nat) (v : BitVec 512) : Core :=
  let l := c.lines.filter (fun e => e.1 != n) ++ [(n, v)]
  { c with lines := l.drop (l.length - parcelLines) }

/-- The bytes of a line read from memory, where its page is mapped and its data is good. -/
def State.codeLine (s : State) (n : Nat) : Option (BitVec 512) :=
  match s.reach s.core.task.asid none (64 * n) 64 false none with
  | .ok l _ _ => if (s.badWord l).isSome then none else some (BitVec.ofNat 512 (leNat (s.readPieces l)))
  | _ => none

/-- A line that arrives. One whose contents differ from those of its first fetch in this task, because the task has stored to its own
code, arrives old or new, by a free value at each fetch; a first fetch takes what memory then holds (03 R87; mark: DESIGN CHOICE, log
44). -/
def State.takeLine (s : State) (n : Nat) (v : BitVec 512) : State :=
  match s.core.codeSeen.find? (fun e => e.1 == n) with
  | none => s.onCore (fun c => { c.putLine n v with codeSeen := c.codeSeen ++ [(n, v)] })
  | some e =>
    if e.2 = v then s.onCore (fun c => c.putLine n v)
    else
      let (k, s) := s.draw
      s.onCore (fun c => c.putLine n (if k % 2 = 0 then e.2 else v))

/-- Is line `n`, which the core reads together with the line before it, still wanted and its page translated? -/
def State.alsoLine (s : State) (n : Nat) : Bool :=
  (s.core.parcel (32 * n)).isNone && (n % 64 != 0 || s.core.tlb.contains (64 * n / 4096))

/-- PARCEL_FETCH: the line on its way arrives, and the line after it where it can be read; an abort completion waits for the
bundle that needs the line (17 R404). -/
def execParcelFetch (s : State) : Out :=
  .next (match s.core.fetch with
    | some (n, due) =>
      if s.cycle < due then s
      else
        let s := s.onCore (fun c => { c with fetch := none })
        match s.codeLine n with
        | none => match s.reach s.core.task.asid none (64 * n) 64 false none with
          | .ok l _ _ =>
            let pa := match s.badWord l with | some u => u.1 | none => 0
            { s.onCore (fun c => { c with badfetch := some (n, pa) }) with notes := s.notes ++ [(1, pa)] }
          | _ => s
        | some v =>
          let s := s.takeLine n v
          match if s.alsoLine (n + 1) then s.codeLine (n + 1) else none with
          | some w => s.takeLine (n + 1) w
          | none => s
    | none => s)

/-- What a parcel that is not in hand does to the bundle that needs it: a trap, or a wait while the line is on its way or
its mapping is being settled (03 R86, 17 R404). -/
inductive Need where
  | wait (s : State)
  | trap (t : Trap) (s : State)

/-- The time of a fetch of line `n`, and of the line after it where that can be read, with what their translations add (13 R346); their
requests count (13 R354). -/
def State.fetchLat (s : State) (n : Nat) (e : BitVec 128) : Nat × State :=
  let len := if (s.core.parcel (32 * (n + 1))).isNone && (s.codeLine (n + 1)).isSome then 128 else 64
  let (d, s) := s.drawIn 1 (leafLat e)
  let (k, s) := s.translateAll (64 * n) len
  (d + k, s.countHot s.core.task.asid none (64 * n) len)

/-- The first of the dictionary entries about to be read whose clean copy is awaited is fetched again: issue holds, as on a miss of the
parcel cache (17 R402). -/
def State.dictHold (s : State) (es : List Nat) : Option State :=
  match es.find? (s.core.dictAwait s.cycle) with
  | none => none
  | some e =>
    if s.core.dictBad.any (fun b => b.1 == e && b.2.isNone) then
      let (n, s) := s.drawIn 1 (tierLat 1)
      some (s.onCore (fun c => { c with dictBad := c.dictBad.map (fun b => if b.1 = e then (e, some (s.cycle + n)) else b) }))
    else some s

/-- The dictionary entry that the parcel at an index names. -/
def Core.entryAt (c : Core) (ix : ParcelIx) : List Nat :=
  match c.parcel ix.toNat with
  | some p => if p.toNat < 0x8000 && decide (p.toNat < c.kern.n) then [p.toNat] else []
  | none => []

/-- Has the fetch of a line met an abort completion? -/
def Core.fetchBad (c : Core) (n : Nat) : Bool := match c.badfetch with | some b => b.1 == n | none => false

/-- Asking for the line of parcel `p`. An abort completion is ABORT at the bundle (17 R404), or rewinds a pair (R412). -/
def State.need (s : State) (p : Nat) : Need :=
  let n := p / 32
  let va : Word := BitVec.ofNat 64 (2 * p)
  if s.core.fetchBad n then
    let pa := s.core.badfetch.map (·.2)
    let s := s.onCore (fun c => { c with badfetch := none })
    if s.strikes pa then .wait (s.struck pa s)
    else
      let (code, s) := s.draw
      .trap { code := 0x04, slot := 15, addr := va, info := #v[0, BitVec.ofNat 64 code, 0, 0] } s
  else if s.core.fetch.isSome then .wait s
  else match s.reach s.core.task.asid none (64 * n) 64 false none with
    | .ok _ _ e =>
      let (d, s) := s.fetchLat n e
      .wait (s.onCore (fun c => { c with fetch := some (n, s.cycle + d) }))
    | .wait v => .wait (s.noteFault v .fetch 0 none)
    | .bad _ _ => .trap { code := 0x02, slot := 15, addr := va } s

/-- The core fetches ahead of issue: the line after the program counter's, where nothing is on its way and its page is
mapped; a line that cannot be fetched raises nothing (03 R85). -/
def State.ahead (s : State) : State :=
  let n := (s.core.pc.toNat / 32 + 1) % 2 ^ 42
  if s.core.fetch.isSome || (s.core.parcel (32 * n)).isSome || s.core.fetchBad n then s
  else match s.reach s.core.task.asid none (64 * n) 64 false none with
    | .ok _ _ e =>
      let (d, s) := s.fetchLat n e
      s.onCore (fun c => { c with fetch := some (n, s.cycle + d) })
    | _ => s

/-! ### Groups and pairs (03 R95 to R98, R104) -/

/-- One bundle of an issue: its first parcel, the bundle, the parcel after it. -/
abbrev Part := ParcelIx × Bundle × ParcelIx

/-- May bundle `b` issue in the cycle of bundle `a` before it? Both lie in one group, use disjoint slots, and neither is a
segment entry or empty (03 R96). -/
def pairs (a b : Bundle) : Bool :=
  !a.stop && !a.seg && !b.seg && a.mask != 0 && b.mask != 0 && (a.mask &&& b.mask) == 0 && !a.bad

/-- The operations of an issue in slot order, first bundle before second: bundle, slot, operation. -/
def partOps (l : List Part) : List (Part × Nat × Option Instr) := l.flatMap (fun p => p.2.1.ops.map (fun o => (p, o.1, o.2)))

/-- May a bundle be the first of a pair, whatever follows it? -/
def leadsPair (a : Bundle) : Bool := !a.stop && !a.seg && a.mask != 0 && !a.bad

/-- Can the bundle at a parcel index not be the second of a pair with `a`, as far as the parcels in hand tell: its header is there and
does not pair? -/
def Core.cannotPair (c : Core) (a : Bundle) (ix : ParcelIx) : Bool :=
  match c.parcel ix.toNat, c.parcel (parcelNo ix 1) with
  | some p, some h => p == 0xFFFF && !pairs a (literalBundle h [])
  | _, _ => false

/-- The value in TRAPINFO1 and the slot of an encoding refused at step 3 of R104: an undefined slot, a transfer without STOP,
an MCALL of a routine that is not loaded (08 R243). -/
def State.slotEnc (s : State) (b : Bundle) (o : Nat × Option Instr) : Bool :=
  match o.2 with
  | none => true
  | some i => (i.needsStop && !b.stop) ||
    (match i with | .mcall _ rix _ _ _ => (s.core.routine rix.toNat).isNone | _ => false)

/-- The trap of steps 2 and 3 of R104. -/
def State.encTrap (s : State) (l : List Part) : Option Trap :=
  if l.any (fun p => p.2.1.bad) then some { code := 0x01 }
  else (partOps l).findSome? (fun o => if s.slotEnc o.1.2.1 o.2 then some { code := 0x01, slot := o.2.1 } else none)

/-- The operations that decode. -/
def realOps (l : List Part) : List (Nat × Instr) := (partOps l).filterMap (fun o => o.2.2.map (fun i => (o.2.1, i)))

/-- Do the operations of an issue, after what their group has written, break the group rule? A read or a write of what an
earlier operation of the group writes (03 R95). -/
def groupBad : List Nat → List (Nat × Instr) → Bool
  | _, [] => false
  | w, (k, i) :: t =>
    let a := i.access k
    (a.reads ++ a.writes).any (fun r => w.contains r) || groupBad (w ++ a.writes) t

/-- X registers read in one issue cycle, each once, X0 not counted (03 R98). -/
def bankReads (l : List (Nat × Instr)) : List Nat :=
  dedupN (l.flatMap (fun o => (o.2.access o.1).reads.filter (fun r => decide (0 < r ∧ r < 64))))

/-- More than three reads of one scalar bank? -/
def banksBad (l : List (Nat × Instr)) : Bool :=
  (List.range 4).any (fun k => decide (3 < ((bankReads l).filter (fun r => r % 4 == k)).length))

/-- Does a list of numbers repeat one? -/
def repeatsN : List Nat → Bool
  | [] => false
  | x :: t => t.contains x || repeatsN t

/-- The rules of step 4 of R104 that the code alone decides: groups, banks, ports (R92), passes and the divider (R101). Mark: DESIGN CHOICE
(log 22): an operation counts for the ports whatever its guard reads. -/
def Core.stepFour (c : Core) (l : List (Nat × Instr)) : Bool :=
  groupBad c.iss.written l || banksBad l || repeatsN (l.flatMap (fun o => o.2.portUse)) ||
  l.any (fun o => (o.1 == 1 && decide (0 < c.iss.vHold[0])) || (o.1 == 2 && decide (0 < c.iss.vHold[1])) ||
    (o.2.divides && decide (0 < c.iss.divHold)))

/-- Destinations of outstanding accesses that return a value (03 R102). -/
def Core.busyRegs (c : Core) : List Nat :=
  (c.mu.filter (fun i => i.returns)).flatMap (fun i => match i.kind with
    | .load d | .atomic _ _ d _ | .accres _ d _ | .accrel _ d _ => [xId d]
    | .loadW d q _ => [xId d, qId q]
    | .loadH d => [hId d]
    | _ => [])

/-- Must the issue hold on a scoreboarded destination? -/
def Core.scoreboard (c : Core) (l : List (Nat × Instr)) : Bool :=
  let busy := c.busyRegs.filter (fun r => r != 0 && r != 64)
  !busy.isEmpty && l.any (fun o => ((o.2.access o.1).reads ++ (o.2.access o.1).writes).any (fun r => busy.contains r))

/-- The issue bookkeeping after a pair or bundle has issued: what its group has written, V slots and the divider held for the
issue cycles that follow (03 R95, R101). -/
def Iss.issued (q : Iss) (l : List Part) : Iss :=
  let ops := realOps l
  let stop := match l.getLast? with | some p => p.2.1.stop | none => true
  let hold (k : Nat) : Nat := match ops.find? (fun o => o.1 == k) with
    | some o => o.2.slotPasses - 1
    | none => q.vHold.toList.getD (k - 1) 0 - 1
  { q with written := if stop then [] else q.written ++ ops.flatMap (fun o => (o.2.access o.1).writes),
           vHold := #v[hold 1, hold 2],
           divHold := if ops.any (fun o => o.2.divides) then 17 else q.divHold - 1 }

/-! ### Empty bundles and reserved encodings -/

/-- A bundle with SEG counts in SEGCOUNT at its issue (03 R84). -/
def Core.countSeg (c : Core) (seg : Bool) : Core :=
  if seg then { c with r := { c.r with segcount := c.r.segcount + 1 } } else c

/-- EMPTY_BUNDLE: one idle cycle (03 R84). -/
def execEmptyBundle (seg : Bool) (s : State) : Out := .next (s.onCore (fun c => c.countSeg seg))

/-- RESERVED_ENCODING: ENC, naming the slot, 0xF for the leading parcel and the header (03 R79, R104, R108). -/
def execReservedEncoding (slot : BitVec 4) (s : State) : Out :=
  .next (s.trapSlot { code := 0x01, slot := slot.toNat })

end Sys2Proof.Machine
end

