-- ==== Sys2Proof/Machine/Micro.lean ====
section
/-! DEFINITION. The microprogram sequencer, the array, the partial-sum port and the output path (08 R244, R248 to R263). -/

namespace Sys2Proof.Machine

open Sys2Proof

/-! ### The running routine -/

/-- The matrix unit changed. -/
def State.onMat (s : State) (f : Mat → Mat) : State := s.onCore (fun c => { c with mat := f c.mat })

/-- The running call. -/
def Mat.call (m : Mat) : Option Call := if m.running then m.queue.head? else none

/-- A call value of the running routine. -/
def Mat.ma (m : Mat) (k : BitVec 3) : BitVec 32 :=
  match m.call with | some c => c.ma.toList.getD k.toNat 0 | none => 0

/-- An address of a micro-word (08 R248), with `md` slots or tiles. -/
def Mat.addr (m : Mat) (base unit off : Nat) (s0 s1 : BitVec 4) (md : Nat) : Nat :=
  (((base : Int) + off + unit * (s0.toInt * m.l0 + s1.toInt * m.l1)) % (md : Int)).toNat

/-- Sequencer cycles of a word (08 Table 7): MLDB takes one for every four slots. In the standard routines MPS takes none and
MLDB one, and in the sparse ones only MMAC and MEND take any, so that their blocks keep the periods of 08 R259 and Table 8
(log 20). -/
def microCost (rix : Nat) (i : Instr) : Nat :=
  match i with
  | .mmac _ _ _ | .mend => 1
  | .mldb mode _ _ _ _ => if rix = 7 ∨ rix = 8 then 0 else if rix < 64 then 1 else ceilDiv (modeN mode.toNat) 4
  | .mps _ => if rix < 64 then 0 else 1
  | _ => if rix = 7 ∨ rix = 8 then 0 else 1

/-- The unit past a word: the next one is taken once the word's cycles are over. -/
def Mat.past (m : Mat) (now : Nat) (i : Instr) (upc : Nat) : Mat :=
  { m with upc := upc, seqAt := now + microCost (match m.call with | some c => c.rix | none => 64) i }

/-- The word at which the sequencer stands, where the microprogram store is known to hold one: a word of the routine, or past its
last word what the next micro-addresses hold, the words of the kernel's other routines. -/
def Core.storeWord (c : Core) (k : Call) (upc : Nat) : Option (BitVec 64) :=
  match c.routine k.rix with
  | none => none
  | some r => match r.words[upc]? with
    | some w => some w
    | none =>
      let a := (r.base + upc) % 2048
      if k.rix < 64 then none
      else c.rtns.findSome? (fun e => if e.2.base ≤ a then e.2.words[a - e.2.base]? else none)

/-- The sequencer passes over a word that is never executed, a header (08 R250). -/
def State.skipWord (s : State) : State := s.onMat (fun m => { m with upc := m.upc + 1, seqAt := s.cycle + 1 })

/-- A word of the running routine, where the sequencer stands at one now. -/
def State.micro (s : State) (f : Call → State) : Out :=
  .next (match s.core.mat.call with
    | some k => if s.core.mat.seqAt ≤ s.cycle then f k else s
    | none => s)

/-- The sequencer holds at its word. -/
def State.microWait (s : State) : State := s.onMat (fun m => { m with seqAt := s.cycle + 1 })

/-- The core with the routines of a list gone: their tiles and slots return (08 R244, R263). -/
def Core.endCalls (c : Core) (now : Nat) (l : List Call) : Core :=
  l.foldl (fun c k =>
    let c := k.tiles.foldl (fun c t => c.returnTile now 9 t true) c
    let omd := k.slots.foldl (fun m o =>
      let e := Sparse.get {} m o
      Sparse.set {} m o { e with holds := e.holds - 1, own := e.own && decide (1 < e.holds) }) c.omd
    Core.dropSlots { c with omd := omd } now k.slots) c

/-- A matrix fault (08 R263): the routine ends, the ones behind it are discarded, and the fault waits for its report. -/
def State.matFault (s : State) (code what reason slot word : Nat) : State :=
  s.onCore (fun c =>
    let q := c.mat.queue
    let rix := match c.mat.call with | some k => k.rix | none => 0
    let f := (code, what, reason, slot, c.microAddr rix word)
    let m : Mat := { c.mat with queue := [], running := false, blocks := [], outq := [], outRow := 0, psRow := none }
    let m : Mat := { m with windows := [], seqAt := s.cycle + 1, ended := (s.cycle, q.map (·.tag)), fault := some f }
    (Core.endCalls { c with mat := m } s.cycle q).settleFences)

/-! ### Starting and ending (08 R244) -/

/-- May the next routine start: two cycles after its MCALL, in a cycle after the previous end, and after the completion of
every pump command before it that writes one of its slots or tiles? -/
def Core.mayStart (c : Core) (now : Nat) : Bool :=
  match c.mat.queue with
  | k :: _ =>
    !c.mat.running && decide (k.issued + 2 ≤ now) && decide (c.mat.seqAt ≤ now) && decide (k.after ≤ now) &&
    c.chans.toList.all (fun h => h.queue.all (fun j => !k.follows j))
  | [] => false

/-- ROUTINE_START: L0 and L1 are 0 and the sequencer begins at the word after the header. -/
def execRoutineStart (s : State) : Out :=
  .next (if s.core.mayStart s.cycle then
    s.onMat (fun m => { m with running := true, start := s.cycle, upc := 1, seqAt := s.cycle, l0 := 0, l1 := 0 })
  else s)

/-- Are the array and the output path idle? -/
def Mat.idle (m : Mat) (now : Nat) : Bool :=
  m.blocks.isEmpty && m.outq.isEmpty && m.psRow.isNone && decide (m.outAt ≤ now ∧ m.arrayFree ≤ now) &&
    m.accAt.toList.all (fun a => decide (a ≤ now))

/-- Accumulators that the output path may read from cycle `at_`. -/
def Mat.settle (m : Mat) (l : List Nat) (at_ : Nat) : Mat :=
  { m with accAt := l.foldl (fun v a => v.setIfInBounds a at_) m.accAt }

/-- MEND: waits until the array and the output path are idle, then returns the tiles still held and the slots. -/
def execMend (s : State) : Out :=
  s.micro (fun k =>
    if s.core.mat.idle s.cycle then
      s.onCore (fun c =>
        let m : Mat := { c.mat with queue := c.mat.queue.drop 1, running := false, seqAt := s.cycle + 1, ended := (s.cycle, [k.tag]) }
        let m : Mat := { m with windows := c.mat.windows.filter (fun w => decide (s.cycle < w.2)) }
        (Core.endCalls { c with mat := m } s.cycle [k]).settleFences)
    else s.microWait)

/-! ### Loads (08 R250, R252) -/

/-- A slot as a latch. -/
def Core.latch (c : Core) (o : Nat) : Latch :=
  let e := c.slot o
  { kind := e.kind, exc := e.exc, fmt := e.fmt, words := if e.kind = 1 then c.om.getMany 0 (o * 512) 512 else [] }

/-- Slots latched: each must lie in the routine's declared ranges and below 64. -/
def State.latchSlots (s : State) (k : Call) (o n : Nat) (f : List Latch → State) : State :=
  match (tab n (fun j => o + j)).find? (fun x => decide (64 ≤ x) || !k.slots.contains x) with
  | some x => s.matFault 0x05 x 2 1 s.core.mat.upc
  | none =>
    match (tab n (fun j => o + j)).findSome? (fun x => s.core.badIn 2 (x * 512) 512) with
    | some w => s.struck none (s.matFault 0x04 w 2 1 s.core.mat.upc)
    | none => f (tab n (fun j => s.core.latch (o + j)))

/-- MLDA. -/
def execMlda (ma : BitVec 3) (off : BitVec 6) (s0 s1 : BitVec 4) (s : State) : Out :=
  s.micro (fun k =>
    let m := s.core.mat
    s.latchSlots k (m.addr (maFirst (m.ma ma)) 1 off.toNat s0 s1 64) 1 (fun l =>
      s.onMat (fun m => { m with nextA := l.head? }.past s.cycle (.mlda ma off s0 s1) (m.upc + 1))))

/-- MLDB. -/
def execMldb (mode : BitVec 3) (ma : BitVec 3) (off : BitVec 6) (s0 s1 : BitVec 4) (s : State) : Out :=
  s.micro (fun k =>
    let m := s.core.mat
    let n := modeN mode.toNat
    s.latchSlots k (m.addr (maFirst (m.ma ma)) n off.toNat s0 s1 64) n (fun l =>
      s.onMat (fun m => { m with nextB := l }.past s.cycle (.mldb mode ma off s0 s1) (m.upc + 1))))

/-! ### Blocks (08 R253 to R258) -/

/-- The accumulator that a word names: ATT.SC alternates between two (08 Table 8). -/
def Mat.accOf (m : Mat) (rix : Nat) (acc : BitVec 2) : Nat := if rix = 11 then m.l0 % 2 else acc.toNat

/-- The block an MMAC hands over: a skipped one too, where it occupies the array for its full time. -/
def Mat.hand (m : Mat) (now mode : Nat) (z skip : Bool) (acc : Nat) (a : Latch) (b : List Latch) : Mat :=
  let cyc := blockCycles mode z skip b
  let ps := m.psMode
  let k : Block := { due := if ps then now + 20 else now + cyc + 4, acc := acc, mode := mode, a := a, b := b, ps := ps, row := 0, skip := skip,
                     ahead := m.outq.length, uaddr := m.upc }
  { m with curA := some a, curB := b, arrayFree := now + cyc, blocks := if z && skip && !ps then m.blocks else m.blocks ++ [k],
           portFree := if ps then now + 16 * modeC mode else m.portFree,
           windows := if ps then m.windows ++ [(now + 20, now + 20 + 16 * modeC mode)] else m.windows }

/-- The accumulators an output-path operation reads or clears. -/
def OutOp.accs : OutOp → List Nat
  | .out acc cnt _ _ _ _ _ _ _ => tab cnt (fun k => (acc + k) % 4)
  | .clear m => bitList 4 m
  | .scale m _ => bitList 4 m
  | .sig _ _ => []

/-- Does an output-path operation leave the accumulators it names empty? -/
def OutOp.empties : OutOp → Bool
  | .out _ _ _ _ _ _ _ clr _ => clr
  | .clear _ => true
  | _ => false

/-- The accumulators a block updates. -/
def Block.accs (k : Block) : List Nat := tab (modeC k.mode) (fun h => k.acc + h)

/-- The type an accumulator needs for a mode. -/
def modeTy (mode : Nat) : Nat := if modeInt mode then 2 else 1

/-- The type that accumulator `a` has once the blocks and output-path operations before this word are done, which stand in
their common order: `j` operations have been passed. -/
def Mat.typeAfter (m : Mat) (a : Nat) : Nat → List OutOp → Nat → Nat
  | ty, l, j =>
    let ty := (m.blocks.filter (fun k => k.ahead == j && !k.skip && k.accs.contains a)).foldl (fun _ k => modeTy k.mode) ty
    match l with
    | [] => ty
    | o :: t => Mat.typeAfter m a (if o.empties && o.accs.contains a then 0 else ty) t (j + 1)

/-- Does the word meet an accumulator of the other type? (08 R238, R253) -/
def Mat.clash (m : Mat) (mode acc : Nat) : Bool :=
  (tab (modeC mode) (fun h => acc + h)).any (fun a =>
    let t := m.typeAfter a (m.types.toList.getD a 0) m.outq 0
    t != 0 && t != modeTy mode)

/-- MMAC: waits until the array, and under PSMODE the port, is free; TILE 8 for latches or accumulators that do not suit the
mode, whether the block is skipped or not. Mark: DEDUCED (log 51): the accumulators' types are those which the words before
this one leave. -/
def execMmac (mode : BitVec 3) (z : Bool) (acc : BitVec 2) (s : State) : Out :=
  s.micro (fun c =>
    let m := s.core.mat
    let md := mode.toNat
    let a := m.nextA.getD Latch.empty
    let b := fillB md m.nextB
    let x := m.accOf c.rix acc
    let bad := !a.suits (modeA md) || !b.all (fun l => l.suits (modeB md)) || b.length != modeN md || x % modeC md != 0 ||
      m.clash md x || (m.psMode && decide (3 ≤ md))
    if bad then s.matFault 0x05 x 8 0 m.upc
    else if s.cycle < m.arrayFree ∨ (m.psMode ∧ s.cycle < m.portFree) then s.microWait
    else
      let skip := blockSkips s.core.r.relaxed a b
      s.onMat (fun m => (m.hand s.cycle md z skip x a b).past s.cycle (.mmac mode z acc) (m.upc + 1)))

/-- MPS. -/
def execMps (on : Bool) (s : State) : Out :=
  s.micro (fun _ => s.onMat (fun m => { m with psMode := on }.past s.cycle (.mps on) (m.upc + 1)))

/-- The word that a micro-address names, counted from the running routine's header. -/
def Core.wordOf (c : Core) (k : Call) (target : BitVec 11) : Nat :=
  if k.rix < 64 then target.toNat
  else match c.routine k.rix with | some r => (target.toNat + 2048 - r.base) % 2048 | none => 0

/-- MIFZ: jumps where the next block would be skipped (08 R255). -/
def execMifz (target : BitVec 11) (s : State) : Out :=
  s.micro (fun k =>
    s.onMat (fun m =>
      let skip := blockSkips s.core.r.relaxed (m.nextA.getD Latch.empty) (if m.nextB.isEmpty then [Latch.empty] else m.nextB)
      m.past s.cycle (.mifz target) (if skip then s.core.wordOf k target else m.upc + 1)))

/-- The count of an MLOOP, 0 taken as 1; ATT.SC counts the key blocks of MA1. -/
def Mat.loopCount (m : Mat) (rix : Nat) (fromma : Bool) (ma : BitVec 3) (count : BitVec 16) : Nat :=
  max 1 (if fromma then (if rix = 11 then fldN (m.ma ma) 8 6 / 4 else fldN (m.ma ma) 8 6) else count.toNat)

/-- The counter stepped, to the word `target` or past the loop (08 R251). -/
def Mat.loop (m : Mat) (target n : Nat) (j : Bool) : Mat :=
  let v := ((if j then m.l1 else m.l0) + 1) % 65536
  let again := decide (v < n)
  let v := if again then v else 0
  let m := if j then { m with l1 := v } else { m with l0 := v }
  { m with upc := if again then target else m.upc + 1 }

/-- MLOOP (08 R251). -/
def execMloop (j fromma : Bool) (ma : BitVec 3) (target : BitVec 11) (count : BitVec 16) (s : State) : Out :=
  s.micro (fun k =>
    s.onMat (fun m =>
      let m := m.loop (s.core.wordOf k target) (m.loopCount k.rix fromma ma count) j
      m.past s.cycle (.mloop j fromma ma target count) m.upc))

/-! ### Queueing on the output path (08 R250, R260, R261) -/

/-- An operation queued; it begins in a later cycle at the earliest. -/
def Mat.enqueue (m : Mat) (now : Nat) (o : OutOp) : Mat := { m with outq := m.outq ++ [o], outAt := max m.outAt (now + 1) }

/-- MOUT. -/
def execMout (acc cnt : BitVec 2) (ma : BitVec 3) (off : BitVec 6) (s0 s1 : BitVec 4) (clr fromma : Bool) (ofmt : BitVec 5)
    (sat : Bool) (s : State) : Out :=
  s.micro (fun k =>
    s.onMat (fun m =>
      let v := m.ma ma
      let tile := m.addr (maTile v) 1 off.toNat s0 s1 4096
      let keep := fromma && maKeep v && k.rix != 11
      let o : OutOp := .out (m.accOf k.rix acc) (cnt.toNat + 1) tile (if fromma then maExp v else 0) keep (if fromma then maSat v else sat)
        (if fromma then maOfmt v else ofmt.toNat) clr m.upc
      let q := if keep then m else m.enqueue s.cycle o
      q.past s.cycle (.mout acc cnt ma off s0 s1 clr fromma ofmt sat) (m.upc + 1)))

/-- MCLR. -/
def execMclr (mask : BitVec 4) (s : State) : Out :=
  s.micro (fun _ => s.onMat (fun m => (m.enqueue s.cycle (.clear mask.toNat)).past s.cycle (.mclr mask) (m.upc + 1)))

/-- MSCL. -/
def execMscl (mask : BitVec 4) (k : BitVec 8) (fromma : Bool) (ma : BitVec 3) (s : State) : Out :=
  s.micro (fun _ => s.onMat (fun m =>
    let e : Int := if fromma then sgn 8 (fldN (m.ma ma) 0 8) else k.toInt
    (m.enqueue s.cycle (.scale mask.toNat e)).past s.cycle (.mscl mask k fromma ma) (m.upc + 1)))

/-- MSIG. -/
def execMsig (ma : BitVec 3) (off : BitVec 6) (s0 s1 : BitVec 4) (s : State) : Out :=
  s.micro (fun _ => s.onMat (fun m =>
    (m.enqueue s.cycle (.sig (m.addr (maTile (m.ma ma)) 1 off.toNat s0 s1 4096) m.upc)).past s.cycle (.msig ma off s0 s1) (m.upc + 1)))

/-! ### The array (08 R254, R258) -/

/-- The accumulators that the output path has still to read or clear: of the output at its head those whose rows are not all
written. -/
def Mat.headAccs (m : Mat) (o : OutOp) : List Nat :=
  match o with
  | .out _ _ _ _ _ _ _ _ _ => o.accs.drop (m.outRow / 16)
  | _ => o.accs

/-- Must a block wait for an output-path operation queued before it that has not finished with one of its accumulators? -/
def Mat.updateWaits (m : Mat) (k : Block) : Bool :=
  match m.outq.take k.ahead with
  | o :: t => (m.headAccs o ++ t.flatMap OutOp.accs).any (fun a => k.accs.contains a)
  | [] => false

/-- One row of an accumulator with the block's sums stepped in, and the flags. -/
def Mat.stepRow (m : Mat) (k : Block) (h r : Nat) : List (BitVec 32) × Flags :=
  let i0 := (k.acc + h) * 1024 + 64 * r
  let old := (m.acc.getMany 0 i0 64).map (·.toNat)
  let l : List Res :=
    if modeInt k.mode then (old.zip (k.rowI h r)).map (fun x => match x.2 with | some s => accI x.1 s | none => (x.1, 0))
    else (old.zip (k.rowF h r)).map (fun x => match x.2 with | some s => accF x.1 s | none => (x.1, 0))
  (l.map (fun x => BitVec.ofNat 32 x.1), l.foldl (fun f x => f ||| x.2) 0)

/-- A whole block stepped into its accumulators. -/
def Mat.update (m : Mat) (k : Block) : Mat × Flags :=
  (List.range (16 * modeC k.mode)).foldl (fun x i =>
    let (row, fl) := m.stepRow k (i / 16) (i % 16)
    ({ x.1 with acc := x.1.acc.setMany 0 ((k.acc + i / 16) * 1024 + 64 * (i % 16)) row }, x.2 ||| fl))
    ({ m with types := k.accs.foldl (fun t a => t.setIfInBounds a (modeTy k.mode)) m.types }, k.readFlags)

/-- The block that is due: the first of those presented at the port, or of the others. -/
def Mat.dueBlock (m : Mat) (now : Nat) (ps : Bool) : Option Block :=
  match m.blocks.find? (fun k => k.ps == ps) with
  | some k => if k.due ≤ now then some k else none
  | none => none

/-- The blocks with the first of those presented at the port, or of the others, replaced. -/
def putBlock (ps : Bool) (new : List Block) : List Block → List Block
  | [] => []
  | k :: t => if k.ps = ps then new ++ t else k :: putBlock ps new t

/-- A window after a cycle in which the array holds: one that has closed stays, one that has opened closes later, another is later
whole. -/
def Mat.holdWindow (m : Mat) (now : Nat) (w : Nat × Nat) : Nat × Nat :=
  if w.2 ≤ now then w
  else if w.1 < now ∨ (w.1 = now ∧ m.psRow.isSome ∧ m.psAt = now) then (w.1, w.2 + 1)
  else (w.1 + 1, w.2 + 1)

/-- The array holds for the cycle `now`. -/
def Mat.holdArray (m : Mat) (now : Nat) : Mat :=
  { m with blocks := m.blocks.map (fun k => { k with due := k.due + 1 }), arrayFree := m.arrayFree + 1, portFree := m.portFree + 1,
           windows := m.windows.map (m.holdWindow now) }

/-- ARRAY_BLOCK_UPDATE: a block that is not presented at the port updates its accumulators, its flags with it; a skipped one
leaves them as they are. -/
def execArrayBlockUpdate (s : State) : Out :=
  .next (
    let m := s.core.mat
    match m.dueBlock s.cycle false with
    | some k =>
      if m.updateWaits k then s.onMat (fun m => m.holdArray s.cycle)
      else
        match k.accs.findSome? (fun a => s.core.badIn 3 (a * 1024) 1024) with
        | some w => s.struck none (s.matFault 0x04 w 3 0 k.uaddr)
        | none =>
          let (m', fl) := if k.skip then (m, 0) else m.update k
          s.onCore (fun c =>
            { c with mat := Mat.settle { m' with blocks := putBlock false [] m.blocks } k.accs (s.cycle + 1), r := c.r.raise fl })
    | none => s)

/-- The row present in the last cycle accumulated (08 R258). -/
def Core.takeRow (c : Core) (now : Nat) : Core :=
  match c.mat.psRow with
  | none => c
  | some (f, row, els, mask) =>
    let i0 := row / 16 * 1024 + 64 * (row % 16)
    let old := (c.mat.acc.getMany 0 i0 64).map (·.toNat)
    let l : List Res := (old.zip (els.zip mask)).map (fun x =>
      if x.2.2 then (if f = Fmt.fp32.code then Fmt.fp32.add .rne x.1 x.2.1 else accI x.1 (sgn 32 x.2.1)) else (x.1, 0))
    let m : Mat := { c.mat with psRow := none, acc := c.mat.acc.setMany 0 i0 (l.map (fun x => BitVec.ofNat 32 x.1)) }
    { c with mat := m.settle [row / 16] (now + 1),
             r := c.r.raise (l.foldl (fun fl x => fl ||| x.2) 0) }

/-- The row that a block presents: its format, place, elements, which are accumulated, and the flags of their rounding. -/
def Block.present (k : Block) : (Nat × Nat × List Nat × List Bool) × Flags :=
  let h := k.row / 16
  let r := k.row % 16
  let at_ := 16 * (k.acc + h) + r
  if modeInt k.mode then
    let l := k.rowI h r
    ((Fmt.int32.code, at_, l.map (fun x => wrapN 32 (x.getD 0)), l.map (·.isSome)), 0)
  else
    let l := k.rowF h r
    let v := l.map (fun x => match x with | some s => if s.isZero then (0, 0) else s.round (.fin false 0 0) | none => (0, 0))
    ((Fmt.fp32.code, at_, v.map (·.1), l.map (fun x => match x with | some s => !s.isZero | none => false)),
      v.foldl (fun fl x => fl ||| x.2) 0)

/-- Does the partial-sum port act in this cycle? -/
def Mat.portDue (m : Mat) (now : Nat) : Bool :=
  (m.psRow.isSome && decide (m.psAt < now)) || (match m.dueBlock now true with | some _ => true | none => false)

/-- PSUM_ROW_PRESENT: the row present in the last cycle is accumulated, and the next row of the block at the port becomes
present; a skipped block presents none. -/
def execPsumRowPresent (s : State) : Out :=
  .next (
    let s := s.onCore (fun c => c.takeRow s.cycle)
    let m := s.core.mat
    match m.dueBlock s.cycle true with
    | none => s
    | some k =>
      if k.row = 0 ∧ m.updateWaits k then s.onMat (fun m => m.holdArray s.cycle)
      else
        let next (m : Mat) : Mat :=
          if k.row + 1 = 16 * modeC k.mode then Mat.settle { m with blocks := putBlock true [] m.blocks } k.accs (s.cycle + 2)
          else { m with blocks := putBlock true [{ k with row := k.row + 1, due := s.cycle + 1 }] m.blocks }
        if k.skip then s.onMat next
        else
          let (row, fl) := k.present
          s.onCore (fun c =>
            { c with mat := { next c.mat with psRow := some row, psAt := s.cycle, types := k.accs.foldl (fun t a => t.setIfInBounds a (modeTy k.mode)) c.mat.types },
                     r := c.r.raise fl }))

/-! ### The output path (08 R260, R261) -/

/-- May the operation at the head of the output path go on: its time has come, every block before it that updates one of its
accumulators is done, and these have stood for a cycle? Updates of other accumulators hold it not (08 R260). -/
def Mat.outReady (m : Mat) (now : Nat) : Option OutOp :=
  match m.outq with
  | o :: _ =>
    let l := m.headAccs o
    if m.outAt ≤ now ∧ l.all (fun a => decide (m.accAt.toList.getD a 0 ≤ now)) ∧
        !(m.blocks.any (fun k => k.ahead == 0 && k.accs.any (fun a => l.contains a))) ∧
        (m.psRow.all (fun r => !l.contains (r.2.1 / 16))) then some o else none
  | [] => none

/-- The head leaves the output path. -/
def Mat.popOut (m : Mat) : Mat :=
  { m with outq := m.outq.drop 1, outRow := 0, blocks := m.blocks.map (fun k => { k with ahead := k.ahead - 1 }) }

/-- Masked accumulators made empty. -/
def Mat.clearAccs (m : Mat) (l : List Nat) : Mat :=
  { m with acc := Sparse.drop (fun i => l.contains (i / 1024)) m.acc, types := l.foldl (fun t a => t.setIfInBounds a 0) m.types }

/-- Why an output cannot be written to its tile: not held by the routine, or unsuited formats. -/
def Core.outBad (c : Core) (k : Call) (acc tile fmt : Nat) : Option Nat :=
  if !k.tiles.contains tile then some 3
  else if (Fmt.ofCode fmt).isNone ∨ !outSuits (c.mat.types.toList.getD acc 0) fmt then some 8
  else if (c.tile tile).fmt ≠ fmt then some 8
  else none

/-- A row of an output written to its tile; the last one completes a write pass (01 R36). -/
def Core.outRow (c : Core) (acc tile row : Nat) (fmt : Nat) (sat : Bool) (exp : Int) : Core :=
  let ty := c.mat.types.toList.getD acc 0
  let l := (c.mat.acc.getMany 0 (acc * 1024 + 64 * row) 64).map (fun v => outElem ty fmt sat exp v.toNat)
  let c : Core := { c with r := c.r.raise (l.foldl (fun f x => f ||| x.2) 0) }
  if (c.tile tile).kind ≠ 1 then c
  else
    let c := if row = 0 then c.modTile tile (fun e => { e with pass := 0 }) else c
    let c := c.putEls tile row 0 (l.map (·.1))
    let c := c.modTile tile (fun e => { e with pass := e.pass ||| 2 ^ row })
    if row = 15 then
      let e := c.tile tile
      c.setStored tile { e with exc := if e.pass = 0xFFFF then false else e.exc, pass := 0 }
    else c

/-- OUTPUT_ROW_WRITE: one converted row of an accumulator to its tile; the unit waits for a core's write to the row from before the
grant (10 R307). -/
def execOutputRowWrite (s : State) : Out :=
  .next (
    let m := s.core.mat
    match m.outReady s.cycle, m.call with
    | some (.out acc cnt tile exp _ sat fmt clr ua), some k =>
      let e := m.outRow / 16
      let a := (acc + e) % 4
      let t := wrapN 12 (tile + e)
      (match if m.outRow % 16 = 0 then s.core.outBad k a t fmt else none with
        | some why => s.matFault 0x05 t why 0 ua
        | none =>
          if s.core.rowBusy t (m.outRow % 16) then s.onMat (fun m => { m with outAt := s.cycle + 1 })
          else s.onCore (fun c =>
            let c := c.outRow a t (m.outRow % 16) fmt sat exp
            let done := m.outRow + 1 = 16 * cnt
            let q := { c.mat with outRow := m.outRow + 1, outAt := s.cycle + 1 }
            let q := if clr ∧ m.outRow % 16 = 15 then q.clearAccs [a] else q
            { c with mat := if done then q.popOut else q }))
    | _, _ => s)

/-- The tile that MSIG returns leaves the routine (08 R261). -/
def Core.sigTile (c : Core) (now t : Nat) : Core :=
  let q := match c.mat.queue with
    | k :: l => { k with tiles := k.tiles.filter (fun x => x != t) } :: l
    | [] => []
  let held := match c.mat.call with | some k => k.tiles.contains t | none => false
  let c := { c with mat := { c.mat.popOut with queue := q } }
  if held then c.returnTile now 9 t true else c

/-- The next row of each masked accumulator scaled by 2^k (02 R68), with the flags. Mark: DESIGN CHOICE (log 21): MSCL spends its
16 cycles on one row a cycle. -/
def Mat.scaleRow (m : Mat) (mask : Nat) (k : Int) : Mat × Flags :=
  let go (x : Mat × Flags) (i : Nat) : Mat × Flags :=
    let ty := m.types.toList.getD (i / 1024) 0
    let v := (m.acc.get 0 i).toNat
    let r := if ty = 2 then scaleInt32 v k else if ty = 1 then Fmt.fp32.scale2 v k else (v, 0)
    ({ x.1 with acc := x.1.acc.set 0 i (BitVec.ofNat 32 r.1) }, x.2 ||| r.2)
  ((m.acc.map (·.1)).filter (fun i => mask.testBit (i / 1024) && i % 1024 / 64 == m.outRow)).foldl go (m, 0)

/-- OUTPUT_PATH_OPERATION: the next MCLR, MSCL or MSIG in order. -/
def execOutputPathOperation (s : State) : Out :=
  .next (
    match s.core.mat.outReady s.cycle with
    | some (.clear mask) => s.onMat (fun m => (m.clearAccs (bitList 4 mask)).popOut)
    | some (.scale mask k) =>
      s.onCore (fun c =>
        let (m, fl) := c.mat.scaleRow mask k
        let m : Mat := { m with outRow := m.outRow + 1, outAt := s.cycle + 1 }
        { c with mat := if m.outRow = 16 then m.popOut else m, r := c.r.raise fl })
    | some (.sig t _) => s.onCore (fun c => (c.sigTile s.cycle t).settleFences)
    | _ => s)

end Sys2Proof.Machine
end

