-- ==== Sys2Proof/Machine/Reliability.lean ====
section
/-! DEFINITION. Errors in stored words, signatures of a pair, segments and rewind (17 R401 to R416). -/

namespace Sys2Proof.Machine

open Sys2Proof

/-! ### Core-local words an operation reads (17 R405) -/

/-- Words of the tile that a handle register names. -/
def Core.handleWords (c : Core) (h : HReg) (rows : List Nat) : List WordRange :=
  if (c.h h).kind = 1 then tileWord (c.h h).tix :: rows.flatMap (fun r => c.rowWords ((c.h h).tix, r)) else []

/-- The descriptor words of `n` slots from one on: control registers 0x40 to 0x7F (01 Table 5). -/
def slotDescs (lo n : Nat) : WordRange := (4, 512 + 0x40 + lo, n)

/-- The entries of tiles and the descriptors of slots that a P command names at issue. -/
def Core.pumpWords (c : Core) (op : Nat) (p : PArgs) : List WordRange :=
  let s3 := c.staged p 3
  let bytes := fldN s3 0 16 * fldN (c.staged p 2) 0 32
  let side (k : Nat) (r : HReg) (add : Word) (units : Bool) (copies : Nat) (dist : Int) : List WordRange :=
    let h := c.h r
    let a := fldN add 0 16
    let rows (f : Nat) : Nat := if units then ceilDiv bytes (rowBytes f) else fldN s3 0 16
    if k = 0 ∧ h.kind = 1 then (({ e := .tile h.tix a } : Side).tiles (rows (c.tile h.tix).fmt) copies dist).map tileWord
    else if k = 1 ∧ h.kind = 1 then (({ e := .slot h.tix a } : Side).slots (rows (c.slot h.tix).fmt) copies dist).map (fun o => slotDescs o 1)
    else []
  let many := op = 4
  side p.sk p.hs (c.staged p 0) (op = 2) 1 0 ++
    side p.dk p.hd (c.staged p 1) (op = 1) (if many then fldN (c.staged p 2) 0 16 else 1) (if many then sgn 32 (fldN (c.staged p 2) 32 32) else 0) ++
    (if op = 1 ∨ op = 2 then
      tab (max 1 (ceilDiv (fldN s3 0 16 * (if fldN s3 28 2 = 1 then 2 else 1)) 1024)) (fun k => tileWord (wrapN 12 (fldN s3 16 12 + k)))
    else [])

/-- The words beside registers that an operation reads. -/
def Core.arrayWords (c : Core) (i : Instr) : List WordRange :=
  match i with
  | .talloc _ ha _ _ _ | .tfree _ ha | .tsymZero _ ha _ | .tsymConst _ ha _ _ | .tsymRamp _ ha _ _ _ | .tprobeLo _ _ ha
  | .tprobeHi _ _ ha | .tretype _ ha _ | .townGive _ ha _ | .townTake _ ha _ | .tflag _ ha _ _ _ _ | .owait _ ha =>
    c.handleWords ha []
  | .tsymRepeat _ hd ha => c.handleWords ha [] ++ c.handleWords hd []
  | .tld _ _ ha xb ix => c.handleWords ha [c.elemIx xb ix / 64]
  | .tst _ ha xb _ ix => c.handleWords ha [c.elemIx xb ix / 64]
  | .patld _ ha r0 _ n => c.handleWords ha (tab n.toNat (fun k => (r0.toNat + k) % 16))
  | .ktanc _ ha _ _ | .ktpos _ ha _ | .ktprune _ _ ha _ _ => (6, 0, 256) :: c.handleWords ha []
  | .ktadd _ _ _ _ | .ktset _ _ _ | .ktgetNodes _ _ => [(6, 0, 256)]
  | .portsetBind _ ha port => if (c.h ha).kind = 2 ∧ 8 ≤ port.toNat then (walkTiles (c.h ha)).map tileWord else []
  | .mcall _ rix ovm ov _ => (match c.routine rix.toNat with
    | some r =>
      let ma := c.callMa ovm ov
      (10, c.microAddr rix.toNat 0, 1) :: (r.tiles rix.toNat ma).map (fun x => tileWord x.1) ++ (r.slots ma).map (fun o => slotDescs o 1)
    | none => [])
  | .mclaim _ slot cnt | .mrel _ slot cnt => [slotDescs slot.toNat (cnt.toNat + 1)]
  | .pcopy p => c.pumpWords 0 p
  | .pgatherList p | .pgatherPairs p => c.pumpWords 1 p
  | .pscatter p => c.pumpWords 2 p
  | .preduce p => c.pumpWords 3 p
  | .pbcast p => c.pumpWords 4 p
  | .pfill p => c.pumpWords 5 p ++ c.handleWords p.hs []
  | .ktgetNode _ _ xb | .ktgetDepth _ _ xb => [(6, c.nodeIx xb, 1)]
  | .cread _ _ num => [(4, 512 + num.toNat, 1)]
  | .tret _ => [(8, 0, 48)]
  | .vshuf v => [(7, (if c.r.patbank then 64 else 0) + v.pat.toNat, 1)]
  | _ => []

/-- The words that a V operation reads in its tiles. -/
def Core.portWords (c : Core) (i : Instr) : List WordRange :=
  match i.vInfo with
  | some n =>
    n.pops.flatMap (fun p => (c.designate p n.rows).flatMap c.rowWords) ++
      (if n.v.dw.toNat < 4 then (c.designate (8 + n.v.dw.toNat) n.rows).map (fun x => tileWord x.1) else [])
  | none => []

/-- The first uncorrectable word that an operation in a slot reads: array code and index. -/
def Core.badRead (c : Core) (slot : Nat) (i : Instr) : Option (Nat × Nat) :=
  if c.badWords.isEmpty then none
  else
    let g : WordRange := (4, qId i.guard.qp, 1)
    let regs : List WordRange := ((i.access slot).reads.filter (fun r => decide (r < 264))).map (fun r => (4, r, 1))
    c.badOfRanges (g :: (if c.guard i.guard then regs ++ c.arrayWords i ++ c.portWords i else []))

/-! ### Signatures (17 R408) -/

/-- A list of numbers put in order, repeats kept. -/
def orderN (l : List Nat) : List Nat :=
  l.foldr (fun x t => (t.filter (fun y => decide (y < x))) ++ x :: t.filter (fun y => decide (x ≤ y))) []

/-- The value of a register as the group rule numbers it. -/
def Core.regValue (c : Core) (r : Nat) : Nat :=
  if r < 64 then (c.x (BitVec.ofNat 6 r)).toNat
  else if r < 128 then (if c.q (BitVec.ofNat 4 (r - 64)) then 1 else 0)
  else if r < 192 then (c.h (BitVec.ofNat 6 (r - 128))).toNat
  else if r < 200 then (c.ma (BitVec.ofNat 3 (r - 192))).toNat
  else (c.stg (BitVec.ofNat 6 (r - 200))).toNat

/-- A word of an array as a source: the granules of a pair's two cores are their own; a control register is compared as it is returned,
captured results as they become visible, micro-words as they act. -/
def Core.wordValue (c : Core) (arr ix : Nat) : Nat :=
  match arr with
  | 1 => (c.sp.get 0 ix).toNat
  | 2 => (c.om.get 0 ix).toNat
  | 4 => if ix < 512 then c.regValue ix else if ix < 512 + 0x40 then 0 else (c.slot (ix - 512 - 0x40)).word.toNat
  | 5 => ({ c.tile ix with base := 0 } : Tile).bits
  | 6 => (c.tree.get nodeReset ix).toNat
  | 7 => (c.pats.get (BitVec.ofNat 512 (packN 8 (List.range 64))) ix).toNat
  | _ => 0

/-- What an operation of a slot contributes: its encoding, and every source value that it reads: registers, and, where its guard reads
true, the words of its tiles, slots, nodes and pattern. -/
def Core.opSig (c : Core) (slot : Nat) (i : Instr) : List Nat :=
  slot :: ((encodeLiteral i).getD []).map (fun w => w.toNat) ++ ((i.access slot).reads.filter (fun r => decide (r < 264))).map c.regValue ++
    (if c.guard i.guard then (c.arrayWords i ++ c.portWords i).flatMap (fun x => tab x.2.2 (fun k => c.wordValue x.1 (x.2.1 + k))) else [])

/-- What an issue contributes: where its bundles stand, their headers, and their operations. -/
def Core.issueSig (c : Core) (l : List Part) : List Nat :=
  l.flatMap (fun p => 13 :: p.1.toNat :: p.2.1.mask.toNat :: bitN p.2.1.stop :: bitN p.2.1.seg :: bitN p.2.1.tple ::
    p.2.1.ops.flatMap (fun o => match o.2 with
      | some i => c.opSig o.1 i
      | none => []))

/-- The end of a cycle: its signature is kept until it is compared. -/
def Core.closeSig (c : Core) (now : Nat) : Core :=
  if c.sigNow.isEmpty then c else { c with sigs := c.sigs ++ [(now, orderN c.sigNow)], sigNow := [] }

/-- The signature of a cycle. -/
def Core.sigOf (c : Core) (cycle : Nat) : List Nat := ((c.sigs.find? (fun e => e.1 == cycle)).map (·.2)).getD []

/-! ### Segments (17 R410, R411) -/

/-- The copy that a core takes when a segment opens. -/
def Core.takeCkpt (c : Core) (now : Nat) (pc : ParcelIx) : Ckpt :=
  { r := c.r, pc := pc, ports := c.ports, sp := c.sp, free := c.free, tiles := c.tiles, om := c.om, omd := c.omd,
    acc := c.mat.acc, types := c.mat.types, tree := c.tree, pats := c.pats, wl := c.wl, flight := capture now c.flight ++ c.halted,
    captured := c.captured, resume := c.resume, heldCls := c.heldCls, dets := c.dets.map (fun d => { d with due := d.due - now }),
    mfault := c.mat.fault, pfaults := c.chans.toList.map (fun h => (h.fault, h.flags)), at_ := now, seq := c.iss.seq }

/-- A segment opens: checkpoint taken, undo buffer and log emptied. -/
def Core.openSeg (c : Core) (now : Nat) (pc : ParcelIx) : Core :=
  { c with segOpen := true, segAt := now, segRun := 0, ckpt := some (c.takeCkpt now pc), log := [], undoRows := [], undoEnts := [],
           rewinds := 0, abort := none }

/-- Are the matrix-unit queue and the channel queues of a core empty? -/
def Core.quiet (c : Core) : Bool := c.mat.queue.isEmpty && c.chans.toList.all (fun h => h.queue.isEmpty)

/-- Number of the value by which a leader tells its checker that a segment opens. -/
def segNo : Nat := 0x180

/-- A bundle at its issue: with SEG it counts, and in a quiet pair it opens a segment; the bundle issued again after a rewind does
neither (17 R410, R413). The first bundle of a pair that goes on takes a checkpoint as if a segment opened there (17 R416). -/
def State.enterSeg (s : State) (seg : Bool) (pc : ParcelIx) : State :=
  if s.core.reseg then s.onCore (fun c => { c with reseg := false, segAt := s.cycle, segRun := 0 })
  else if s.core.r.prot && s.core.task.resumed then
    s.onCore (fun c => (({ c with task := { c.task with resumed := false } }).countSeg seg).openSeg s.cycle pc)
  else if !seg then s
  else
    let opens : Bool :=
      if s.core.r.chk then s.core.iss.fwd.any (fun e => e.1 == segNo)
      else s.core.r.prot && s.core.quiet && (s.coreAt (peerOf s.cid)).quiet
    let s := s.onCore (fun c => c.countSeg true)
    if opens then (s.onCore (fun c => c.openSeg s.cycle pc)).pass segNo 1 else s

/-- Indices at which two sparse arrays, both ascending, differ; `n` bounds the sum of their lengths. -/
def sparseDiffN {α : Type} [DecidableEq α] : Nat → Sparse α → Sparse α → List Nat
  | 0, _, _ => []
  | _ + 1, [], b => b.map (·.1)
  | _ + 1, a, [] => a.map (·.1)
  | n + 1, x :: a, y :: b =>
    if x.1 < y.1 then x.1 :: sparseDiffN n a (y :: b)
    else if y.1 < x.1 then y.1 :: sparseDiffN n (x :: a) b
    else if x.2 = y.2 then sparseDiffN n a b
    else x.1 :: sparseDiffN n a b

/-- Indices at which two sparse arrays differ. -/
def sparseDiff {α : Type} [DecidableEq α] (a b : Sparse α) : List Nat := sparseDiffN (a.length + b.length) a b

/-- Numbers added to an ascending list. -/
def addAll (l new : List Nat) : List Nat := new.foldl (fun l x => insN x l) l

/-- The number of the row that holds a word of the scratchpad: the row of a stored tile, or the granule. -/
def Core.rowOf (c : Core) (w : Nat) : Nat :=
  match c.tiles.find? (fun e => e.2.ext != 0 && decide (e.2.base ≤ w / 16 ∧ w / 16 < e.2.base + e.2.ext)) with
  | some (t, e) => 2 ^ 22 + t * 16 + (w - e.base * 16) / max 1 (fmtOf e.fmt).width
  | none => w / 16

/-- The number of the row that holds a word of operand memory. -/
def Core.slotRowOf (c : Core) (w : Nat) : Nat := 2 ^ 20 + w / 512 * 64 + w % 512 / max 1 (fmtOf (c.slot (w / 512)).fmt).width

/-- The undo buffer at the end of a cycle: rows of the scratchpad, of operand memory and of accumulators, and entries, that
differ from the checkpoint or once did. -/
def Core.recordUndo (c : Core) : Core :=
  match c.ckpt with
  | some k =>
    if !c.segOpen || decide (256 < c.undoRows.length) || decide (512 < c.undoEnts.length) then c
    else
      { c with undoRows := addAll c.undoRows ((sparseDiff c.sp k.sp).map c.rowOf ++
                 (sparseDiff c.om k.om).map c.slotRowOf ++ (sparseDiff c.mat.acc k.acc).map (fun w => 2 ^ 21 + w / 64)),
               undoEnts := addAll c.undoEnts (sparseDiff c.tiles k.tiles ++ (sparseDiff c.tree k.tree).map (fun n => 2 ^ 13 + n) ++
                 (sparseDiff c.pats k.pats).map (fun n => 2 ^ 14 + n) ++ (sparseDiff c.omd k.omd).map (fun n => 2 ^ 15 + n)) }
  | none => c

/-- May the core's open segment still be rewound? (17 R411) -/
def Core.rewindable (c : Core) : Bool :=
  c.segOpen && c.ckpt.isSome && decide (c.segRun ≤ 4096) && decide (c.undoRows.length ≤ 256) &&
    decide (c.undoEnts.length ≤ 512) && decide (c.log.length ≤ 128)

/-! ### Rewind (17 R412, R413) -/

/-- The log without the effects that are not yet released: an effect of leader cycle `c` is released once the comparison
of `c + 3` has matched (17 R409); the checker's copy was logged 2 cycles later. -/
def Core.released (c : Core) (now : Nat) : List LogEntry :=
  (c.log.filter (fun e => decide (e.at_ + (if c.r.chk then 1 else 3) < now) || !e.used)).map (fun e => { e with used := false })

/-- Is the access or command among the log's effects? -/
def inLog (l : List LogEntry) (seq : Nat) : Bool := l.any (fun e => e.seq == seq && e.numbered)

/-- The load of an LDW: its object check is logged, the load itself is not (17 R414). -/
def MuItem.checked (i : MuItem) : Bool := match i.kind with | .loadW _ _ _ => true | _ => false

/-- The phase of a task that a rewind takes back: after HALT or a trap that ends it, it runs again, or halts again where a pre-emption has
reached it. -/
def Task.rewound (t : Task) : Task :=
  match t.phase with
  | .ending _ _ _ _ => { t with phase := if t.haltAt = 0 then .running else .halting t.requested }
  | _ => t

/-- A released arrival at a SYNC stands (17 R413). -/
def Core.stands (c : Core) (now : Nat) : Option SyncWait :=
  match c.hold.sync with
  | some w => if w.arrived ≤ now ∧ !w.go then some w else c.stood
  | none => c.stood

/-- The registers of a checkpoint, with the counters that no rewind takes back. -/
def Core.oldRegs (c : Core) (k : Ckpt) (back : Nat) : Arch :=
  { k.r with segcount := c.r.segcount, rwcount := c.r.rwcount + back, cycles := c.r.cycles }

/-- A channel rewound: commands that neither the log names nor an earlier segment accepted are discarded, and the pending fault is the
one of the checkpoint (17 R413). -/
def Chan.rewound (h : Chan) (k : Ckpt) (log : List LogEntry) (f : Option PumpFault × Flags) : Chan :=
  { h with queue := h.queue.filter (fun q => q.marker.isSome || inLog log q.seq || decide (q.seq < k.seq)), fault := f.1, flags := f.2 }

/-- One core of a pair rewound: what has not been released is discarded, the checkpoint is written back. -/
def Core.rewind (c : Core) (now due : Nat) (k : Ckpt) (why : Option Nat) : Core :=
  let log := c.released now
  let m : Mat := { c.mat with queue := [], running := false, blocks := [], outq := [], psRow := none, windows := [] }
  let m : Mat := { m with fault := k.mfault, acc := k.acc, types := k.types, ended := (0, []), outRow := 0, seqAt := now }
  let c : Core := { c with r := c.oldRegs k 1, pc := k.pc, ports := k.ports, sp := k.sp, free := k.free, tiles := k.tiles }
  let c : Core := { c with om := k.om, omd := k.omd, tree := k.tree, pats := k.pats, wl := k.wl, mat := m }
  let c : Core := { c with flight := c.flight.filter (fun p => p.ans && decide (p.seq < k.seq)) }
  let c : Core := { c with captured := k.captured, dets := [], resume := k.resume, heldCls := k.heldCls, log := log, sigs := [], sigNow := [], bcast := [] }
  let c : Core := { c with mu := c.mu.filter (fun i => (inLog log i.seq && !i.checked) || decide (i.seq < k.seq)) }
  let c : Core := { c with sump := (c.sump.filter (fun e => inLog log e.seq || decide (e.seq < k.seq))).map (fun e => { e with rot := none }) }
  let c : Core := { c with chans := Vector.ofFn (fun n => (c.chan n.val).rewound k log (k.pfaults.getD n.val (none, 0))) }
  { c with stood := c.stands now, hold := {}, badfetch := none, task := c.task.rewound, iss := { c.iss with written := [], want := [], vHold := #v[0, 0], divHold := 0, drain := false, fwd := [] },
           badWords := [], rewinds := c.rewinds + 1, abort := why, strike := none, reseg := true, back := some due,
           undoRows := [], undoEnts := [] }

/-- The pair rewinds at this cycle, or its task ends with CAUSE 0xF1: no segment that can be rewound, or a fourth rewind of
one segment (17 R415). -/
def State.rewindPair (s : State) (why : Option Nat) : State :=
  let lead := if s.core.r.chk then peerOf s.cid else s.cid
  let a := s.coreAt lead
  let b := s.coreAt (peerOf lead)
  match a.ckpt, b.ckpt with
  | some ka, some kb =>
    if a.rewindable && b.rewindable && decide (a.rewinds < 3) then
      let due := s.cycle + 32 + 2 * a.undoRows.length
      let next (c : Core) : Core := { c with iss := { c.iss with seq := max a.iss.seq b.iss.seq } }
      (s.putCore lead (next (a.rewind s.cycle due ka why))).putCore (peerOf lead) (next (b.rewind s.cycle (due + 2) kb why))
    else s.failPair
  | _, _ => s.failPair

/-- Do the signatures of leader cycle `now - 3` and checker cycle `now - 1` differ? -/
def State.mismatch (s : State) : Bool :=
  let lead := if s.core.r.chk then peerOf s.cid else s.cid
  decide (3 ≤ s.cycle) && (s.coreAt lead).sigOf (s.cycle - 3) != (s.coreAt (peerOf lead)).sigOf (s.cycle - 1)

/-- Is there a signature of leader cycle `now - 3` or of checker cycle `now - 1` to compare? -/
def State.sigDue (s : State) : Bool :=
  let lead := if s.core.r.chk then peerOf s.cid else s.cid
  decide (3 ≤ s.cycle) && (!((s.coreAt lead).sigOf (s.cycle - 3)).isEmpty || !((s.coreAt (peerOf lead)).sigOf (s.cycle - 1)).isEmpty)

/-- The signatures that have been compared leave. -/
def Core.dropSigs (c : Core) (now age : Nat) : Core := { c with sigs := c.sigs.filter (fun e => decide (now < e.1 + age)) }

/-- A pair that an event has struck rewinds, once its checker has opened the segment too. -/
def State.rewindNow (s : State) : State :=
  match s.core.strike with
  | some why => if s.core.r.prot && s.bothOpen then s.rewindPair why else s
  | none => s

/-- SIGNATURE_COMPARE: a mismatch, or an event that has struck either core, begins a rewind (17 R408, R412). -/
def execSignatureCompare (s : State) : Out :=
  .next (
    if !s.core.r.prot then s
    else match s.core.strike with
      | some _ => s.rewindNow
      | none =>
        if s.mismatch then (s.onPair (fun c => { c with strike := some s.core.abort })).rewindNow
        else
          let lead := if s.core.r.chk then peerOf s.cid else s.cid
          let s := s.putCore lead ((s.coreAt lead).dropSigs s.cycle 3)
          s.putCore (peerOf lead) ((s.coreAt (peerOf lead)).dropSigs s.cycle 1))

/-- Has every pump command of the core that a rewind has left come to its end? -/
def Core.drained (c : Core) : Bool := c.chans.toList.all (fun h => h.queue.all (fun q => q.marker.isSome))

/-- Does a rewound core issue again now? The leader once the released pump commands of the pair have completed, its checker 2 cycles
later (17 R413). -/
def State.reissueDue (s : State) : Bool :=
  let peer := s.coreAt (peerOf s.cid)
  match s.core.back, s.core.ckpt with
  | some due, some _ => decide (due ≤ s.cycle) && (if s.core.r.chk then peer.back.isNone else s.core.drained && peer.drained)
  | _, _ => false

/-- REWIND_REISSUE: the SEG bundle issues again, with the results of the checkpoint counted from that issue (17 R413). -/
def execRewindReissue (s : State) : Out :=
  .next (match s.core.ckpt with
    | some k =>
      if !s.reissueDue then s
      else
        let peer := s.coreAt (peerOf s.cid)
        let s := if s.core.r.chk then s else s.putCore (peerOf s.cid) { peer with back := peer.back.map (fun _ => s.cycle + 2) }
        s.onCore (fun c =>
          { c with r := c.oldRegs k 0, back := none, chans := c.chans.map (fun h => { h with adv := [] }),
                   flight := c.flight.filter (fun p => p.ans) ++ k.flight.map (fun p => { p with due := s.cycle + p.due }),
                   dets := k.dets.map (fun d => { d with due := s.cycle + d.due }),
                   segAt := s.cycle, segRun := 0, iss := { c.iss with ready := s.cycle } })
    | none => s)

/-! ### Errors -/

/-- ABORT_COMPLETION: an access meets uncorrectable data (17 R403, R404). -/
def execAbortCompletion (s : State) : Out :=
  .next (match s.nextItem with
    | some i => if s.aborts i then s.abortItem i else s
    | none => s)

/-- ECC_SCRUB: the scrub reads a word; an uncorrectable one interrupts Shogiwald with its address, and no requester waits
(17 R401, R403). -/
def execEccScrub (pa : BitVec 52) (s : State) : Out :=
  .next (match s.unc.find? (fun u => decide (u.1 ≤ pa.toNat ∧ pa.toNat < u.1 + u.2)) with
    | some u => { s with notes := s.notes ++ [(1, u.1)] }
    | none => s)

/-- A bit of an element of `w` bits flipped, in a row or tile of them. -/
def flipEl (l : List Nat) (w bit : Nat) : List Nat :=
  (List.range l.length).filterMap (fun i => (l[i]?).map (fun v => if i = bit / w then v ^^^ 2 ^ (bit % w) else v))

/-- A bit of a register's or row's result flipped. -/
def Write.flip (w : Write) (bit : Nat) : Write :=
  match w with
  | .x d v => .x d (v ^^^ (1#64 <<< (bit % 64)))
  | .xfp d v fl => .xfp d (v ^^^ (1#64 <<< (bit % 64))) fl
  | .q d v => .q d !v
  | .qfp d v fl => .qfp d (!v) fl
  | .qAll v => .qAll (v ^^^ (1#16 <<< (bit % 16)))
  | .h d v => .h d (v ^^^ (1#256 <<< (bit % 256)))
  | .ma d v => .ma d (v ^^^ (1#32 <<< (bit % 32)))
  | .stg d v => .stg d (v ^^^ (1#64 <<< (bit % 64)))
  | .ctl n v => .ctl n (v ^^^ (1#64 <<< (bit % 64)))
  | .elem t ix v => .elem t ix (v ^^^ (1#64 <<< (bit % 64)))
  | .node i v => .node i (v ^^^ (1#64 <<< (bit % 64)))
  | .pattern b e v => .pattern b e (v ^^^ (1#512 <<< (bit % 512)))
  | .vec v =>
    let w := match v.i.vInfo with | some n => n.rf.width | none => 64
    .vec { v with res := (flipEl (v.res.map (·.1)) w bit).zip (v.res.map (·.2)) }
  | w => w

/-- A bit of result `k` on its way flipped (17 R408). -/
def flipBit (l : List Pend) (k bit : Nat) : List Pend :=
  (List.range l.length).filterMap (fun i => (l[i]?).map (fun p => if i = k then { p with w := p.w.flip bit } else p))

/-- SOFT_ERROR: array 0 is the 128-bit word of L2 or a cistern at a physical address, 14 the 64-byte burst of GDDR7, 1 to 10 the core's
arrays of R405, 11 the dictionary, 12 the parcel cache, 13 the L1 tags, 15 a result on its way, which no code covers, by its number and
bit (log 32). A corrected error
changes nothing; what carries parity is fetched again, where it is next read; an uncorrectable word stays so until it is written, an entry
of the sump until it leaves, and is found when it is read (17 R401 to R405). -/
def execSoftError (unc : Bool) (arr : BitVec 4) (core : BitVec 9) (ix : BitVec 52) (s : State) : Out :=
  .next (s.withCore core.toNat (fun s =>
    let k := ix.toNat
    let a := arr.toNat
    if a = 15 then s.onCore (fun c => { c with flight := flipBit c.flight (k / 65536) (k % 65536) })
    else if a = 11 then
      s.onCore (fun c => { c with dictBad := c.dictBad.filter (fun b => b.1 != k) ++ [(k, none)] })
    else if a = 12 then s.onCore (fun c => { c with lines := c.lines.filter (fun l => l.1 != k) })
    else if a = 13 then s.onCore (fun c => { c with l1 := c.l1.filter (fun l => l.1 != k) })
    else if !unc then s
    else if a = 0 ∨ a = 14 then
      let n := if a = 0 then 16 else 64
      { s with unc := s.unc.filter (fun u => u != (k / n * n, n)) ++ [(k / n * n, n)] }
    else if a = 9 then
      s.onCore (fun c => { c with sump := (List.range c.sump.length).filterMap (fun i => (c.sump[i]?).map (fun e =>
        if i = k then { e with rot := some k } else e)) })
    else if a ≤ 10 then s.onCore (fun c => { c with badWords := c.badWords.filter (fun b => b != (a, k)) ++ [(a, k)] })
    else s))

end Sys2Proof.Machine
end

