-- ==== Sys2Proof/Machine/Pending.lean ====
section
/-! DEFINITION. The records of a save area that are not of fixed places, as bytes and back: captured results, loads that a halt abandoned,
answers of object operations, the resume record, the sump (01 R42, R44, 07 R236, 13 R353, 16 R399). The places of their fields, which
16 Table 7 does not give, are the model's. Mark: DESIGN CHOICE (log 43). -/

namespace Sys2Proof.Machine

open Sys2Proof

/-- Numbers one after another as bytes: value, size. -/
def packBytes (l : List (Nat × Nat)) : List Byte := l.flatMap (fun e => leBytes e.2 e.1)

/-- Bytes filled with zeros, or cut, to a length. -/
def padTo (n : Nat) (b : List Byte) : List Byte := b.take n ++ List.replicate (n - b.length) 0

/-- A row of 64 elements of 64 bits. -/
def valueRow (els : List Nat) : List Byte := padTo 512 (els.flatMap (leBytes 8))

/-- The elements of a row. -/
def rowValues (b : List Byte) : List Nat := tab 64 (fun k => cut b (8 * k) 8)

/-! ### One entry of the pending-result area (01 R42)

An entry of 2304 bytes: a header of 64 bytes, a value of 512, three operand rows of 512, 128 bytes of flags, 64 of padding. The header
holds the cycles left (2 bytes), the slot (1), the kind of the destination (1), its place (4), the issue number (8), at 16 whether the
entry's result was captured by a halt, at 17 how many entries the result has, and from 18 on what its kind needs. -/

/-- What an entry holds beside the result's time: kind and place of the destination, what the kind needs, the bytes behind the
header. -/
structure EntryBody where
  kind  : Nat
  place : Nat
  ext   : List Byte
  body  : List Byte
  deriving DecidableEq, Repr

/-- A number for a symbol: code, number, value. -/
def Sym.code : Sym → Nat × Nat × Nat
  | .zero => (0, 0, 0)
  | .const v => (1, 0, v.toNat)
  | .ramp r v => (2, r, v.toNat)
  | .rep s => (3, s, 0)

/-- The symbol of a code, a number and a value. -/
def Sym.ofCode (k n v : Nat) : Sym :=
  match k with
  | 0 => .zero
  | 1 => .const (BitVec.ofNat 64 v)
  | 2 => .ramp n (BitVec.ofNat 64 v)
  | _ => .rep n

/-- A change of a tile's entry: the tile, and code, format or owner, four bits, a symbol's code, a base or a number, a value. -/
def TileOp.fields : TileOp → Nat × List (Nat × Nat)
  | .alloc t f det keep base => (t, [(0, 1), (f, 1), (bitN det + 2 * bitN keep, 1), (0, 1), (base, 4), (0, 8)])
  | .free t => (t, [(1, 1)])
  | .sym t f s => (t, [(2, 1), (f, 1), (0, 1), (s.code.1, 1), (s.code.2.1, 4), (s.code.2.2, 8)])
  | .retype t f => (t, [(3, 1), (f, 1)])
  | .own t o => (t, [(4, 1), (o, 1)])
  | .flags t wd d wk k => (t, [(5, 1), (0, 1), (bitN wd + 2 * bitN d + 4 * bitN wk + 8 * bitN k, 1)])

/-- The change that these bytes hold. -/
def TileOp.ofBytes (t : Nat) (b : List Byte) : TileOp :=
  let f := cut b 1 1
  let bits := cut b 2 1
  match cut b 0 1 with
  | 0 => .alloc t f (bits.testBit 0) (bits.testBit 1) (cut b 4 4)
  | 1 => .free t
  | 2 => .sym t f (Sym.ofCode (cut b 3 1) (cut b 4 4) (cut b 8 8))
  | 3 => .retype t f
  | 4 => .own t f
  | _ => .flags t (bits.testBit 0) (bits.testBit 1) (bits.testBit 2) (bits.testBit 3)

/-- Kind of destination, and the number of a resolved form. -/
def VDest.code : VDest → Nat × Nat × Nat × Nat × Nat
  | .discard => (0, 0, 0, 0, 0)
  | .rows _ => (1, 0, 0, 0, 0)
  | .sym _ .elem => (2, 0, 0, 0, 0)
  | .sym _ .red => (3, 0, 0, 0, 0)
  | .sym _ (.ramp s) => (4, s.code.1, s.code.2.1, s.code.2.2, 0)

/-- What every entry of a vector operation, and its resume record, holds in common: operation, rounding mode, first element, rows, the
kind of destination, flags of reading, the sum. -/
def VecOp.fields (v : VecOp) (row : Nat) : List (Nat × Nat) :=
  let d := v.dest.code
  [(((encodeV v.i).getD 0).toNat, 8), (v.mode, 1), (v.from_, 2), (v.ops.length / 64, 1), (row, 1), (d.1, 1), (d.2.1, 1), (d.2.2.1, 2), (d.2.2.2.1, 8),
   (v.read.toNat, 1)] ++
    (match v.sum with
      | some (x, w, fl) => [(1, 1), (x.toNat, 1), (w.toNat, 8), (fl.toNat, 1)]
      | none => [(0, 1), (0, 1), (0, 8), (0, 1)])

/-- The place of row `k` of a destination: 16 times its tile plus the row. -/
def VDest.place (d : VDest) (k : Nat) : Nat :=
  match d with
  | .rows l => (l.getD k (0, 0)).1 * 16 + (l.getD k (0, 0)).2
  | .sym t _ => t * 16
  | .discard => 0

/-- The destination of a code, an entry's places and the number of rows. -/
def VDest.ofCode (b : List Byte) (places : List Nat) : VDest :=
  let t := places.headD 0 / 16
  match cut b 13 1 with
  | 0 => .discard
  | 1 => .rows (places.map (fun p => (p / 16, p % 16)))
  | 2 => .sym t .elem
  | 3 => .sym t .red
  | _ => .sym t (.ramp (Sym.ofCode (cut b 14 1) (cut b 15 2) (cut b 17 8)))

/-- The operation that the common bytes hold, with its operands, results and what was read at issue; an unknown word is none. -/
def VecOp.ofBytes (b : List Byte) (places : List Nat) (aux : Nat) (ops : List (Nat × Nat × Nat)) (res : List Res) (skip : List Nat) : Option VecOp :=
  (decodeV (BitVec.ofNat 64 (cut b 0 8))).map (fun i =>
    { i := i, mode := cut b 8 1, dest := VDest.ofCode b places, from_ := cut b 9 2, aux := aux, ops := ops, res := res,
      read := BitVec.ofNat 8 (cut b 25 1),
      sum := if cut b 26 1 = 1 then some (BitVec.ofNat 6 (cut b 27 1), BitVec.ofNat 64 (cut b 28 8), BitVec.ofNat 8 (cut b 36 1)) else none,
      skip := skip })

/-- Row `k` of a vector operation's entries: results, operands, each element's flags with bit 15 where it is skipped, what was read at
issue. -/
def VecOp.entry (v : VecOp) (k : Nat) : EntryBody :=
  let ops := (v.ops.drop (64 * k)).take 64
  let res : List Res := (v.res.drop (64 * k)).take 64
  { kind := 22, place := v.dest.place k, ext := packBytes (v.fields k),
    body := valueRow (res.map (·.1)) ++ valueRow (ops.map (·.1)) ++ valueRow (ops.map (·.2.1)) ++ valueRow (ops.map (·.2.2)) ++
      padTo 128 (packBytes ((List.range res.length).map (fun e => ((res.getD e (0, 0)).2.toNat + (if v.skip.contains (64 * k + e) then 2 ^ 15 else 0), 2)))) ++
      leBytes 64 v.aux }

/-- The entries of a result. Kinds: 1 X, 2 Q, 3 Q1 to Q15, 4 H, 5 MA, 6 staging, 7 control register, 8 node, 9 the token-tree file, 10
tile-table entry, 11 element or row of a tile, 12 to 14 a port, 15 Windlass word, 16 pattern, 17 and 18 granules, 19 to 21 grants of engines, 22
rows of a vector operation. -/
def Write.bodies (w : Write) : List EntryBody :=
  let e (kind place v : Nat) (ext : List (Nat × Nat)) : List EntryBody := [{ kind := kind, place := place, ext := packBytes ext, body := leBytes 512 v }]
  match w with
  | .x d v => e 1 d.toNat v.toNat []
  | .xfp d v fl => e 1 d.toNat v.toNat [(1, 1), (fl.toNat, 1)]
  | .q d v => e 2 d.toNat (bitN v) []
  | .qfp d v fl => e 2 d.toNat (bitN v) [(1, 1), (fl.toNat, 1)]
  | .qAll v => e 3 0 v.toNat []
  | .h d v => e 4 d.toNat v.toNat []
  | .ma d v => e 5 d.toNat v.toNat []
  | .stg d v => e 6 d.toNat v.toNat []
  | .ctl n v => e 7 n v.toNat []
  | .seqlen v => e 7 0x12 v.toNat [(1, 1)]
  | .patSwitch => e 7 0x1D 1 [(1, 1)]
  | .fp fl => e 7 9 fl.toNat [(1, 1)]
  | .node i v => e 8 i v.toNat []
  | .treeClear => e 9 0 0 []
  | .tile o => e 10 o.fields.1 0 o.fields.2
  | .elem t ix v => e 11 (t * 1024 + ix) v.toNat []
  | .rows t els p =>
    let ext := packBytes (match p with | some (d, v) => [(2, 1), (d.toNat, 1), (v.toNat, 8)] | none => [(1, 1)])
    tab 16 (fun r => { kind := 11, place := t * 16 + r, ext := ext, body := valueRow ((els.drop (64 * r)).take 64) })
  | .port p st bind => e 12 p st.walk.toNat [(st.i0, 2), (st.i1, 2), (st.i2, 2), (bitN st.bound + 2 * bitN st.wrap + 4 * bitN bind, 1)]
  | .portStep p n => e 13 p n []
  | .portSet p v => e 14 p v.toNat []
  | .wlWord lv word v => e 15 (lv * 16 + word) v.toNat []
  | .pattern b k v => e 16 (b * 64 + k) v.toNat []
  | .claim lo n => e 17 lo n []
  | .release lo n => e 18 lo n []
  | .grant t o fmt => e 19 t o (match fmt with | some f => [(1, 1), (f, 1)] | none => [])
  | .slotOwn o => e 20 o 0 []
  | .slotFree o => e 21 o 0 []
  | .vec v => tab (max 1 (v.ops.length / 64)) v.entry

/-- A result's entries, 2304 bytes each; `halted` those that a halt captured. -/
def Pend.entries (halted : Bool) (p : Pend) : List (List Byte) :=
  let l := p.w.bodies
  l.map (fun b => padTo 2304 (padTo 64 (packBytes [(p.due, 2), (p.slot, 1), (b.kind, 1), (b.place, 4), (p.seq, 8), (bitN halted, 1), (l.length, 1)] ++ b.ext) ++ b.body))

/-! ### Back from the bytes -/

/-- The vector operation of its entries. -/
def vecOf (l : List (List Byte)) : Option VecOp :=
  let row (o : Nat) : List Nat := l.flatMap (fun b => rowValues ((b.drop o).take 512))
  let marks := l.flatMap (fun b => tab 64 (fun k => cut b (2112 + 2 * k) 2))
  let h := (l.headD []).drop 18
  let n := 64 * cut h 11 1
  let skip := (List.range n).filter (fun k => (marks.getD k 0).testBit 15)
  VecOp.ofBytes h (l.map (fun b => cut b 4 4)) (cut (l.headD []) 2240 64) (((row 576).zip ((row 1088).zip (row 1600))).take n)
    (((row 64).zip (marks.map (fun m => BitVec.ofNat 8 m))).take n) skip

/-- The write that a result's entries hold. -/
def Write.ofEntries (l : List (List Byte)) : Option Write :=
  let b := l.headD []
  let place := cut b 4 4
  let v := cut b 64 512
  let w : Word := BitVec.ofNat 64 v
  let ext := b.drop 18
  let x1 := cut ext 0 1
  let fl : Flags := BitVec.ofNat 8 (cut ext 1 1)
  match cut b 3 1 with
  | 1 => some (if x1 = 1 then .xfp (BitVec.ofNat 6 place) w fl else .x (BitVec.ofNat 6 place) w)
  | 2 => some (if x1 = 1 then .qfp (BitVec.ofNat 4 place) (v % 2 == 1) fl else .q (BitVec.ofNat 4 place) (v % 2 == 1))
  | 3 => some (.qAll (BitVec.ofNat 16 v))
  | 4 => some (.h (BitVec.ofNat 6 place) (BitVec.ofNat 256 v))
  | 5 => some (.ma (BitVec.ofNat 3 place) (BitVec.ofNat 32 v))
  | 6 => some (.stg (BitVec.ofNat 6 place) w)
  | 7 => some (if x1 = 0 then .ctl place w else if place = 0x12 then .seqlen w else if place = 9 then .fp (BitVec.ofNat 8 v) else .patSwitch)
  | 8 => some (.node place w)
  | 9 => some .treeClear
  | 10 => some (.tile (TileOp.ofBytes place ext))
  | 11 => some (if x1 = 0 then .elem (place / 1024) (place % 1024) w
      else .rows (place / 16) (l.flatMap (fun b => rowValues ((b.drop 64).take 512)))
        (if x1 = 2 then some (BitVec.ofNat 6 (cut ext 1 1), BitVec.ofNat 64 (cut ext 2 8)) else none))
  | 12 =>
    let bits := cut ext 6 1
    some (.port place { bound := bits.testBit 0, walk := BitVec.ofNat 256 v, i0 := cut ext 0 2, i1 := cut ext 2 2, i2 := cut ext 4 2, wrap := bits.testBit 1 } (bits.testBit 2))
  | 13 => some (.portStep place v)
  | 14 => some (.portSet place w)
  | 15 => some (.wlWord (place / 16) (place % 16) w)
  | 16 => some (.pattern (place / 64) (place % 64) (BitVec.ofNat 512 v))
  | 17 => some (.claim place v)
  | 18 => some (.release place v)
  | 19 => some (.grant place v (if x1 = 1 then some (cut ext 1 1) else none))
  | 20 => some (.slotOwn place)
  | 21 => some (.slotFree place)
  | 22 => (vecOf l).map .vec
  | _ => none

/-- The results that entries hold, with whether a halt captured each, `n` bounding their number. -/
def resultsOf : Nat → List (List Byte) → List (Bool × Pend)
  | 0, _ => []
  | n + 1, l =>
    let b := l.headD []
    let k := max 1 (cut b 17 1)
    match l, Write.ofEntries (l.take k) with
    | [], _ => []
    | _, some w => (cut b 16 1 == 1, { due := cut b 0 2, seq := cut b 8 8, slot := cut b 2 1, w := w }) :: resultsOf n (l.drop k)
    | _, none => resultsOf n (l.drop k)

/-- Entries of the pending-result area. -/
def areaEntries : Nat := 48

/-- The results for which the area has entries, and those for which it has none. The spec's 48 destinations do not count operations without a
destination and states of ports (01 R42); the model keeps what finds no entry beside the area. -/
def fitEntries : Nat → List (Bool × Pend) → List (Bool × Pend) × List (Bool × Pend)
  | _, [] => ([], [])
  | n, x :: t =>
    let k := x.2.w.bodies.length
    if k ≤ n then ((x :: (fitEntries (n - k) t).1), (fitEntries (n - k) t).2)
    else ((fitEntries n t).1, (x :: (fitEntries n t).2))

/-- Captured results of a core, those of a halt marked. -/
def Core.results (c : Core) : List (Bool × Pend) := c.captured.map (fun p => (false, p)) ++ c.halted.map (fun p => (true, p))

/-! ### Loads that a halt abandoned (13 R353), 64 bytes each -/

/-- Kind of a load with its registers, its bits and what else it needs: kind, first register, second, bits, number, value. -/
def MuKind.fields : MuKind → Nat × Nat × Nat × Nat × Nat × Nat
  | .load d => (1, d.toNat, 0, 0, 0, 0)
  | .loadW d q gone => (2, d.toNat, q.toNat, bitN gone, 0, 0)
  | .loadH d => (3, d.toNat, 0, 0, 0, 0)
  | .atomic k u d cmp => (4, d.toNat, 0, bitN u, k, cmp.toNat)
  | .accres f d len => (5, d.toNat, 0, 0, f, len)
  | .store => (6, 0, 0, 0, 0, 0)
  | .afadd f exact => (7, 0, 0, bitN exact, f, 0)
  | .accrel f d len => (8, d.toNat, 0, 0, f, len)
  | .fence mask scope => (9, 0, 0, 0, scope, mask)
  | .launch => (10, 0, 0, 0, 0, 0)

/-- The kind that these numbers name. -/
def MuKind.ofFields (k d q bits n v : Nat) : Option MuKind :=
  let x : XReg := BitVec.ofNat 6 d
  match k with
  | 1 => some (.load x)
  | 2 => some (.loadW x (BitVec.ofNat 4 q) (bits.testBit 0))
  | 3 => some (.loadH (BitVec.ofNat 6 d))
  | 4 => some (.atomic n (bits.testBit 0) x (BitVec.ofNat 64 v))
  | 5 => some (.accres n x v)
  | 6 => some .store
  | 7 => some (.afadd n (bits.testBit 0))
  | 8 => some (.accrel n x v)
  | 9 => some (.fence v n)
  | 10 => some .launch
  | _ => none

/-- The record of an abandoned load. -/
def MuItem.record (i : MuItem) : List Byte :=
  let k := i.kind.fields
  padTo 64 (packBytes [(k.1, 1), (k.2.1, 1), (k.2.2.1, 1), (k.2.2.2.1 + 2 * bitN i.strong, 1), (i.cls, 1), (i.op, 1), (k.2.2.2.2.1, 1), (0, 1),
    (i.width, 8), (i.va, 8), (i.data, 8), (k.2.2.2.2.2, 8), (i.seq, 8), (i.pcv.toNat, 8)])

/-- The load that a record holds. -/
def heldOf (b : List Byte) : Option MuItem :=
  let width := cut b 8 8
  let va := cut b 16 8
  (MuKind.ofFields (cut b 0 1) (cut b 1 1) (cut b 2 1) (cut b 3 1) (cut b 6 1) (cut b 32 8)).map (fun kind =>
    { seq := cut b 40 8, kind := kind, cls := cut b 4 1, strong := (cut b 3 1).testBit 1, va := va, width := width, phys := [], data := cut b 24 8,
      ready := 0, fwd := none, pcv := BitVec.ofNat 64 (cut b 48 8), op := cut b 5 1, left := accessParts kind va width none, held := true })

/-! ### Answers of object operations (06 R199), 256 bytes each -/

/-- The record of an answered operation; the bundle that sent it has still to issue with it. -/
def ObjOp.record (o : ObjOp) : List Byte :=
  match o.ans with
  | none => List.replicate 256 0
  | some (t, h, x, q) =>
    padTo 256 (packBytes ([(1, 1), (bitN t.isSome, 1), (bitN q, 1), (bitN o.reclaims, 1), (o.seq, 8), (o.pcv.toNat, 8), (((encodeS o.i).getD 0).toNat, 8), (o.h.toNat, 32),
      (o.x.toNat, 8), (h.toNat, 32), (x.toNat, 8)] ++
      (match t with
        | some t => [(t.code, 2), (t.slot, 2), (t.addr.toNat, 8)] ++ t.info.toList.map (fun w => (w.toNat, 8))
        | none => [])))

/-- The operation that a record holds. -/
def objOf (b : List Byte) : Option ObjOp :=
  if cut b 0 1 = 0 then none
  else
    (decodeS (BitVec.ofNat 64 (cut b 20 8))).map (fun i =>
      let t : Trap := { code := cut b 108 2, slot := cut b 110 2, addr := BitVec.ofNat 64 (cut b 112 8),
                        info := Vector.ofFn (fun k => BitVec.ofNat 64 (cut b (120 + 8 * k.val) 8)) }
      { seq := cut b 4 8, pcv := BitVec.ofNat 64 (cut b 12 8), i := i, h := BitVec.ofNat 256 (cut b 28 32), x := BitVec.ofNat 64 (cut b 60 8), due := 0,
        reclaims := cut b 3 1 == 1,
        ans := some (if cut b 1 1 = 1 then some t else none, BitVec.ofNat 256 (cut b 68 32), BitVec.ofNat 64 (cut b 100 8), cut b 2 1 == 1) })

/-! ### The resume record (07 R236) -/

/-- The resume record: a header of 1024 bytes with the issue number, the slot, what the entries of a vector operation have in common, what
was read at issue, the elements that are skipped and the rows' places, and the operands, three of 8 bytes for each element. -/
def Core.resumeBytes (c : Core) : List Byte :=
  match c.resume with
  | some { seq := seq, slot := slot, w := .vec v, .. } =>
    padTo 1024 (padTo 64 (packBytes ([(1, 1), (slot, 1), (seq, 8)] ++ v.fields 0)) ++ leBytes 64 v.aux ++
      leBytes 128 (v.skip.foldl (fun n k => n ||| 2 ^ k) 0) ++ packBytes (tab 16 (fun k => (v.dest.place k, 4)))) ++
      v.ops.flatMap (fun o => leBytes 8 o.1 ++ leBytes 8 o.2.1 ++ leBytes 8 o.2.2)
  | _ => []

/-- The remainder of an operation that a resume record holds; TRET evaluates it afresh. -/
def resumeOf (b : List Byte) : Option Pend :=
  if cut b 0 1 ≠ 1 then none
  else
    let h := b.drop 10
    let n := 64 * cut h 11 1
    let skip := cut b 128 128
    (VecOp.ofBytes h (tab (cut h 11 1) (fun k => cut b (256 + 4 * k) 4)) (cut b 64 64)
      (tab n (fun k => (cut b (1024 + 24 * k) 8, cut b (1032 + 24 * k) 8, cut b (1040 + 24 * k) 8))) [] ((List.range 1024).filter (fun k => skip.testBit k))).map
      (fun v => { due := 0, seq := cut b 2 8, slot := cut b 1 1, w := .vec (v.eval v.mode) })

/-! ### The sump (01 R44) -/

/-- An entry of the sump in 32 bytes: class, operation, width, strength and state, kind, reason of a report, address, parts still to be
replayed, issue number, the value that names its bundle. -/
def Sump.bytes (e : Sump) : List Byte :=
  let k := e.kind.fields
  let bad := e.bad.getD (0, 0)
  padTo 32 (packBytes [(e.cls, 1), (e.op, 1), (e.width, 1), (bitN e.strong + 2 * bitN (!e.left.isEmpty) + 4 * bitN e.bad.isSome + 8 * (k.2.2.2.1 % 2), 1),
    (k.1 + 16 * k.2.2.2.2.1, 1), (bad.1, 1), (bad.2, 1), (e.left.length, 1), (e.va, 8), (e.seq, 8), (e.pcv.toNat, 8)])

/-- The entry that 32 bytes and its data hold; a width of 0 is no entry. -/
def sumpOf (b : List Byte) (data : Nat) : Option Sump :=
  let bits := cut b 3 1
  let va := cut b 8 8
  let width := cut b 2 1
  if width = 0 then none
  else
    (MuKind.ofFields (cut b 4 1 % 16) 0 0 (bits / 8) (cut b 4 1 / 16) 0).map (fun kind =>
      let parts := accessParts kind va width none
      { seq := cut b 16 8, kind := kind, cls := cut b 0 1, op := cut b 1 1, width := width, va := va, data := data, strong := bits.testBit 0,
        bad := if bits.testBit 2 then some (cut b 5 1, cut b 6 1) else none, pcv := BitVec.ofNat 64 (cut b 24 8),
        left := parts.drop (parts.length - cut b 7 1) })

end Sys2Proof.Machine
end

