-- ==== Sys2Proof/Machine/Save.lean ====
section
/-! DEFINITION. The context save area (16 R398 to R400, Table 7). The offsets of the parts are the table's; the places of the items
within a part, which the table does not give, are the model's. Mark: DESIGN CHOICE (log 43). -/

namespace Sys2Proof.Machine

open Sys2Proof

/-! ### Items of fixed places -/

/-- An item of the save area: its offset, its bytes, how a core gives it and how a core takes it. -/
structure SaveItem where
  off  : Nat
  size : Nat
  get  : Core → Nat
  put  : Nat → Core → Core

/-- An item that is a register of the core. -/
def regItem (off size : Nat) (get : Arch → Nat) (put : Nat → Arch → Arch) : SaveItem :=
  { off := off, size := size, get := fun c => get c.r, put := fun v c => { c with r := put v c.r } }

/-- The layout's magic number and version. -/
def saveMagic : Nat := 2 ^ 32 + 0x4B324358

/-- The header: magic, version, program counter, KSTAT, control registers, counters, PRCOUNT; the next issue number, the classes of the
sump that wait for a handler. The table's ENDCYC is CYCLES at the save (16 Table 4). -/
def headerItems : List SaveItem :=
  [{ off := 0, size := 8, get := fun _ => saveMagic, put := fun _ c => c },
   { off := 8, size := 8, get := fun c => c.pc.toNat, put := fun v c => { c with pc := BitVec.ofNat 47 v } },
   regItem 16 8 (fun r => r.kstat.toNat) (fun v r => { r with kstat := BitVec.ofNat 64 v }),
   regItem 24 8 (fun r => r.tcause.toNat) (fun v r => { r with tcause := BitVec.ofNat 64 v }),
   regItem 32 8 (fun r => r.tpc.toNat) (fun v r => { r with tpc := BitVec.ofNat 64 v }),
   regItem 40 8 (fun r => r.taddr.toNat) (fun v r => { r with taddr := BitVec.ofNat 64 v }),
   regItem 80 8 (fun r => r.excmask.toNat) (fun v r => { r with excmask := BitVec.ofNat 64 v }),
   regItem 88 8 (fun r => r.fpstat.toNat) (fun v r => { r with fpstat := BitVec.ofNat 64 v }),
   regItem 96 8 (fun r => r.decstat.toNat) (fun v r => { r with decstat := BitVec.ofNat 64 v }),
   regItem 104 8 (fun r => r.rmode.toNat) (fun v r => { r with rmode := BitVec.ofNat 64 v }),
   regItem 112 8 (fun r => r.seqlen.toNat) (fun v r => { r with seqlen := BitVec.ofNat 64 v }),
   regItem 120 8 (fun r => r.cycles) (fun v r => { r with cycles := v }),
   regItem 128 8 (fun r => r.segcount) (fun v r => { r with segcount := v }),
   regItem 136 8 (fun r => r.rwcount) (fun v r => { r with rwcount := v }),
   regItem 144 8 (fun r => r.scalemiss) (fun v r => { r with scalemiss := v }),
   regItem 152 8 (fun r => r.cycles) (fun _ r => r),
   regItem 160 8 (fun r => r.prcount) (fun v r => { r with prcount := v }),
   regItem 168 8 (fun r => r.freegr) (fun v r => { r with freegr := v }),
   { off := 176, size := 8, get := fun c => c.iss.seq, put := fun v c => { c with iss := { c.iss with seq := v } } },
   { off := 184, size := 2, get := fun c => c.heldCls.foldl (fun n k => n ||| 2 ^ k) 0, put := fun v c => { c with heldCls := bitList 16 v } }] ++
  tab 4 (fun k => regItem (48 + 8 * k) 8 (fun r => (r.tinfo.toList.getD k 0).toNat) (fun v r => { r with tinfo := r.tinfo.setIfInBounds k (BitVec.ofNat 64 v) }))

/-- X, Q, H, MA, SA and SB registers, WPTR0 to WPTR7, PATBANK. -/
def registerItems : List SaveItem :=
  tab 64 (fun k => regItem (0x1000 + 8 * k) 8 (fun r => (r.x.at k).toNat) (fun v r => { r with x := r.x.setAt k (BitVec.ofNat 64 v) })) ++
  tab 64 (fun k => regItem (0x1200 + 8 * k) 8 (fun r => (r.stg.at k).toNat) (fun v r => { r with stg := r.stg.setAt k (BitVec.ofNat 64 v) })) ++
  tab 64 (fun k => regItem (0x1400 + 32 * k) 32 (fun r => (r.h.at k).toNat) (fun v r => { r with h := r.h.setAt k (BitVec.ofNat 256 v) })) ++
  tab 16 (fun k => regItem (0x1C00 + k) 1 (fun r => if r.q.at k then 1 else 0) (fun v r => { r with q := r.q.setAt k (v % 2 == 1) })) ++
  tab 8 (fun k => regItem (0x1C20 + 4 * k) 4 (fun r => (r.ma.at k).toNat) (fun v r => { r with ma := r.ma.setAt k (BitVec.ofNat 32 v) })) ++
  tab 8 (fun k => regItem (0x1C40 + 8 * k) 8 (fun r => r.wptr.toList.getD k 0) (fun v r => { r with wptr := r.wptr.setIfInBounds k v })) ++
  [regItem 0x1C80 1 (fun r => if r.patbank then 1 else 0) (fun v r => { r with patbank := v % 2 == 1 })]

/-- Port state (01 R20), 40 bytes a port. -/
def portItems : List SaveItem :=
  let item (k o size : Nat) (get : Port → Nat) (put : Nat → Port → Port) : SaveItem :=
    { off := 0x1D00 + 40 * k + o, size := size, get := fun c => get (c.ports.toList.getD k {}),
      put := fun v c => { c with ports := c.ports.setIfInBounds k (put v (c.ports.toList.getD k {})) } }
  (List.range 12).flatMap (fun k =>
    [item k 0 32 (fun p => p.walk.toNat) (fun v p => { p with walk := BitVec.ofNat 256 v }),
     item k 32 2 (fun p => p.i0) (fun v p => { p with i0 := v }),
     item k 34 2 (fun p => p.i1) (fun v p => { p with i1 := v }),
     item k 36 2 (fun p => p.i2) (fun v p => { p with i2 := v }),
     item k 38 2 (fun p => (if p.bound then 1 else 0) + (if p.wrap then 2 else 0))
       (fun v p => { p with bound := v.testBit 0, wrap := v.testBit 1 })])

/-- The Windlass: stored and captured words, counters and trip counts, LV, the position as 09 R290 lays it out, and the places it goes on
from. -/
def windlassItems : List SaveItem :=
  let item (o size : Nat) (get : Wl → Nat) (put : Nat → Wl → Wl) : SaveItem :=
    { off := 0x2000 + o, size := size, get := fun c => get c.wl, put := fun v c => { c with wl := put v c.wl } }
  tab 96 (fun k => item (8 * k) 8 (fun w => (w.cfg.get 0 k).toNat) (fun v w => { w with cfg := w.cfg.set 0 k (BitVec.ofNat 64 v) })) ++
  tab 96 (fun k => item (0x300 + 8 * k) 8 (fun w => (w.cap.get 0 k).toNat) (fun v w => { w with cap := w.cap.set 0 k (BitVec.ofNat 64 v) })) ++
  tab 6 (fun k => item (0x600 + 8 * k) 8 (fun w => w.wc.toList.getD k 0) (fun v w => { w with wc := w.wc.setIfInBounds k v })) ++
  tab 6 (fun k => item (0x630 + 8 * k) 8 (fun w => w.trips.toList.getD k 0) (fun v w => { w with trips := w.trips.setIfInBounds k v })) ++
  [item 0x660 8 (fun w => w.lv.toNat) (fun v w => { w with lv := BitVec.ofNat 64 v }),
   item 0x668 8 (fun w => w.entry % 1024 + w.level % 8 * 2 ^ 10 + w.tpl % 4 * 2 ^ 13 + (if w.susp then 2 ^ 15 else 0) + (if w.active then 2 ^ 16 else 0))
     (fun v w => { w with entry := v % 1024, level := v / 2 ^ 10 % 8, tpl := v / 2 ^ 13 % 4, susp := v.testBit 15, active := v.testBit 16 }),
   item 0x670 8 (fun w => w.runIx.toNat) (fun v w => { w with runIx := BitVec.ofNat 47 v }),
   item 0x678 8 (fun w => w.retIx.toNat) (fun v w => { w with retIx := BitVec.ofNat 47 v }),
   item 0x680 2 (fun w => w.depth + (if w.fin then 2 ^ 8 else 0) + (if w.stop then 2 ^ 9 else 0))
     (fun v w => { w with depth := v % 256, fin := v.testBit 8, stop := v.testBit 9 }),
   item 0x688 8 (fun w => match w.look with | some (n, _) => n + 1 | none => 0) (fun v w => { w with look := if v = 0 then none else some (v - 1, 0) }),
   item 0x690 8 (fun w => match w.look with | some (_, v) => v.toNat | none => 0) (fun v w => { w with look := w.look.map (fun p => (p.1, BitVec.ofNat 64 v)) }),
   item 0x698 8 (fun w => match w.seen with | some n => n + 1 | none => 0) (fun v w => { w with seen := if v = 0 then none else some (v - 1) }),
   item 0x6A0 8 (fun w => match w.itile with | some n => n + 1 | none => 0) (fun v w => { w with itile := if v = 0 then none else some (v - 1) })]

/-- A pending fault in 16 bytes and, of a channel, the address: bit 0 of the first says that there is one. -/
def faultItems : List SaveItem :=
  let mat (o : Nat) (get : Nat × Nat × Nat × Nat × Nat → Nat) (put : Nat → Nat × Nat × Nat × Nat × Nat → Nat × Nat × Nat × Nat × Nat) : SaveItem :=
    { off := 0x2800 + o, size := 2, get := fun c => (c.mat.fault.map get).getD 0,
      put := fun v c => { c with mat := { c.mat with fault := c.mat.fault.map (put v) } } }
  let chan (k o size : Nat) (get : PumpFault → Nat) (put : Nat → PumpFault → PumpFault) : SaveItem :=
    { off := 0x2820 + 32 * k + o, size := size, get := fun c => (((c.chans.toList.getD k {}).fault).map get).getD 0,
      put := fun v c => c.modChan k (fun h => { h with fault := h.fault.map (put v) }) }
  [{ off := 0x2800, size := 2, get := fun c => if c.mat.fault.isSome then 1 else 0,
     put := fun v c => { c with mat := { c.mat with fault := if v % 2 = 1 then some (0, 0, 0, 0, 0) else none } } },
   mat 2 (fun f => f.1) (fun v f => (v, f.2)), mat 4 (fun f => f.2.1) (fun v f => (f.1, v, f.2.2)),
   mat 6 (fun f => f.2.2.1) (fun v f => (f.1, f.2.1, v, f.2.2.2)), mat 8 (fun f => f.2.2.2.1) (fun v f => (f.1, f.2.1, f.2.2.1, v, f.2.2.2.2)),
   mat 10 (fun f => f.2.2.2.2) (fun v f => (f.1, f.2.1, f.2.2.1, f.2.2.2.1, v))] ++
  (List.range 8).flatMap (fun k =>
    [{ off := 0x2820 + 32 * k, size := 2, get := fun c => if (c.chans.toList.getD k {}).fault.isSome then 1 else 0,
       put := fun v c => c.modChan k (fun h => { h with fault := if v % 2 = 1 then some { code := 0, addr := 0, reason := 0, op := 0 } else none }) },
     chan k 2 2 (fun f => f.code) (fun v f => { f with code := v }), chan k 4 2 (fun f => f.reason) (fun v f => { f with reason := v }),
     chan k 6 2 (fun f => f.op) (fun v f => { f with op := v }), chan k 8 8 (fun f => f.addr.toNat) (fun v f => { f with addr := BitVec.ofNat 64 v }),
     { off := 0x2820 + 32 * k + 16, size := 1, get := fun c => (c.chans.toList.getD k {}).flags.toNat,
       put := fun v c => c.modChan k (fun h => { h with flags := BitVec.ofNat 8 v }) }])

/-- A slot descriptor from its word (01 Table 12). -/
def Omd.ofWord (v : Nat) : Omd := { clm := v.testBit 11, own := v.testBit 10, exc := v.testBit 9, kind := v / 2 ^ 7 % 4, fmt := v % 32 }

/-- The types of the accumulators, the token-tree file and the slot descriptors (01 Table 12). -/
def arrayItems : List SaveItem :=
  tab 4 (fun k => { off := 0x1C90 + k, size := 1, get := fun c => c.mat.types.toList.getD k 0,
                    put := fun v c => { c with mat := { c.mat with types := c.mat.types.setIfInBounds k v } } }) ++
  tab 256 (fun k => { off := 0x29000 + 8 * k, size := 8, get := fun c => (c.tree.get nodeReset k).toNat,
                      put := fun v c => { c with tree := c.tree.set nodeReset k (BitVec.ofNat 64 v) } }) ++
  tab 64 (fun k => { off := 0x29800 + 8 * k, size := 8, get := fun c => (c.omd.get {} k).word.toNat,
                     put := fun v c => { c with omd := c.omd.set {} k (Omd.ofWord v) } }) ++
  tab 128 (fun k => { off := 0x2A000 + 64 * k, size := 64, get := fun c => (c.pats.get (BitVec.ofNat 512 (packN 8 (List.range 64))) k).toNat,
                      put := fun v c => { c with pats := c.pats.set (BitVec.ofNat 512 (packN 8 (List.range 64))) k (BitVec.ofNat 512 v) } })

/-- The items of fixed places. -/
def saveItems : List SaveItem := headerItems ++ registerItems ++ portItems ++ windlassItems ++ faultItems ++ arrayItems

/-! ### The area's bytes -/

/-- Offsets and bytes, in ascending order. -/
abbrev Cells := Sparse Byte

/-- Bytes from an offset on: those that are not zero. -/
def cellsAt (off : Nat) (bs : List Byte) : Cells :=
  ((List.range bs.length).zip bs).filterMap (fun b => if b.2 = 0 then none else some (off + b.1, b.2))

/-- Bytes of items of a sparse array, `size` bytes each, from an offset on. -/
def sparseCells {α : Type} (base size : Nat) (val : α → Nat) (m : Sparse α) : Cells :=
  m.flatMap (fun e => cellsAt (base + e.1 * size) (leBytes size (val e.2)))

/-- Two lists of cells joined: the second one's come first where both name an offset. -/
def joinCells (a b : Cells) : Cells := b.foldl (fun m e => m.set memDefault e.1 e.2) a

/-- The save area of a core (16 Table 7). -/
def Core.areaCells (c : Core) : Cells :=
  let items := saveItems.foldl (fun m i => joinCells m (cellsAt i.off (leBytes i.size (i.get c)))) ([] : Cells)
  let pend := ((fitEntries areaEntries c.results).1.flatMap (fun x => x.2.entries x.1)).flatten
  (items.filter (fun e => decide (e.1 < 0x4000))) ++ cellsAt 0x4000 pend ++
    cellsAt 0x1F000 (((c.mu.filter (fun i => i.held)).take 48).flatMap MuItem.record) ++ cellsAt 0x1FC00 ((c.hold.obj.take 4).flatMap ObjOp.record) ++
    cellsAt 0x20000 (c.resumeBytes.take 0x8000) ++ cellsAt 0x28000 ((c.sump.take 64).flatMap Sump.bytes) ++
    cellsAt 0x28800 ((c.sump.take 64).flatMap (fun e => leBytes 32 e.data)) ++ (items.filter (fun e => decide (0x4000 ≤ e.1))) ++
    sparseCells 0x2C000 4 BitVec.toNat c.mat.acc ++ sparseCells 0x30000 16 Tile.bits c.tiles ++
    sparseCells 0x40000 8 BitVec.toNat c.om ++ sparseCells 0x80000 8 BitVec.toNat c.sp

/-- Offsets that a save writes: all but the resume record where there is none, and granules outside the core's space. -/
def Core.areaCovers (c : Core) (off : Nat) : Bool :=
  decide (off < 0x20000) || (decide (off < 0x28000) && c.resume.isSome) || decide (0x28000 ≤ off ∧ off < 0x80000 + 128 * granulesOf c.r.l1cfg)

/-- Pages of a save area of 2.5 MiB. -/
def areaPages : Nat := 640

/-- A page of physical memory from an address on written with the cells of a page's offsets that a save covers. -/
def putPage (mem : List Host.Cell) (a off : Nat) (covers : Nat → Bool) (new : Cells) : List Host.Cell :=
  let low := mem.filter (fun e => decide (e.1 < a))
  let mid := mem.filter (fun e => decide (a ≤ e.1 ∧ e.1 < a + 4096) && !covers (off + (e.1 - a)))
  let high := mem.filter (fun e => decide (a + 4096 ≤ e.1))
  low ++ new.foldl (fun m e => Sparse.set memDefault m (a + (e.1 - off)) e.2) mid ++ high

/-- A save area written at a virtual address of a space; a page of it that is not mapped stays unwritten. -/
def State.writeArea (s : State) (asid va : Nat) (c : Core) : State :=
  let cells := c.areaCells
  (List.range areaPages).foldl (fun s p =>
    let off := 4096 * p
    if !c.areaCovers off && !c.areaCovers (off + 4095) then s
    else
      let new := cells.filter (fun e => decide (off ≤ e.1 ∧ e.1 < off + 4096))
      match (s.space asid).xlat none (va + off) 4096 true with
      | .ok [(a, n)] _ _ => { s with mem := putPage s.mem a off c.areaCovers new, unc := s.unc.filter (fun u => !covers [(a, n)] u) }
      | .ok l _ _ =>
        let old := s.readPieces l
        s.storeBytes l (tab 4096 (fun k => if c.areaCovers (off + k) then Sparse.get memDefault new (off + k) else old.getD k 0))
      | .fault _ => s) s

/-- A save area read at a virtual address of a space; a page of it that is not mapped reads as free values. -/
def State.readArea (s : State) (asid va : Nat) : Cells × State :=
  let (seed, s) := s.draw
  ((List.range areaPages).flatMap (fun p =>
    let off := 4096 * p
    match (s.space asid).xlat none (va + off) 4096 false with
    | .ok [(a, _)] _ _ => (s.mem.filter (fun e => decide (a ≤ e.1 ∧ e.1 < a + 4096))).map (fun e => (off + (e.1 - a), e.2))
    | .ok l _ _ => cellsAt off (s.readPieces l)
    | .fault _ => cellsAt off (leBytes 4096 (seed / 2 ^ (8 * off)))), s)

/-! ### A core from its area -/

/-- Items of `size` bytes that cells hold, by their number. -/
def regroup (size : Nat) : Cells → Sparse Nat
  | [] => []
  | (o, b) :: t =>
    let v := b.toNat * 2 ^ (8 * (o % size))
    match regroup size t with
    | (k, w) :: r => if k = o / size then (k, v + w) :: r else (o / size, v) :: (k, w) :: r
    | [] => [(o / size, v)]

/-- Items of `size` bytes in `len` bytes from an offset on. -/
def Cells.items (m : Cells) (off len size : Nat) : Sparse Nat :=
  regroup size ((m.filter (fun e => decide (off ≤ e.1 ∧ e.1 < off + len))).map (fun e => (e.1 - off, e.2)))

/-- What the area has no place for: the context without what the area gives back. -/
def Core.beside (c : Core) : Core :=
  let rest := (fitEntries areaEntries c.results).2
  { c with om := [], sp := [], tree := [], pats := [], omd := [], mat := { c.mat with acc := [] },
           tiles := c.tiles.map (fun e => (e.1, { pass := e.2.pass, gseq := e.2.gseq })),
           captured := (rest.filter (fun x => !x.1)).map (·.2), halted := (rest.filter (fun x => x.1)).map (·.2),
           mu := [], sump := [], resume := none, heldCls := [], hold := {} }

/-- The records that an area holds: captured results, abandoned loads, answers, the resume record, the sump. -/
def Core.takeRecords (c : Core) (m : Cells) : Core :=
  let b (off n : Nat) : List Byte := Sparse.getMany memDefault m off n
  let l := resultsOf areaEntries (tab areaEntries (fun k => b (0x4000 + 2304 * k) 2304))
  { c with captured := (l.filter (fun x => !x.1)).map (·.2) ++ c.captured, halted := (l.filter (fun x => x.1)).map (·.2) ++ c.halted,
           mu := (tab 48 (fun k => heldOf (b (0x1F000 + 64 * k) 64))).filterMap id,
           hold := { c.hold with obj := (tab 4 (fun k => objOf (b (0x1FC00 + 256 * k) 256))).filterMap id },
           resume := resumeOf (b 0x20000 0x8000),
           sump := (tab 64 (fun k => sumpOf (b (0x28000 + 32 * k) 32) (leNat (b (0x28800 + 32 * k) 32)))).filterMap id }

/-- A core restored from its area, beside what the model keeps for it (16 R400). -/
def Core.restore (c : Core) (m : Cells) : Core :=
  let c := (saveItems.foldl (fun c i => i.put (leNat (Sparse.getMany memDefault m i.off i.size)) c) c).takeRecords m
  let tiles := (m.items 0x30000 0x10000 16).foldl (fun (l : Sparse Tile) e =>
    l.set {} e.1 { Tile.ofBits e.2 with pass := (c.tile e.1).pass, gseq := (c.tile e.1).gseq }) []
  { c with tiles := tiles, om := (m.items 0x40000 0x40000 8).map (fun e => (e.1, BitVec.ofNat 64 e.2)),
           sp := (m.items 0x80000 (128 * granulesOf c.r.l1cfg) 8).map (fun e => (e.1, BitVec.ofNat 64 e.2)),
           mat := { c.mat with acc := (m.items 0x2C000 0x4000 4).map (fun e => (e.1, BitVec.ofNat 32 e.2)) } }

end Sys2Proof.Machine
end

