-- ==== Sys2Proof/Machine/Sync.lean ====
section
/-! DEFINITION. Standpipe barriers: arrival, release and restart (05 R164, R165; 10 R313). -/

namespace Sys2Proof.Machine

open Sys2Proof

/-- Does the core take part in barriers: the lead of its task, no other member of a gang and no checker? -/
def Core.leadsTask (c : Core) : Bool := c.task.gpos == 0 && !c.r.chk

/-- The SYNC at which the core has arrived: one whose arrival a rewind has left standing counts before its next one (17 R413, R414). -/
def Core.arrival (c : Core) : Option SyncWait := match c.stood with | some w => some w | none => c.hold.sync

/-- Has the core arrived at a SYNC of a scope? -/
def Core.atSync (c : Core) (now scope : Nat) : Bool :=
  match c.arrival with
  | some w => w.scope == scope && decide (w.arrived ≤ now)
  | none => false

/-- Is the core bound to a task of the job? -/
def Core.runs (c : Core) (job : Nat) : Bool := decide (c.task.phase ≠ .idle) && c.task.job == job

/-- The cores that a well-scope mask names. -/
def namedCores (cid mask : Nat) : List Nat := (bitList 12 mask).map (fun k => cid / 12 * 12 + k)

/-- Busy lead cores of a job that satisfy `p`. -/
def State.leadsOf (s : State) (job : Nat) (p : Nat → Bool) : List Nat :=
  s.busyCores.filter (fun i => p i && (s.coreAt i).task.job == job && (s.coreAt i).leadsTask)

/-- Has every participant of core `cid`'s SYNC arrived? (05 R164, R165) -/
def State.allArrived (s : State) (cid scope mask : Nat) : Bool :=
  let job := (s.coreAt cid).task.job
  let here (i : Nat) : Bool := (s.coreAt i).atSync s.cycle scope
  match scope with
  | 1 => (namedCores cid mask).all (fun i =>
      let c := s.coreAt i
      if c.runs job then !c.leadsTask || here i else c.task.lastJob == some job)
  | 2 => (s.leadsOf job (fun i => dieOf i == dieOf cid && mask.testBit (wellOf i))).all here
  | 3 => (s.leadsOf job (fun _ => true)).all here
  | _ =>
    match s.job job with
    | some j =>
      decide (j.ntasks ≤ j.ended.length + ((s.leadsOf job (fun _ => true)).filter here).length + (j.afar.filter (fun t => !j.ended.contains t)).length)
    | none => false

/-- Does a well-scope mask name a core that is bound to another job, or has never held a task of this one? (05 R164) -/
def State.strangers (s : State) (mask : Nat) : Bool :=
  let job := s.core.task.job
  let held := match s.job job with | some j => j.cores | none => []
  (namedCores s.cid mask).any (fun i =>
    i != s.cid && !(s.coreAt i).runs job && (decide ((s.coreAt i).task.phase ≠ .idle) || !held.contains i))

/-- Does the mask leave the core, or its well, out? -/
def leftOut (cid scope mask : Nat) : Bool :=
  (scope == 1 && !mask.testBit (numOf cid)) || (scope == 2 && !mask.testBit (wellOf cid))

/-- The core arrives once every earlier access of it is performed, three cycles later where it is protected. -/
def State.arrive (s : State) (scope mask : Nat) : State :=
  if s.core.quietBefore s.core.iss.seq 0xFFFF then
    (s.onCore (fun c =>
      { c with hold := { c.hold with sync := some { scope := scope, mask := mask, arrived := s.cycle + c.release, restart := none } } })).wait
  else s.wait

/-- SYNC (05 R164): arrives and holds until the core restarts. A gang's other members and a checker take no part of their
own: the lead has waited for them. Another member of a gang issues it once every earlier access of its own is performed, with its
L1 emptied (10 R313; mark: DESIGN CHOICE, log 53). -/
def execSync (g : Guard) (mask : BitVec 16) (scope : BitVec 3) (s : State) : Out :=
  s.guarded g (fun s =>
    let sc := scope.toNat
    let m := mask.toNat
    if !s.core.leadsTask then
      (if s.core.r.chk then s.replayed 0x71 m [sc] (fun s => s) (fun _ s => s)
      else if s.core.quietBefore s.core.iss.seq 0xFFFF then s.onCore (fun c => { c with l1 := [] })
      else s.wait)
    else if leftOut s.cid sc m then s.trapEnc
    else if sc = 1 ∧ s.strangers m then s.trapPriv
    else
      s.replayed 0x71 m [sc] (fun s =>
        match s.core.hold.sync with
        | some w => if w.go then s else s.wait
        | none => s.arrive sc m) (fun _ s => s))

/-- Cycles from release to restart (05 Table 13). -/
def syncDistance (scope : Nat) : Nat := if scope = 1 then 4 else if scope = 2 then 24 else 96

/-- May core `i` be released now? -/
def State.releasable (s : State) (i : Nat) : Bool :=
  let c := s.coreAt i
  match c.arrival with
  | some w => w.restart.isNone && decide (w.arrived ≤ s.cycle) && s.allArrived i w.scope w.mask
  | none => false

/-- Waiting participants of core `i`'s barrier in its well, ascending: at well scope those that its mask names. -/
def State.wellPeers (s : State) (i scope mask : Nat) : List Nat :=
  s.leadsOf (s.coreAt i).task.job (fun k => k / 12 == i / 12 && (scope != 1 || mask.testBit (numOf k)) && (s.coreAt k).atSync s.cycle scope)

/-- The cycle of a waiting core's arrival. -/
def Core.arrivedAt (c : Core) : Nat := match c.arrival with | some w => w.arrived | none => 0

/-- Cores bound to the task of core `i` by its record. -/
def State.sameTask (s : State) (i : Nat) : List Nat :=
  let t := (s.coreAt i).task
  s.busyCores.filter (fun k => (s.coreAt k).task.die == t.die && (s.coreAt k).task.recIx == t.recIx)

/-- The clock setting of a lead moved by steps of 1.5%, within 12% of nominal, and with it that of its task's other cores (16 R390). -/
def State.stepClock (s : State) (i : Nat) (d : Int) : State :=
  let v := max (-8) (min 8 ((s.coreAt i).clock + d))
  (s.sameTask i).foldl (fun s k => s.putCore k { s.coreAt k with clock := v }) s

/-- The balancing controller of a well acts at a release of well or die scope (16 R390): the last participant to arrive moves
up a step, the first down, within 8 steps of nominal, both or neither; DET and PROT tasks stay nominal. Among cores that
arrive together the lowest number counts as first and as last. -/
def State.balance (s : State) (i scope mask : Nat) : State :=
  let l := s.wellPeers i scope mask
  let fresh := l.all (fun k => match (s.coreAt k).arrival with | some w => w.restart.isNone | none => true)
  let ok := fresh && decide (scope ≤ 2) && !(s.coreAt i).r.det && !(s.coreAt i).r.prot
  let at_ (k : Nat) : Nat := (s.coreAt k).arrivedAt
  let first := l.foldl (fun m k => if at_ k < at_ m then k else m) (l.headD i)
  let last := l.foldl (fun m k => if at_ m < at_ k then k else m) (l.headD i)
  if ok && first != last && decide ((s.coreAt last).clock < 8) && decide (-8 < (s.coreAt first).clock) then
    (s.stepClock last 1).stepClock first (-1)
  else s

/-- Once every task that waits here at a system-scope SYNC of the job has its restart, those on other packages have arrived at none. -/
def State.endAfar (s : State) (job : Nat) : State :=
  let waits (k : Nat) : Bool := match (s.coreAt k).arrival with | some w => w.scope == 4 && w.restart.isNone | none => false
  if (s.leadsOf job (fun _ => true)).any waits then s else s.modJob job (fun j => { j with afar := [] })

/-- SYNC_RELEASE: the last participant of core `i`'s SYNC has arrived; the core restarts at the fixed distance, or at the
second stroke that follows. -/
def execSyncRelease (i : BitVec 9) (s : State) : Out :=
  .next (if s.releasable i.toNat then
    match (s.coreAt i.toNat).arrival with
    | some w =>
      let s := s.balance i.toNat w.scope w.mask
      let c := s.coreAt i.toNat
      let r := if w.scope = 4 then s.stroke + 2 else s.cycle + syncDistance w.scope
      let s := s.putCore i.toNat (if c.stood.isSome then { c with stood := some { w with restart := some r } }
        else { c with hold := { c.hold with sync := some { w with restart := some r } } })
      if w.scope = 4 then s.endAfar c.task.job else s
    | none => s
  else s)

/-- Is the restart of the core's SYNC due? -/
def State.restartDue (s : State) : Bool :=
  match s.core.arrival with
  | some w => !w.go && (match w.restart with
    | some r => if w.scope = 4 then decide (r ≤ s.stroke) else decide (r ≤ s.cycle)
    | none => false)
  | none => false

/-- SYNC_RESTART: the core goes on; its L1 is empty, as after a fence of that scope (05 R163, 13 R341). -/
def execSyncRestart (s : State) : Out :=
  .next (if s.restartDue then
    if s.core.stood.isSome then s.onCore (fun c => { c with stood := none })
    else s.onCore (fun c =>
      { c with l1 := [], hold := { c.hold with sync := c.hold.sync.map (fun w => { w with go := true }) } })
  else s)

end Sys2Proof.Machine
end

