-- ==== Sys2Proof/Machine/Schedule.lean ====
section
/-! DEFINITION. Launch records, jobs, bind records, dispatch, pre-emption, context save and the end of tasks and jobs
(16 R373 to R400, 20 R431, R432). -/

namespace Sys2Proof.Machine

open Sys2Proof

/-! ### Bind records (16 Table 4) -/

/-- A bind record. -/
abbrev Rec := BitVec 512

/-- STATE: 0 EMPTY, 1 READY, 2 RUNNING, 3 HALTING, 4 SAVED, 5 DONE, 6 FAILED, 7 ENDED. -/
def recState (r : Rec) : Nat := fldN r 0 4
/-- RES. -/
def recRes (r : Rec) : Bool := bitAt r 33
/-- PREEMPT. -/
def recPreempt (r : Rec) : Bool := bitAt r 34
/-- CLASS. -/
def recClass (r : Rec) : Nat := fldN r 35 3
/-- PROT. -/
def recProt (r : Rec) : Bool := bitAt r 38
/-- DET. -/
def recDet (r : Rec) : Bool := bitAt r 39
/-- SKEW. -/
def recSkew (r : Rec) : Nat := fldN r 40 4
/-- GSIZE. -/
def recGsize (r : Rec) : Nat := fldN r 44 4
/-- WELL. -/
def recWell (r : Rec) : Nat := fldN r 48 4
/-- CMASK. -/
def recMask (r : Rec) : Nat := fldN r 52 12
/-- ASID. -/
def recAsid (r : Rec) : Nat := fldN r 120 16
/-- JOB. -/
def recJob (r : Rec) : Nat := fldN r 136 32
/-- TASK. -/
def recTask (r : Rec) : Nat := fldN r 168 32
/-- NTASKS. -/
def recNtasks (r : Rec) : Nat := fldN r 200 32
/-- ORDER. -/
def recOrder (r : Rec) : Nat := fldN r 232 32
/-- KID. -/
def recKid (r : Rec) : Nat := fldN r 320 16
/-- ARGVA. -/
def recArg (r : Rec) : Nat := fldN r 336 48
/-- CTXVA. -/
def recCtx (r : Rec) : Nat := fldN r 400 48

/-- A field of a record written. -/
def recPut (r : Rec) (lo n v : Nat) : Rec := setFld r lo (BitVec.ofNat n v)
/-- STATE written. -/
def recSetState (r : Rec) (v : Nat) : Rec := recPut r 0 4 v

/-- The fields that dispatch writes: ENDCYC, HALTNS, ENDPC, DBL, CAUSE, RES. -/
def recOwn : List (Nat × Nat) := [(448, 64), (384, 16), (273, 47), (272, 1), (264, 8), (33, 1)]

/-- Is the record well-formed? (16 R380) -/
def recOk (r : Rec) : Bool :=
  let bits := bitList 12 (recMask r)
  let g := recGsize r
  (if recProt r then g == 1 && (match bits with | [a, b] => a % 2 == 0 && b == a + 1 | _ => false) else bits.length == g) &&
  decide (1 ≤ g ∧ g ≤ 12) && (if g = 1 then recSkew r == 0 else decide (1 ≤ recSkew r ∧ recSkew r ≤ 8)) &&
  fldN r 4 29 == 0 && fldN r 64 56 == 0

/-- A record of a die's slot table. -/
def State.record (s : State) (die ix : Nat) : Rec := s.slots.get 0 (die * 256 + ix)
/-- A record replaced. -/
def State.setRecord (s : State) (die ix : Nat) (r : Rec) : State := { s with slots := s.slots.set 0 (die * 256 + ix) r }

/-- The cores a record names, ascending: gang position is the place in this list, and a pair's leader comes first. -/
def recCores (die : Nat) (r : Rec) : List Nat := (bitList 12 (recMask r)).map (fun k => coreNo die (recWell r) k)

/-- Numbers of the records of a job, whatever their state: (die, index, record). -/
def State.recordsOf (s : State) (job : Nat) : List (Nat × Nat × Rec) :=
  (s.slots.map (fun e => (e.1 / 256, e.1 % 256, e.2))).filter (fun e => recJob e.2.2 == job && recState e.2.2 != 0)

/-! ### The command journal (20 R431, R432) -/

/-- An entry (20 Table 5). -/
def journalEntry (kind queue cause job seq st : Nat) : BitVec 128 :=
  BitVec.ofNat 128 (kind % 256 * 2 ^ 112 + queue % 256 * 2 ^ 104 + cause % 256 * 2 ^ 96 + job % 2 ^ 32 * 2 ^ 64 +
    seq % 2 ^ 48 * 2 ^ 16 + st % 8)

/-- Accepting a command or taking a record: it receives JSEQ, and its entry is written. -/
def State.journal (s : State) (kind queue cause job st : Nat) : Nat × State :=
  let seq := s.host.jseq
  (seq, { s with host := { s.host with jseq := seq + 1, journal := s.host.journal.set 0 (seq % 65536) (journalEntry kind queue cause job seq st) } })

/-- A later state of a command, while its entry still is its own. -/
def State.journalSet (s : State) (seq cause st : Nat) : State :=
  let e := s.host.journal.get 0 (seq % 65536)
  if fldN e 16 48 = seq % 2 ^ 48 then
    { s with host := { s.host with journal := s.host.journal.set 0 (seq % 65536) (setFld (setFld e 96 (BitVec.ofNat 8 cause)) 0 (BitVec.ofNat 3 st)) } }
  else s

/-- The state of a job's launch, which only rises. -/
def State.launchState (s : State) (job cause st : Nat) : State :=
  match s.job job with
  | some j => (match j.seq with
    | some q => if fldN (s.host.journal.get 0 (q % 65536)) 0 3 < st then s.journalSet q cause st else s
    | none => s)
  | none => s

/-! ### Launch records (16 R374 to R377) -/

/-- REASON of a launch record, 0 where it is accepted: the lowest that applies (16 Table 2). `top` is the highest class
permitted, `high` whether classes 6 and 7 are. -/
def State.launchReason (s : State) (asid : Nat) (b : List Byte) (top : Nat) (high : Bool) : Nat :=
  let f (o n : Nat) : Nat := leNat ((b.drop o).take n)
  let kid := f 8 4
  let nt := f 12 4
  let gang := f 24 1
  let skew := f 25 1
  let cls := f 26 1
  let fl := f 27 1
  let mapped (va n : Nat) : Bool := decide (va + n ≤ 2 ^ 48) && (s.readVa asid va n).isSome
  if kid = 0 ∨ 65535 < kid ∨ (s.space asid).kernels.length < kid then 1
  else if nt = 0 ∨ 16777216 < nt then 2
  else if gang = 0 ∨ 12 < gang ∨ (if gang = 1 then skew ≠ 0 else skew = 0 ∨ 8 < skew) then 3
  else if top < cls ∨ (6 ≤ cls ∧ !high) then 4
  else if fl.testBit 1 ∧ (1 < gang ∨ fl.testBit 0) then 5
  else if !mapped (f 16 8) 1 ∨ f 32 8 % 64 ≠ 0 ∨ !mapped (f 32 8) 64 then 6
  else if f 40 24 ≠ 0 ∨ 8 ≤ fl then 7
  else if 4096 ≤ (s.jobs.filter (fun e => !e.2.done)).length then 8
  else 0

/-- The job of an accepted record; its number is the first that no job has had. -/
def jobOf (asid : Nat) (b : List Byte) (queue seq : Option Nat) : Job :=
  let f (o n : Nat) : Nat := leNat ((b.drop o).take n)
  { asid := asid, kid := f 8 4, ntasks := f 12 4, argva := f 16 8, gang := f 24 1, skew := f 25 1, cls := f 26 1, flags := f 27 1,
    wells := f 28 4, jsva := f 32 8, queue := queue, seq := seq }

/-- STATUS as Shogiwald writes it. -/
def statusWord (job reason : Nat) : Nat := if reason = 0 then job * 2 ^ 32 + 1 else reason * 256 + 2

/-- A record taken: journalled, answered in its STATUS by `put`, and made a job where nothing refuses it; the entry of a refused one is
FAILED, and its queue's interrupt follows (20 R431, R432). -/
def State.takeLaunch (s : State) (asid : Nat) (b : List Byte) (top : Nat) (high : Bool) (queue : Option Nat)
    (put : State → List Byte → State) : State :=
  let why := s.launchReason asid b top high
  let job := s.jobs.length
  let (seq, s) := s.journal 1 (queue.getD 255) why (if why = 0 then job else 0) (if why = 0 then 0 else 4)
  let s := put s (leBytes 8 (statusWord job why))
  if why = 0 then { s with jobs := s.jobs ++ [(job, jobOf asid b queue (some seq))] }.writeStatus job
  else { s with host := { s.host with msix := s.host.msix ++ queue.toList } }

/-- What words of BAR2 held before the host overwrote them once published, for words that `p` picks, is forgotten. -/
def State.forgetOld (s : State) (p : Nat → Bool) : State :=
  { s with host := { s.host with old := s.host.old.filter (fun (e : Nat × Word) => !p e.1) } }

/-- A word of BAR2 as Shogiwald reads it: one that the host has overwritten since it was published reads as it stood before a write or
as written (20 R430). -/
def State.bar2Word (s : State) (k : Nat) : Word × State :=
  let l := (s.host.old.filter (fun (e : Nat × Word) => e.1 == k)).map (·.2)
  if l.isEmpty then (s.host.bar2.get 0 k, s)
  else
    let (b, s) := s.draw
    (l.getD (b % (l.length + 1)) (s.host.bar2.get 0 k), s.forgetOld (fun j => j == k))

/-- Bytes of `n` words of BAR2 from word `k`. -/
def State.bar2Bytes (s : State) (k : Nat) : Nat → List Byte × State
  | 0 => ([], s)
  | n + 1 =>
    let (w, s) := s.bar2Word k
    let (l, s) := State.bar2Bytes s (k + 1) n
    (leBytes 8 w.toNat ++ l, s)

/-- A launch queue. -/
def State.lqueue (s : State) (q : Nat) : LQueue := s.host.queues.get {} q
/-- A launch queue replaced. -/
def State.setLqueue (s : State) (q : Nat) (v : LQueue) : State := { s with host := { s.host with queues := s.host.queues.set {} q v } }

/-- LAUNCH_RECORD_TAKEN: Shogiwald takes the next record of a host queue, or of the records a job has posted, reads it, and
accepts or refuses it (16 R375 to R377, 20 R430). -/
def execLaunchRecordTaken (host : Bool) (q : BitVec 32) (s : State) : Out :=
  .next (
    if host then
      let k := q.toNat % 64
      let l := s.lqueue k
      if bitAt l.cfg 63 && !bitAt l.cfg 62 && l.tail != l.head then
        let o := l.base.toNat + 64 * (l.tail.toNat % 2 ^ fldN l.cfg 0 16)
        let put (s : State) (bs : List Byte) : State :=
          { s with host := { s.host with bar2 := s.host.bar2.set 0 (o / 8) (BitVec.ofNat 64 (leNat bs)) } }
        let (b, s) := s.bar2Bytes (o / 8) 8
        let s := s.takeLaunch (fldN l.cfg 20 16) b (fldN l.cfg 16 3) (bitAt l.cfg 19) (some k) put
        s.setLqueue k { s.lqueue k with tail := l.tail + 1 }
      else s
    else
      match s.job q.toNat with
      | some j =>
        (match j.posted with
          | (va, cls) :: t =>
            let s := s.modJob q.toNat (fun j => { j with posted := t })
            (match s.readVa j.asid va 64 with
              | some b => s.takeLaunch j.asid b cls false none (fun s bs => s.writeVa j.asid va bs)
              | none => s)
          | [] => s)
      | none => s)

/-! ### The end of tasks and jobs (16 R378, R379, R381) -/

/-- An address space released with its objects, pages and the windows on it (16 R379); of host memory every page is free that the host
has supplied and no other space uses. -/
def State.releaseSpace (s : State) (asid : Nat) : State :=
  let sp := s.space asid
  let back := (sp.objs.filter (fun e => e.2.state == 1)).flatMap (fun e => sp.placedPages e.1 e.2) ++ sp.moving.map (fun m => (freeIx m.tier m.frame, m.n)) ++
    sp.changes.flatMap (fun c => c.back)
  let s := { s with freePages := back.foldl (fun v (p : Nat × Nat) => Machine.addAt v p.1 p.2) s.freePages }
  let s : State := { (s.dropWells (fun e => e.1 == asid)) with
           saves := s.saves.filter (fun e => e.1.1 != asid),
           spaces := s.spaces.filter (fun e => e.1 != asid), faults := s.faults.filter (fun f => f.asid != asid),
           host := { s.host with bar4 := match s.host.bar4 with | some (a, v) => if a = asid then none else some (a, v) | none => none } }
  { s with freePages := s.freePages.setIfInBounds 2 s.hostFree.length }

/-- The strong references that the loader holds for the objects of a space dropped (04 R127). -/
def State.dropLoaded (s : State) (asid : Nat) : State :=
  let s := (s.space asid).loaded.foldl (fun s x =>
    let o := (s.space asid).objs.get {} x.1
    if o.gen = x.2 ∧ 0 < o.strong then s.dropped asid x.1 o { o with strong := o.strong - 1 } else s) s
  s.modSpace asid (fun sp => { sp with loaded := [] })

/-- A job whose tasks have all ended ends: status, journal and interrupt, ranges, references, and its space with the last
job in it. -/
def State.endJob (s : State) (job : Nat) : State :=
  match s.job job with
  | none => s
  | some j =>
    if j.done ∨ j.ended.length < j.ntasks then s
    else
      let s := (s.modJob job (fun j => { j with done := true })).writeStatus job
      let s := s.launchState job (if j.tfail = 0 then 0 else j.fcause) (if j.tfail = 0 then 3 else 4)
      let s := match j.queue with
        | some q => { s with host := { s.host with msix := s.host.msix ++ [q] } }
        | none => s
      let s := { s with accs := s.accs.filter (fun a => a.job != job) }.settleChanges j.asid
      let s := if j.queue.isSome then s.dropLoaded j.asid else s
      if s.jobs.any (fun e => e.2.asid == j.asid && !e.2.done) then s else s.releaseSpace j.asid

/-- A task's end counted: DONE, or a failure with its cause, flags and pc. -/
def State.countEnd (s : State) (job task : Nat) (failed : Bool) (cause fl pc : Nat) : State :=
  match s.job job with
  | none => s
  | some j =>
    if j.ended.contains task then s
    else
      let j : Job := { j with ended := insN task j.ended }
      let j : Job :=
        if !failed then { j with tdone := j.tdone + 1 }
        else if j.tfail = 0 then { j with tfail := 1, ftask := task, fcause := cause, fflags := fl, fpc := pc }
        else { j with tfail := j.tfail + 1 }
      ((s.modJob job (fun _ => j)).writeStatus job).endJob job

/-- The core's task is ended by firmware, its issue stopped: no save is written, and reports of its sump are discarded. -/
def Core.kill (c : Core) : Core :=
  { c with task := { c.task with phase := .killed, saveAt := none }, heldCls := [], flight := engineWrites c.flight, captured := [],
           resume := none, halted := [], hold := {} }

/-- A core whose task Shogiwald ends: it stops at its next bundle boundary, as a pre-emption would stop it, `wait` cycles from now
where none is on its way; one that has halted is killed, its save abandoned (16 R381). -/
def Core.endBy (c : Core) (now wait : Nat) : Core :=
  let t := { c.task with ended := true }
  match c.task.phase with
  | .saving _ => { c with task := t }.kill
  | .starting | .running => { c with task := { t with preempt := some (t.preempt.getD (now + wait)) } }
  | _ => { c with task := t }

/-- Cycles within which a request of Shogiwald, who runs on die 0, reaches the cores of a die (16 R395). -/
def reachOf (die : Nat) : Nat := if die = 0 then 64 else 256

/-- The save areas of a record: space and address (16 R380). -/
def saveKeys (r : Rec) : List (Nat × Nat) := (List.range (bitList 12 (recMask r)).length).map (fun g => (recAsid r, recCtx r + g * 0x280000))

/-- Shogiwald ends the task of a record: at once where it is READY or SAVED, and where its cores hold it once they are
quiescent (16 R381). Mark: DESIGN CHOICE (log 42): a SAVED record that is ended leaves RES clear, or the next task of the record would
be bound from that save. -/
def State.endRecord (s : State) (die ix : Nat) : State :=
  let r := s.record die ix
  if recState r = 1 ∨ recState r = 4 then
    let (pc, s) := s.draw
    let s := s.setRecord die ix (recPut (recPut (recSetState r 7) 264 8 0xF0) 33 1 0)
    let s := { s with saves := s.saves.filter (fun e => !(saveKeys r).contains e.1) }
    s.countEnd (recJob r) (recTask r) true 0xF0 0 (pc % 2 ^ 47)
  else if recState r = 2 ∨ recState r = 3 then
    let (n, s) := s.drawIn 1 (reachOf die)
    (recCores die r).foldl (fun s i => s.putCore i ((s.coreAt i).endBy s.cycle n)) s
  else s

/-- Every task of a job ended by firmware: those with a record as R381 gives, the others, which are never bound, at once. -/
def State.endTasks (s : State) (job : Nat) : State :=
  let recs := s.recordsOf job
  let s := recs.foldl (fun s e => s.endRecord e.1 e.2.1) s
  match s.job job with
  | some j =>
    if j.done then s
    else
      let held := recs.filter (fun e => decide (recState e.2.2 = 2 ∨ recState e.2.2 = 3))
      ((List.range j.ntasks).filter (fun t => !j.ended.contains t && !held.any (fun e => recTask e.2.2 == t))).foldl
        (fun s t => s.countEnd job t true 0xF0 0 0) s
  | none => s

/-- A task's end, with the end of the job's other tasks where FAILALL is set and this one failed (16 R379). -/
def State.taskEnd (s : State) (job task : Nat) (failed : Bool) (cause fl pc : Nat) : State :=
  let all : Bool := match s.job job with | some j => failed && j.flags.testBit 2 && !j.done | none => false
  let s := s.countEnd job task failed cause fl pc
  if all then (s.modJob job (fun j => { j with flags := j.flags % 4 })).endTasks job else s

/-- Cores of the focused core's task, in gang order. -/
def State.taskCores (s : State) : List Nat :=
  let t := s.core.task
  if t.phase = .idle then [] else recCores t.die (s.record t.die t.recIx)

/-- Has everything the core has sent out come to its end? A load that a halt has abandoned is not sent. (05 R172, 13 R353, 16 R393,
R398) -/
def Core.still (c : Core) (sump : Bool) : Bool :=
  c.chans.toList.all (fun h => h.queue.isEmpty && h.adv.isEmpty) && c.mat.queue.isEmpty && c.mat.outq.isEmpty && c.mat.psRow.isNone &&
  c.mu.all (fun i => i.held) && (!sump || c.sump.isEmpty)

/-- Is a task that has issued HALT, was trapped or ended, at its end on this core? -/
def Core.atEnd (c : Core) : Bool :=
  (match c.task.phase with
    | .ending f _ _ _ => f || c.bcast.isEmpty
    | .killed => true
    | _ => false) && c.still true && c.flight.isEmpty && c.back.isNone

/-- The cause of a fault that is met after HALT: a pending matrix or pump fault (05 R172). -/
def Core.lateCause (c : Core) : Option Nat :=
  match c.mat.fault with
  | some f => some f.1
  | none => c.chans.toList.findSome? (fun h => h.fault.map (·.code))

/-- Fault records no longer wait for accesses of a core whose task has left it; their answers come all the same. -/
def State.forgetFaults (s : State) (cid : Nat) : State :=
  { s with faults := s.faults.map (fun f => { f with who := f.who.filter (fun w => w.1 != cid) }) }

/-- The core without its task: the arrays stay as they are until the next binding. -/
def Core.leave (c : Core) (job : Option Nat) : Core :=
  { c with task := { lastJob := job }, bcast := [], hold := {}, mu := [], sump := [], captured := [], resume := none, halted := [],
           flight := [], sigs := [], sigNow := [], log := [], ckpt := none, segOpen := false, reseg := false, strike := none, back := none, stood := none,
           ranges := [], dets := [], chans := Vector.replicate 8 {} }

/-- May the focused core's task be reported as ended? A pair's last cycles have been compared (17 R409). -/
def State.taskOver (s : State) : Bool :=
  s.core.task.gpos == 0 && !s.core.r.chk && !s.taskCores.isEmpty &&
    s.taskCores.all (fun i => (s.coreAt i).atEnd && (s.coreAt i).sigs.isEmpty && (s.coreAt i).sigNow.isEmpty)

/-- HALT_COMPLETE: everything in flight is done, and the record becomes DONE, FAILED or ENDED (05 R172, 16 R381, R393). -/
def execHaltComplete (s : State) : Out :=
  .next (
    if !s.taskOver then s
    else
      let t := s.core.task
      let r := s.record t.die t.recIx
      let cores := s.taskCores
      let late := cores.findSome? (fun i => (s.coreAt i).lateCause)
      let first := cores.findSome? (fun i => match (s.coreAt i).task.phase with
        | .ending true cause pc dbl => some (cause, pc, dbl)
        | _ => none)
      let killed := cores.any (fun i => (s.coreAt i).task.ended)
      let haltPc := match t.phase with | .ending _ _ pc _ => pc | _ => s.core.pc
      let cyc := s.core.r.cycles
      let (free, s) := s.draw
      let (st, cause, pc, dbl) : Nat × Nat × Nat × Bool :=
        match killed, first, late with
        | true, _, _ => (7, 0xF0, free % 2 ^ 47, false)
        | _, some (c, pc, d), _ => (6, c, pc.toNat, d)
        | _, none, some c => (6, c, haltPc.toNat, false)
        | _, none, none => (5, 0, haltPc.toNat, false)
      let r := recPut (recPut (recPut (recPut (recSetState r st) 264 8 cause) 273 47 pc) 272 1 (if dbl then 1 else 0)) 448 64 cyc
      let s := s.setRecord t.die t.recIx r
      let s := cores.foldl (fun s i => (s.putCore i ((s.coreAt i).leave (some t.job))).forgetFaults i) s
      s.taskEnd t.job t.task (st != 5) cause (if dbl then 1 else 0) pc)

/-! ### Shogiwald's writes to bind records (16 R381) -/

/-- Does the job's launch record allow its tasks the well of a record? (16 R374) -/
def State.wellAllowed (s : State) (die : Nat) (r : Rec) : Bool :=
  match s.job (recJob r) with
  | some j => j.wells == 0 || j.wells.testBit (16 * die + recWell r)
  | none => true

/-- BIND_RECORD_READY: Shogiwald writes the fields that it may write; dispatch ignores the write while the record is READY, RUNNING or
HALTING; a SAVED record keeps its gang size and kind. Mark: DESIGN CHOICE (log 42): a record in a well that the job's launch record
does not allow is no write of Shogiwald's and is ignored. -/
def execBindRecordReady (die : BitVec 1) (ix : BitVec 8) (rec : BitVec 512) (s : State) : Out :=
  let d := die.toNat
  let k := ix.toNat
  let old := s.record d k
  let st := recState old
  let keep (r : Rec) : Rec := recOwn.foldl (fun r f => setFld r f.1 (fld old f.1 f.2)) r
  .next (
    if st = 1 ∨ st = 2 ∨ st = 3 ∨ 8 ≤ st ∨ !s.wellAllowed d rec then s
    else if st = 4 ∧ (recGsize rec ≠ recGsize old ∨ recProt rec ≠ recProt old) then s
    else (s.setRecord d k (recSetState (keep rec) 1)).launchState (recJob rec) 0 1)

/-- A pre-emption request set at this cycle in a RUNNING record: it reaches every core within `reach` cycles (16 R395). -/
def State.request (s : State) (die ix reach : Nat) : State :=
  let r := s.record die ix
  if recState r ≠ 2 then s
  else
    let s := s.setRecord die ix (recPut (recSetState r 3) 34 1 1)
    let (n, s) := s.drawIn 1 reach
    (recCores die r).foldl (fun s i =>
      let c := s.coreAt i
      s.putCore i { c with task := { c.task with preempt := some (c.task.preempt.getD (s.cycle + n)), requested := s.cycle } }) s

/-- PREEMPT_WRITE: Shogiwald sets PREEMPT; every task of a DET job goes with it (16 R381, R388, R395). -/
def execPreemptWrite (die : BitVec 1) (ix : BitVec 8) (s : State) : Out :=
  let r := s.record die.toNat ix.toNat
  .next (if recDet r ∧ recState r = 2 then (s.recordsOf (recJob r)).foldl (fun s e => s.request e.1 e.2.1 (reachOf e.1)) s
    else s.request die.toNat ix.toNat (reachOf die.toNat))

/-- BIND_RECORD_END: Shogiwald writes STATE := ENDED (16 R381). -/
def execBindRecordEnd (die : BitVec 1) (ix : BitVec 8) (s : State) : Out :=
  let r := s.record die.toNat ix.toNat
  let all : Bool := match s.job (recJob r) with
    | some j => decide (recState r = 1 ∨ recState r = 4) && j.flags.testBit 2
    | none => false
  let s := s.endRecord die.toNat ix.toNat
  .next (if all then (s.modJob (recJob r) (fun j => { j with flags := j.flags % 4 })).endTasks (recJob r) else s)

/-! ### Dispatch (16 R382, R383) -/

/-- The records of a die. -/
def State.dieRecords (s : State) (die : Nat) : List (Nat × Rec) :=
  (s.slots.filter (fun e => e.1 / 256 == die)).map (fun e => (e.1 % 256, e.2))

/-- Do two records of a die name a common core? -/
def recShares (a b : Rec) : Bool := recWell a == recWell b && (recMask a &&& recMask b) != 0

/-- Does the record hold its cores: RUNNING or HALTING? -/
def recHolds (r : Rec) : Bool := decide (recState r = 2 ∨ recState r = 3)

/-- The kernel that a record names, where its space holds it. -/
def State.kernelOf (s : State) (r : Rec) : Option KDesc := if recKid r = 0 then none else (s.space (recAsid r)).kernels[recKid r - 1]?

/-- Does dispatch bind this READY record now: well-formed, its kernel loaded, every core free, and no earlier record of its class that
shares a core still READY? Mark: DESIGN CHOICE (log 42): a record whose kernel is not loaded stays READY. -/
def State.bindable (s : State) (die ix : Nat) : Bool :=
  let r := s.record die ix
  let l := s.dieRecords die
  decide (recState r = 1) && recOk r && (s.kernelOf r).isSome && !l.any (fun e => recHolds e.2 && recShares e.2 r) &&
    !l.any (fun e => decide (recState e.2 = 1) && recClass e.2 == recClass r && decide (recOrder e.2 < recOrder r) && recShares e.2 r)

/-- Comes record `a` before `b`: higher class, then lower ORDER? -/
def recBefore (a b : Rec) : Bool :=
  decide (recClass b < recClass a) || (recClass a == recClass b && decide (recOrder a < recOrder b))

/-- The record that dispatch binds next on a die. -/
def State.nextBind (s : State) (die : Nat) : Option Nat :=
  ((s.dieRecords die).filter (fun e => s.bindable die e.1)).foldl (fun m e => match m with
    | none => some e.1
    | some k => if recBefore e.2 (s.record die k) then some e.1 else some k) none

/-- RUNNING records of a lower class whose cores this READY record names, in which dispatch has not set PREEMPT. -/
def State.victimsOf (s : State) (die ix : Nat) : List Nat :=
  let r := s.record die ix
  if recState r = 1 ∧ recOk r then
    ((s.dieRecords die).filter (fun e => decide (recState e.2 = 2) && decide (recClass e.2 < recClass r) && recShares e.2 r)).map (·.1)
  else []

/-- KSTAT as binding leaves it (01 Table 7). -/
def kstatOf (r : Rec) (chk skip : Bool) : Word :=
  let b (x : Bool) (k : Nat) : Nat := if x then 2 ^ k else 0
  BitVec.ofNat 64 (recClass r * 2 ^ 16 + recGsize r * 2 ^ 12 + recSkew r * 2 ^ 8 + b skip 5 + b (recProt r) 4 + b chk 3 + b (recDet r) 2)

/-- What a kernel brings to a core at binding (04 R137). -/
def Core.loadKernel (c : Core) (k : KDesc) : Core :=
  { c with kern := { text := k.text, entry := k.entry, handler := k.handler, l1cfg := k.l1cfg, skip := k.skip, excmask := k.excmask, n := k.dict.length },
           dict := ((List.range k.dict.length).zip k.dict).filter (fun e => decide (e.2 ≠ 0)), rtns := packRoutines 1024 k.rtns }

/-- A core at the start of a task: the values of 01 R12 and R13, KSTAT from the record, the kernel's values, the scratchpad
zero-filled. Every word of its arrays is written, so that none stays uncorrectable (17 R403). -/
def startCore (k : KDesc) (r : Rec) (chk : Bool) : Core :=
  let c := Core.reset.loadKernel k
  let x := ((Arch.reset.x.set 1 (BitVec.ofNat 64 (recTask r))).set 2 (BitVec.ofNat 64 (recArg r))).set 3 (BitVec.ofNat 64 (recNtasks r))
  { c with r := { Arch.reset with x := x, kstat := kstatOf r chk k.skip, excmask := BitVec.ofNat 64 k.excmask &&& 0x1F1F, l1cfg := k.l1cfg,
                                  tasknum := BitVec.ofNat 64 (recTask r), freegr := granulesOf k.l1cfg },
           pc := BitVec.ofNat 47 (k.text + k.entry), free := [(0, granulesOf k.l1cfg)] }

/-- A free map without a run of granules. -/
def cutRun (l : List (Nat × Nat)) (lo hi : Nat) : List (Nat × Nat) :=
  l.flatMap (fun r => [(r.1, min r.2 lo), (max r.1 hi, r.2)].filter (fun x => decide (x.1 < x.2)))

/-- A core from an area beside which the model keeps nothing: its free map is what its tiles leave, and the rows below a tile's WP count
as the ones that its pass has written. -/
def Core.ofArea (k : KDesc) (r : Rec) (m : Cells) : Core :=
  let c := { Core.reset with r := { Arch.reset with l1cfg := k.l1cfg, tasknum := BitVec.ofNat 64 (recTask r) } }.restore m
  { c with tiles := c.tiles.map (fun e => (e.1, { e.2 with pass := 2 ^ e.2.wp - 1 })), free := c.tiles.foldl (fun l e => if e.2.ext = 0 then l else cutRun l e.2.base (e.2.base + e.2.ext)) [(0, granulesOf c.r.l1cfg)] }

/-- A saved context on a new core (16 R400): it goes on where it was saved; the results captured at the halt wait for the
first issue, and the kernel is loaded again. -/
def resumeCore (save : Core) (k : KDesc) : Core :=
  { save.loadKernel k with badWords := [], dictBad := [], lines := [], l1 := [], l1old := [], fences := [], tlb := [], ocache := [], fetch := none,
                           badfetch := none, clock := 0 }

/-- The registers of the new place in a resumed context. -/
def Core.place (c : Core) (t : Task) (ranges : List (Nat × Nat × Nat)) (ready : Nat) : Core :=
  { c with task := t, ranges := ranges, fetch := some (c.pc.toNat / 32, ready), iss := { c.iss with ready := ready, verdict := .ok },
           mat := { c.mat with seqAt := ready } }

/-- Times kept relative in a saved context become cycles again. -/
def Core.rebase (c : Core) (ready : Nat) : Core :=
  { c with wl := { c.wl with look := c.wl.look.map (fun p => (p.1 + ready, p.2)) } }

/-- One core of a record bound. What the core's translation and object caches hold of the space since its last task stays: no rule
empties them at a binding (13 R346, R359). -/
def State.bindOne (s : State) (die ix : Nat) (r : Rec) (k : KDesc) (gpos cid ready : Nat) : State :=
  let old := s.coreAt cid
  let chk := recProt r && gpos == 1
  let cores := recCores die r
  let t : Task :=
    { phase := .starting, die := die, recIx := ix, job := recJob r, asid := recAsid r, task := recTask r, gsize := recGsize r,
      skew := if recProt r then 2 else recSkew r, lead := cores.headD cid, gpos := if recProt r then 0 else gpos,
      lastJob := old.task.lastJob, fresh := true, resumed := recRes r }
  let ranges := match s.job (recJob r) with | some j => j.listed | none => []
  let key := (recAsid r, recCtx r + gpos * 0x280000)
  let (c, s) : Core × State :=
    if recRes r then
      let (m, s) := s.readArea key.1 key.2
      let save := match s.saves.find? (fun e => e.1 == key) with | some (_, c) => c.restore m | none => Core.ofArea k r m
      ((resumeCore save k).rebase ready, s)
    else (startCore k r chk, s)
  let same : Bool := match old.task.lastJob.bind s.job with | some j => j.asid == recAsid r | none => false
  let c := if same then { c with tlb := old.tlb, ocache := old.ocache } else c
  { s with saves := s.saves.filter (fun e => e.1 != key) }.putCore cid (c.place t ranges ready)

/-- Cycles that a binding takes longer: none where the kernel's lines lie in L2, as a free value tells, else a latency of the tier that
holds them (16 R383, 13 R339). -/
def State.kernelLat (s : State) (tier : Nat) : Nat × State :=
  let (b, s) := s.draw
  if b % 2 = 0 then (0, s) else s.drawIn (if tier = 0 then 60 else if tier = 1 then 350 else 4500) (tierLat tier)

/-- DISPATCH_BIND: dispatch considers a READY record: it binds it where its cores are free, else sets PREEMPT in the lower
records it waits for (16 R382, R383, R400). The first bundle issues 3000 cycles later, or later by the latency of a tier. A
restore moves 512 bytes per cycle. -/
def execDispatchBind (die : BitVec 1) (ix : BitVec 8) (s : State) : Out :=
  let d := die.toNat
  let k := ix.toNat
  let r := s.record d k
  .next (
    if s.bindable d k then
      match s.kernelOf r with
      | none => s
      | some kd =>
        let (n, s) := s.kernelLat kd.tier
        let ready := s.cycle + 3000 + n + (if recRes r then 5120 else 0)
        let cores := recCores d r
        let s := s.setRecord d k (recPut (recSetState r 2) 33 1 0)
        let s := (List.range cores.length).foldl (fun s g => s.bindOne d k r kd g (cores.getD g 0) ready) s
        let s := s.modJob (recJob r) (fun j => { j with cores := cores.foldl (fun l i => insN i l) j.cores, npre := j.npre + (if recRes r then 1 else 0) })
        if recRes r then s.writeStatus (recJob r) else s
    else (s.victimsOf d k).foldl (fun s v => s.request d v 64) s)

/-! ### Pre-emption (16 R395 to R399) -/

/-- PREEMPT_ARRIVAL: the request reaches the core, which halts at its next bundle boundary. -/
def execPreemptArrival (s : State) : Out :=
  .next (match s.core.task.preempt with
    | some d =>
      if d ≤ s.cycle then
        s.onCore (fun c =>
          let t := { c.task with preempt := none }
          match c.task.phase with
          | .starting | .running => { c with task := { t with phase := .halting c.task.requested, haltSeq := c.iss.seq, haltAt := s.cycle } }
          | _ => { c with task := t })
      else s
    | none => s)

/-- Does a routine hand over a block that opens a scale window, from where `m` stands, and what is PSMODE at its end? Its words are
followed without their cycles, at most `n` of them; a MIFZ is taken not to jump. -/
def Core.psRun (c : Core) (k : Call) : Nat → Mat → Bool × Bool
  | 0, m => (true, m.psMode)
  | n + 1, m =>
    match (c.storeWord k m.upc).bind decodeU with
    | some (.mmac _ _ _) =>
      let r := c.psRun k n { m with upc := m.upc + 1 }
      (m.psMode || r.1, r.2)
    | some (.mps on) => c.psRun k n { m with upc := m.upc + 1, psMode := on }
    | some (.mloop j fromma ma target count) => c.psRun k n (m.loop (c.wordOf k target) (m.loopCount k.rix fromma ma count) j)
    | some .mend | none => (false, m.psMode)
    | some _ => c.psRun k n { m with upc := m.upc + 1 }

/-- Micro-words that `Core.windowsLeft` follows at the most, of each routine. -/
def wordFuel : Nat := 2 ^ 40

/-- Does one of the routines `l`, which run one after another from where `m` stands, still open a scale window? PSMODE stays from each
to the next. -/
def Core.psLeft (c : Core) : List Call → Mat → Bool
  | [], _ => false
  | k :: t, m =>
    let r := c.psRun k wordFuel m
    r.1 || c.psLeft t { m with queue := t, upc := 1, l0 := 0, l1 := 0, psMode := r.2 }

/-- Does the core's unit hold a routine, accepted before the pre-emption reached the core, with scale windows still to close?
(08 R265) -/
def Core.windowsLeft (c : Core) (now : Nat) : Bool :=
  let l := c.mat.queue.takeWhile (fun k => decide (k.seq < c.task.haltSeq))
  (!(c.mat.running && l.isEmpty) && c.mat.windows.any (fun w => decide (now < w.2))) ||
    c.psLeft l (if c.mat.running then c.mat else { c.mat with upc := 1, l0 := 0, l1 := 0 })

/-- The halt: results in flight are captured with the cycles they have left, behind those that a task halted again before its
first bundle still holds; what holds the bundle is abandoned and pending detections are cancelled (06 R189); answers of object
operations whose bundles handlers of traps stand before are kept (06 R199); a pair drops its
checkpoint, undo buffer and log (16 R395, 17 R416). PRCOUNT counts the loads abandoned too (13 R353). A task that Shogiwald has ended
saves nothing (16 R381). -/
def Core.halt (c : Core) (now : Nat) : Core :=
  let c := c.dropPromo
  let h := c.halted ++ capture now c.flight
  let n := flightCount (c.captured ++ h) + c.heldLoads
  let c : Core :=
    { c with
           dets := [], flight := engineWrites c.flight, halted := h, hold := { obj := c.hold.obj.filter (fun o => o.ans.isSome) }, r := { c.r with prcount := n },
           task := { c.task with phase := .saving now }, ckpt := none, segOpen := false, log := [], undoRows := [], undoEnts := [],
           reseg := false }
  if c.task.ended then c.kill else c

/-- Nanoseconds of cycles at the nominal clock of 2.25 GHz, to the nearest, saturating (16 R380, R387). -/
def nsOf (cycles : Nat) : Nat := min 65535 ((8 * cycles + 9) / 18)

/-- Is a halted core quiescent? (16 R398) -/
def Core.quiescent (c : Core) : Bool :=
  (match c.task.phase with | .saving _ => true | _ => false) && c.still false && c.flight.isEmpty

/-- The clock of a gang in a saved context. -/
def savedClock : Nat := 1000

/-- The context of a core as it is kept, times relative to its halt; bundles of its lead that a member has still to execute keep their
distance from it (16 R386). -/
def Core.context (c : Core) (now : Nat) : Core :=
  let m : Mat := { acc := c.mat.acc, types := c.mat.types, l0 := c.mat.l0, l1 := c.mat.l1, nextA := c.mat.nextA, nextB := c.mat.nextB,
                   curA := c.mat.curA, curB := c.mat.curB, psMode := c.mat.psMode, fault := c.mat.fault }
  { c with lines := [], dictBad := [], fetch := none, badfetch := none, l1 := [], tlb := [], ocache := [], kern := {}, dict := [], rtns := [],
           mat := m, dets := [], sigs := [], sigNow := [], l1old := [], fences := [],
           bcast := c.bcast.map (fun b => { b with at_ := b.at_ + savedClock - c.gclock }),
           wl := { c.wl with look := c.wl.look.map (fun p => (p.1 - now, p.2)) },
           chans := c.chans.map (fun h => { h with last := 0 }), iss := { c.iss with ready := 0, want := [], reps := [], fwd := [] },
           badWords := [], task := {}, clock := 0, gclock := savedClock }

/-- CONTEXT_SAVE: a quiescent core writes its context, 512 bytes per cycle; when every core of the task has written its own
the record becomes SAVED and the cores are free (16 R398, R399). -/
def execContextSave (s : State) : Out :=
  .next (
    let t := s.core.task
    match t.phase, t.saveAt with
    | .saving _, none => if s.core.quiescent then s.onCore (fun c => { c with task := { c.task with saveAt := some (s.cycle + 5120) } }) else s
    | .saving since, some d =>
      let cores := s.taskCores
      let done (i : Nat) : Bool := match (s.coreAt i).task.saveAt with | some x => decide (x ≤ s.cycle) | none => false
      if s.cycle < d ∨ !cores.all done then s
      else
        let r := s.record t.die t.recIx
        let ctx := recCtx r
        let last := cores.foldl (fun m i => match (s.coreAt i).task.phase with | .saving x => max m x | _ => m) since
        let cyc := (s.coreAt t.lead).r.cycles
        let s := (List.range cores.length).foldl (fun (s : State) (g : Nat) =>
          let i := cores.getD g 0
          let c := s.coreAt i
          let now := match c.task.phase with | .saving x => x | _ => since
          let key := (t.asid, ctx + g * 0x280000)
          let s := { s with saves := s.saves.filter (fun (e : (Nat × Nat) × Core) => e.1 != key) ++ [(key, (c.context now).beside)] }
          ((s.writeArea t.asid key.2 (c.context now)).putCore i (c.leave none)).forgetFaults i) s
        let r := recPut (recPut (recPut (recPut (recSetState r 4) 33 1 1) 34 1 0) 384 16 (nsOf (last - t.requested))) 448 64 cyc
        s.setRecord t.die t.recIx r
    | _, _ => s)

/-! ### Strokes (16 R387) -/

/-- STROKE_BOUNDARY. -/
def execStrokeBoundary (s : State) : Out :=
  .next (if s.stklen ≤ s.strokePos then { s with stroke := s.stroke + 1, strokePos := s.strokePos - s.stklen } else s)

end Sys2Proof.Machine
end

