-- ==== Sys2Proof/Machine/Host.lean ====
section
/-! DEFINITION. The host function: registers, mailbox commands, launch queues, resets, drives, attestation, fabric and
thermal events (20 R426 to R439). -/

namespace Sys2Proof.Machine

open Sys2Proof

/-! ### Registers (20 Table 2, Table 3) -/

/-- READY. -/
def State.hostReady (s : State) : Bool := bitAt s.host.status 0
/-- BUSY. -/
def State.mbxBusy (s : State) : Bool := bitAt s.host.mbxstat 0
/-- STATUS with READY replaced. -/
def State.setReady (s : State) (b : Bool) : State :=
  { s with host := { s.host with status := setFld s.host.status 0 (BitVec.ofBool b) } }

/-- A queue's register, by its offset from QBASE. -/
def LQueue.reg (l : LQueue) (off : Nat) : Word :=
  match off with
  | 0 => l.base
  | 8 => l.cfg
  | 16 => l.head
  | 24 => l.tail
  | _ => 0

/-- What the host reads in BAR0 at an offset: a register of 20 Table 2, MBXDB as zero, and zero at every other offset (20 R428). -/
def State.bar0Read (s : State) (off : Nat) : Word :=
  if off = 0 then s.host.status
  else if off = 8 then BitVec.ofNat 64 s.host.jseq
  else if off % 8 ≠ 0 then 0
  else if 0x1000 ≤ off ∧ off < 0x1040 then s.host.mbxcmd.extractLsb' (8 * (off - 0x1000)) 64
  else if 0x1080 ≤ off ∧ off < 0x10C0 then s.host.mbxrsp.extractLsb' (8 * (off - 0x1080)) 64
  else if off = 0x10C0 then s.host.mbxstat
  else if 0x2000 ≤ off ∧ off < 0x2800 then (s.lqueue ((off - 0x2000) / 32)).reg ((off - 0x2000) % 32)
  else 0

/-- A word of MBXCMD written; while READY is 0 the write is discarded (20 R428). -/
def State.writeMbxcmd (s : State) (off : Nat) (v : BitVec 64) : State :=
  if s.hostReady then { s with host := { s.host with mbxcmd := setFld s.host.mbxcmd (8 * off) v } } else s

/-! ### Mailbox commands (20 R429) -/

/-- A command's 64 bytes: the opcode, seven zero bytes, operands (bytes, value) one after another. -/
def packCmd (op : Nat) (l : List (Nat × Nat)) : BitVec 512 :=
  BitVec.ofNat 512 (leNat (leBytes 8 op ++ l.flatMap (fun p => leBytes p.1 p.2)))

/-- How an accepted command stands once Shogiwald has acted: done with a response, or with one whose bytes the spec does
not give, failed, or waiting for a drive. -/
inductive CmdEnd where
  | done (rsp : Option Nat)
  | failed
  | pending
  deriving DecidableEq, Repr

/-- The response written, with BUSY 0: result and sequence number; bytes that the spec does not give are free values. -/
def State.respond (s : State) (rsp : Option Nat) (result seq : Nat) : State :=
  let (v, s) : Nat × State := match rsp with
    | some v => (v, s)
    | none => s.draw
  { s with host := { s.host with mbxrsp := BitVec.ofNat 512 v, mbxstat := BitVec.ofNat 64 (seq % 2 ^ 48 * 2 ^ 16 + result % 256 * 2 ^ 8) } }

/-- An accepted command ends. -/
def State.endCmd (s : State) (seq : Nat) (rsp : Option Nat) (result : Nat) : State :=
  (s.journalSet seq result (if result = 0 then 3 else 4)).respond rsp result seq

/-- A refused command: it is not journalled, and has no sequence number. -/
def State.refuseCmd (s : State) : State :=
  let (q, s) := s.draw
  s.respond none 1 q

/-- A command submitted: MBXCMD written, then the doorbell; discarded while READY is 0 or BUSY is 1. -/
def State.submit (s : State) (op : Nat) (l : List (Nat × Nat)) (ok : State → Bool) (run : Nat → State → State × CmdEnd) : State :=
  if !s.hostReady then s
  else
    let s := { s with host := { s.host with mbxcmd := packCmd op l } }
    if s.mbxBusy then s
    else if !ok s then s.refuseCmd
    else
      let (seq, s) := s.journal 0 op 0 0 0
      match run seq s with
      | (s, .done r) => s.endCmd seq r 0
      | (s, .failed) => s.endCmd seq none 2
      | (s, .pending) => { s with host := { s.host with mbxstat := BitVec.ofNat 64 (seq % 2 ^ 48 * 2 ^ 16 + 1) } }

/-- Does an address space exist? -/
def State.hasSpace (s : State) (asid : Nat) : Bool := s.spaces.any (fun (e : Nat × Space) => e.1 == asid)

/-- The first of `n` numbers from `k` on, modulo 2^16, that names no address space. -/
def State.freeAsid (s : State) : Nat → Nat → Option Nat
  | 0, _ => none
  | n + 1, k => if s.hasSpace (k % 65536) then State.freeAsid s n (k + 1) else some (k % 65536)

/-- ASCREATE: which free number the space receives is Shogiwald's own; MBXRSP holds it in bits 15:0. -/
def execAscreate (s : State) : Out :=
  .next (s.submit 1 [] (fun _ => true) (fun _ s =>
    let (k, s) := s.draw
    match s.freeAsid (min 65536 (s.spaces.length + 1)) k with
    | some a =>
      let (r, s) := s.draw
      ({ s with spaces := s.spaces ++ [(a, {})] }, .done (some (r * 65536 + a)))
    | none => (s, .failed)))

/-- Does a job run in a space? -/
def State.spaceBusy (s : State) (asid : Nat) : Bool := s.jobs.any (fun (e : Nat × Job) => e.2.asid == asid && !e.2.done)

/-- ASDESTROY: refused while a job runs in the space. -/
def execAsdestroy (asid : BitVec 16) (s : State) : Out :=
  let a := asid.toNat
  .next (s.submit 2 [(2, a)] (fun s => !s.spaceBusy a) (fun _ s =>
    if s.hasSpace a then (s.releaseSpace a, .done none) else (s, .failed)))

/-- LOAD: steps 1 to 3 of 04 R136; a step that fails leaves nothing behind. -/
def execLoad (asid : BitVec 16) (va : BitVec 48) (len : BitVec 48) (dst : BitVec 16) (s : State) : Out :=
  .next (s.submit 3 [(2, asid.toNat), (6, va.toNat), (6, len.toNat), (2, dst.toNat)] (fun _ => true) (fun _ s =>
    match if s.hasSpace dst.toNat then s.readVa asid.toNat va.toNat len.toNat else none with
    | none => (s, .failed)
    | some file => match s.loadTof dst.toNat file with
      | some t => (t, .done none)
      | none => (s, .failed)))

/-- One page of a range made valid where it is deferred: its entry is listed, and not valid (04 R129). -/
def State.mapDeferred (s : State) (asid page : Nat) : State :=
  match (s.space asid).ptes.find ((s.space asid).keyFor 4 (page * 4096)) with
  | some e => if pteV e then s else (s.putPte asid 4 (page * 4096) (setFld e 0 1#1)).clearFaults asid page 1
  | none => s

/-- The entry of a page mapped to host memory. -/
def hostLeaf (frame attr : Nat) : BitVec 128 := mkLeaf (attr.testBit 7) (attr / 32 % 4) 2 0 frame (attr % 32) none

/-- Does a reserved target keep a page from being mapped to host memory? (13 R357) -/
def State.holdsPage (s : State) (asid page frame attr : Nat) : Bool :=
  !grants ((s.space asid).standing 4 (page * 4096)) (hostLeaf frame attr) && s.reserved asid page 1

/-- One page of a range mapped to host memory. -/
def State.mapHost (s : State) (asid page frame attr : Nat) : State :=
  let e := hostLeaf frame attr
  let v := page * 4096
  let s := if grants ((s.space asid).standing 4 v) e then s.putPte asid 4 v e else s.changePte asid 4 v e
  s.clearFaults asid page 1

/-- Are none of `n` host bus pages, from `page` on, among those supplied for Shogiwald's use? -/
def State.busFresh (s : State) (page n : Nat) : Bool := !s.host.bus.any (fun r => decide (r.1 < page + n ∧ page < r.1 + r.2))

/-- Host bus pages supplied for Shogiwald's use: they count free in the host tier. -/
def State.supply (s : State) (page n : Nat) : State :=
  { s with freePages := Machine.addAt s.freePages 2 n, host := { s.host with bus := s.host.bus ++ [(page, n)] } }

/-- MAP: kind 0 makes deferred pages of the range valid, 1 maps it to host bus pages, 2 puts the BAR4 window onto it. `attr`
holds FMT in bits 4:0, GEOM in 6:5 and W in 7. Kind 1 fails where a page that it would unmap holds a reserved target (13 R357; mark:
DESIGN CHOICE, log 33). Kind 3 supplies host bus pages for Shogiwald's own use in the host tier, `asid` and `va` unused (mark: DESIGN
CHOICE, log 33); pages supplied so are neither supplied again nor mapped by kind 1. -/
def execMap (kind : BitVec 8) (asid : BitVec 16) (va : BitVec 48) (len : BitVec 48) (bus : BitVec 52) (attr : BitVec 16) (s : State) :
    Out :=
  let a := asid.toNat
  let page := va.toNat / 4096
  let n := ceilDiv len.toNat 4096
  let whole : Bool := va.toNat % 4096 == 0 && decide (va.toNat + len.toNat ≤ 2 ^ 48)
  let fresh (s : State) : Bool := bus.toNat % 4096 == 0 && s.busFresh (bus.toNat / 4096) n
  let ok (s : State) : Bool :=
    match kind.toNat with
    | 1 => s.hasSpace a && whole && fresh s && (Fmt.ofCode (attr.toNat % 32)).isSome && decide (attr.toNat / 32 % 4 ≤ 1)
    | 3 => fresh s && decide (bus.toNat + len.toNat ≤ 2 ^ 52) && !(List.range n).any (fun k => s.hostUsed.contains (bus.toNat / 4096 + k))
    | k => s.hasSpace a && whole && decide (k ≤ 2)
  .next (s.submit 4 [(1, kind.toNat), (2, a), (6, va.toNat), (6, len.toNat), (7, bus.toNat), (2, attr.toNat)] ok (fun _ s =>
    match kind.toNat with
    | 0 => ((List.range n).foldl (fun s k => s.mapDeferred a (page + k)) s, .done none)
    | 1 =>
      if (List.range n).any (fun k => s.holdsPage a (page + k) (bus.toNat / 4096 + k) attr.toNat) then (s, .failed)
      else ((List.range n).foldl (fun s k => s.mapHost a (page + k) (bus.toNat / 4096 + k) attr.toNat) s, .done none)
    | 2 => ({ s with host := { s.host with bar4 := some (a, va.toNat, len.toNat) } }, .done none)
    | _ => (s.supply (bus.toNat / 4096) n, .done none)))

/-- Does a word of BAR2 lie in the ring of 2^`n` records at an offset? -/
def inRing (base n k : Nat) : Bool := decide (base / 8 ≤ k ∧ k < base / 8 + 8 * 2 ^ n)

/-- QCREATE: the queue becomes VALID with both counts zero. A reserved queue is made only at boot, before the first job. -/
def execQcreate (q : BitVec 6) (log : BitVec 5) (cls : BitVec 3) (res : Bool) (asid : BitVec 16) (base : BitVec 26) (s : State) : Out :=
  let n := log.toNat
  let ok (s : State) : Bool := !bitAt (s.lqueue q.toNat).cfg 63 && decide (4 ≤ n ∧ n ≤ 16 ∧ base.toNat % 64 = 0) &&
    decide (base.toNat + 64 * 2 ^ n ≤ 0x03E00000) && (!res || s.jobs.isEmpty) && s.hasSpace asid.toNat
  let cfg : Word := BitVec.ofNat 64 (2 ^ 63 + asid.toNat * 2 ^ 20 + (if res then 2 ^ 19 else 0) + cls.toNat * 2 ^ 16 + n)
  .next (s.submit 5 [(1, q.toNat), (1, n), (1, cls.toNat), (1, if res then 1 else 0), (2, asid.toNat), (4, base.toNat)] ok (fun _ s =>
    ((s.setLqueue q.toNat { base := base.setWidth 64, cfg := cfg, head := 0, tail := 0 }).forgetOld (inRing base.toNat n), .done none)))

/-- QDESTROY: records not yet taken are never taken. -/
def execQdestroy (q : BitVec 6) (s : State) : Out :=
  .next (s.submit 6 [(1, q.toNat)] (fun s => bitAt (s.lqueue q.toNat).cfg 63) (fun _ s =>
    let l := s.lqueue q.toNat
    ((s.setLqueue q.toNat { l with cfg := l.cfg &&& 0x3FFFFFFFFFFFFFFF }).forgetOld (inRing l.base.toNat (fldN l.cfg 0 16)), .done none)))

/-- Pages of an object, `n` from page `k` on, lie within it. -/
def State.inObj (s : State) (asid oid k n : Nat) : Bool :=
  let o := (s.space asid).objs.get {} oid
  o.state == 1 && decide (k + n ≤ o.pages)

/-- DRVREAD: the command waits for its drive (20 R434). -/
def execDrvread (drive : BitVec 1) (lba : BitVec 64) (asid : BitVec 16) (oid : BitVec 32) (page : BitVec 32) (cnt : BitVec 32)
    (s : State) : Out :=
  .next (s.submit 7 [(1, drive.toNat), (8, lba.toNat), (2, asid.toNat), (4, oid.toNat), (4, page.toNat), (4, cnt.toNat)]
    (fun s => s.inObj asid.toNat oid.toNat page.toNat cnt.toNat)
    (fun seq s => ({ s with host := { s.host with drive := some (true, seq, asid.toNat, oid.toNat, page.toNat, cnt.toNat) } }, .pending)))

/-- DRVWRITE: the command waits for its drive; a drive's blocks lie outside the module. -/
def execDrvwrite (drive : BitVec 1) (lba : BitVec 64) (asid : BitVec 16) (oid : BitVec 32) (page : BitVec 32) (cnt : BitVec 32)
    (s : State) : Out :=
  .next (s.submit 8 [(1, drive.toNat), (8, lba.toNat), (2, asid.toNat), (4, oid.toNat), (4, page.toNat), (4, cnt.toNat)]
    (fun s => s.inObj asid.toNat oid.toNat page.toNat cnt.toNat)
    (fun seq s => ({ s with host := { s.host with drive := some (false, seq, asid.toNat, oid.toNat, page.toNat, cnt.toNat) } }, .pending)))

/-- DRIVE_COMPLETION: a read writes every byte of its extent before the journal entry becomes DONE; after an error the
extent's bytes are free values (20 R434). Mark: DESIGN CHOICE (log 35): a read that finds a page of its extent not mapped ends like one
with an error. -/
def execDriveCompletion (ok : Bool) (data : List (BitVec 8)) (s : State) : Out :=
  .next (match s.host.drive with
    | none => s
    | some (rd, seq, asid, oid, page, cnt) =>
      let s := { s with host := { s.host with drive := none } }
      let n := cnt * 4096
      let va := ((s.space asid).objs.get ({} : Obj) oid).base + page * 4096
      let ok : Bool := ok && (!rd || (match (s.space asid).xlat none va n false with | .ok _ _ _ => true | .fault _ => false))
      let (v, s) := s.draw
      let bs := if ok then data.take n ++ leBytes (n - data.length) v else leBytes n v
      let s := if rd then s.writeVa asid va bs else s
      s.endCmd seq none (if ok then 0 else 2))

/-- ATTEST: a report of two pages in device memory: the nonce, the three measurements and the serial of the part, and a fresh
signature, a free value (20 R438). Mark: DESIGN CHOICE (log 35): their order, without gaps, zeros behind them, and a serial of 16 bytes. -/
def execAttest (nonce : BitVec 256) (s : State) : Out :=
  .next (s.submit 9 [(32, nonce.toNat)] (fun _ => true) (fun _ s =>
    let (v, s) := s.draw
    let (r, s) := s.draw
    let a := s.nextFrame * 4096
    let s := { s with nextFrame := s.nextFrame + 2 }
    let bs := leBytes 32 nonce.toNat ++ (List.range 3).flatMap (fun k => leBytes 64 (Config.measurement k)) ++ leBytes 16 Config.serial ++
      leBytes 4627 v ++ leBytes 3325 0
    (s.storeBytes [(a, 8192)] bs, .done (some (r * 2 ^ 64 + a)))))

/-- JOBEND: every task of the job ends as ENDED, CAUSE 0xF0. -/
def execJobend (job : BitVec 32) (s : State) : Out :=
  let j := job.toNat
  .next (s.submit 10 [(4, j)] (fun _ => true) (fun _ s =>
    match s.job j with
    | some x => if x.done then (s, .failed) else (s.endTasks j, .done none)
    | none => (s, .failed)))

/-- MBXDB: writing 1 submits MBXCMD. A known opcode is its command; an unknown opcode, a non-zero byte among bytes 1 to 7, or
an operand that does not fit is refused. -/
def execMbxdb (v : BitVec 64) (s : State) : Out :=
  let c := s.host.mbxcmd
  let f (o n : Nat) : Nat := fldN c (8 * o) (8 * n)
  let b (w o n : Nat) : BitVec w := BitVec.ofNat w (f o n)
  if v ≠ 1 ∨ !s.hostReady ∨ s.mbxBusy then .next s
  else if f 1 7 ≠ 0 then .next s.refuseCmd
  else match f 0 1 with
    | 1 => execAscreate s
    | 2 => execAsdestroy (b 16 8 2) s
    | 3 => execLoad (b 16 8 2) (b 48 10 6) (b 48 16 6) (b 16 22 2) s
    | 4 => if 2 ^ 52 ≤ f 23 7 then .next s.refuseCmd else execMap (b 8 8 1) (b 16 9 2) (b 48 11 6) (b 48 17 6) (b 52 23 7) (b 16 30 2) s
    | 5 => if 64 ≤ f 8 1 ∨ 32 ≤ f 9 1 ∨ 8 ≤ f 10 1 ∨ 2 ≤ f 11 1 ∨ 2 ^ 26 ≤ f 14 4 then .next s.refuseCmd
      else execQcreate (b 6 8 1) (b 5 9 1) (b 3 10 1) (f 11 1 == 1) (b 16 12 2) (b 26 14 4) s
    | 6 => if 64 ≤ f 8 1 then .next s.refuseCmd else execQdestroy (b 6 8 1) s
    | 7 => if 2 ≤ f 8 1 then .next s.refuseCmd else execDrvread (b 1 8 1) (b 64 9 8) (b 16 17 2) (b 32 19 4) (b 32 23 4) (b 32 27 4) s
    | 8 => if 2 ≤ f 8 1 then .next s.refuseCmd else execDrvwrite (b 1 8 1) (b 64 9 8) (b 16 17 2) (b 32 19 4) (b 32 23 4) (b 32 27 4) s
    | 9 => execAttest (b 256 8 32) s
    | 10 => execJobend (b 32 8 4) s
    | _ => .next s.refuseCmd

/-! ### Launch queues (20 R430) -/

/-- QHEAD: a count more than the ring holds above QTAIL, or below it, sets ERR. -/
def execQhead (q : BitVec 6) (v : BitVec 64) (s : State) : Out :=
  .next (
    let l := s.lqueue q.toNat
    if !s.hostReady then s
    else
      let bad : Bool := bitAt l.cfg 63 && decide (2 ^ fldN l.cfg 0 16 < (v - l.tail).toNat)
      s.setLqueue q.toNat { l with head := v, cfg := if bad then l.cfg ||| 0x4000000000000000 else l.cfg })

/-- BAR_REGISTER_WRITE: a word of MBXCMD, the doorbell or a QHEAD; a write at any other offset is ignored (20 R428). -/
def execBarRegisterWrite (off : BitVec 16) (v : BitVec 64) (s : State) : Out :=
  let o := off.toNat
  if 0x1000 ≤ o ∧ o < 0x1040 ∧ o % 8 = 0 then .next (s.writeMbxcmd (o - 0x1000) v)
  else if o = 0x1040 then execMbxdb v s
  else if 0x2000 ≤ o ∧ o < 0x2800 ∧ o % 32 = 16 then execQhead (BitVec.ofNat 6 ((o - 0x2000) / 32)) v s
  else .next s

/-- Is a word of BAR2 part of a record that has been published and not yet taken? -/
def State.published (s : State) (k : Nat) : Bool :=
  s.host.queues.any (fun (e : Nat × LQueue) =>
    let l := e.2
    let n := 2 ^ fldN l.cfg 0 16
    let o := l.base.toNat / 64
    bitAt l.cfg 63 && decide (o ≤ k / 8 ∧ k / 8 < o + n) &&
      decide ((k / 8 - o + n - l.tail.toNat % n) % n < (l.head - l.tail).toNat))

/-- LAUNCH_RING_WRITE: a word of the rings in BAR2; the journal is not the host's to write. A word of a published record may
then be read either way. -/
def execLaunchRingWrite (off : BitVec 26) (v : BitVec 64) (s : State) : Out :=
  let k := off.toNat / 8
  .next (if 0x03E00000 ≤ off.toNat then s
    else
      let before := s.host.bar2.get 0 k
      let old := if s.published k then s.host.old ++ [(k, before)] else s.host.old.filter (fun (e : Nat × Word) => e.1 != k)
      { s with host := { s.host with bar2 := s.host.bar2.set 0 k v, old := old } })

/-! ### The window (20 R427) -/

/-- BAR4_ACCESS: eight bytes of device memory through the window. Mark: DESIGN CHOICE (log 35): a read that meets an uncorrectable word
answers all ones. -/
def execBar4Access (write : Bool) (off : BitVec 36) (v : BitVec 64) (s : State) : Out :=
  let x : Xlat := match s.host.bar4 with
    | some (a, va, len) => if off.toNat + 8 ≤ len then (s.space a).xlat none (va + off.toNat) 8 write else .fault 0
    | none => .fault 0
  .next (match x, write with
    | .ok l _ _, true => s.putBytes l (leBytes 8 v.toNat)
    | .ok l _ _, false =>
      (match s.badWord l with
        | some u => { s with notes := s.notes ++ [(1, u.1)], host := { s.host with bar4read := BitVec.allOnes 64 } }
        | none => { s with host := { s.host with bar4read := BitVec.ofNat 64 (leNat (s.readPieces l)) } })
    | .fault _, true => s
    | .fault _, false => { s with host := { s.host with bar4read := BitVec.allOnes 64 } })

/-! ### Resets (20 R433, R437) -/

/-- The task of a record ended at once, whatever its cores do. -/
def State.forceEnd (s : State) (die ix : Nat) : State :=
  let r := s.record die ix
  if recState r = 2 ∨ recState r = 3 then
    let (pc, s) := s.draw
    let cyc := ((recCores die r).head?.map (fun i => (s.coreAt i).r.cycles)).getD 0
    let s := s.setRecord die ix (recPut (recPut (recPut (recSetState r 7) 264 8 0xF0) 273 47 (pc % 2 ^ 47)) 448 64 cyc)
    let s := (recCores die r).foldl (fun s i => (s.putCore i ((s.coreAt i).leave (some (recJob r)))).forgetFaults i) s
    s.countEnd (recJob r) (recTask r) true 0xF0 0 (pc % 2 ^ 47)
  else s.endRecord die ix

/-- Every job of the module ended as ENDED with CAUSE 0xF0. -/
def State.endAllJobs (s : State) : State :=
  let s := s.slots.foldl (fun (s : State) (e : Nat × BitVec 512) => s.forceEnd (e.1 / 256) (e.1 % 256)) s
  s.jobs.foldl (fun (s : State) (e : Nat × Job) => s.endTasks e.1) s

/-- FUNCTION_LEVEL_RESET: jobs end, spaces and queues go, the journal and the registers are cleared; READY returns within
100 ms, 225000000 cycles. Mark: DESIGN CHOICE (log 36): a device that was not ready, nor on its way to it, stays so. -/
def execFunctionLevelReset (s : State) : Out :=
  let s := s.endAllJobs
  let s := s.spaces.foldl (fun (s : State) (e : Nat × Space) => s.releaseSpace e.1) s
  let (n, s) := s.drawIn 1 225000000
  .next { s with freePages := s.freePages.setIfInBounds 2 0,
                 host := { status := setFld s.host.status 0 0#1, bar2 := s.host.bar2,
                           readyAt := if s.hostReady || s.host.readyAt.isSome then some (s.cycle + n) else none } }

/-- CONVENTIONAL_RESET: the boot sequence. Where every step succeeds, READY is set and this package's device memory holds zeros; memory of
other packages (20 R435) and of the host stays. A failing step writes BOOTERR, and the boot stops there. -/
def execConventionalReset (bootErr : BitVec 8) (fabric : Bool) (s : State) : Out :=
  let ok : Bool := bootErr == 0
  let status : Word := (bootErr.setWidth 64 <<< 8) ||| (if ok then (if fabric then 3 else 1) else 0)
  .next { State.reset with cycle := s.cycle, free := s.free, inputs := s.inputs, fw := s.fw, host := { status := status },
                           mem := if ok then s.mem.filter (fun e => decide (2 ^ 42 ≤ e.1)) else s.mem,
                           unc := if ok then s.unc.filter (fun u => decide (2 ^ 42 ≤ u.1)) else s.unc }

/-! ### Fabric (20 R435, R436) -/

/-- FABRIC_PORT_DOWN: traffic takes other ways, which changes timing only. -/
def execFabricPortDown (port : BitVec 4) (s : State) : Out := .next { s with fabric := s.fabric ||| (1 <<< port.toNat) }

/-- May a job have tasks on other packages: a task that has not ended and has no record here? -/
def State.spread (s : State) (job : Nat) (j : Job) : Bool :=
  !j.done && decide (j.ended.length + (s.recordsOf job).countP (fun e => decide (recState e.2.2 ≤ 4)) < j.ntasks)

/-- Jobs with tasks on other packages, as free values tell, ended. -/
def State.endSpread (s : State) (p : Job → Bool) : State :=
  s.jobs.foldl (fun (s : State) (e : Nat × Job) =>
    if p e.2 && s.spread e.1 e.2 then
      let (b, s) := s.draw
      if b % 2 = 1 then s.endTasks e.1 else s
    else s) s

/-- PACKAGE_UNREACHABLE: a job that has tasks on a package out of reach ends; where a job's other tasks lie is outside this
package's state, so a free value tells. -/
def execPackageUnreachable (pkg : BitVec 10) (s : State) : Out := .next (if pkg = 0 then s else s.endSpread (fun _ => true))

/-- STROKE_DRIFT: a DET job whose packages drift apart ends. -/
def execStrokeDrift (s : State) : Out := .next (s.endSpread (fun j => j.flags.testBit 0))

/-! ### Heat (20 R439) -/

/-- THERMAL_NEAR_LIMIT: the clocks of cores of tasks neither DET nor PROT are lowered by 1 to 8 steps of 1.5 percent, not below -12 percent, with no effect
but on time; if that is not enough, tasks of classes 0 to 5 are pre-empted. -/
def execThermalNearLimit (die : BitVec 1) (preempt : Bool) (s : State) : Out :=
  let d := die.toNat
  .next (
    let (n, s) := s.drawIn 1 8
    let s := s.busyCores.foldl (fun (s : State) (i : Nat) =>
      let c := s.coreAt i
      if c.task.die = d ∧ !bitAt c.r.kstat 2 ∧ !bitAt c.r.kstat 4 then s.putCore i { c with clock := max (-8) (c.clock - (n : Int)) } else s) s
    let s := { s with therm := s.therm ||| (1 <<< d) }
    if preempt then
      (s.dieRecords d).foldl (fun (s : State) (e : Nat × Rec) =>
        if recState e.2 = 2 ∧ recClass e.2 ≤ 5 then
          (if recDet e.2 then (s.recordsOf (recJob e.2)).foldl (fun s x => s.request x.1 x.2.1 (reachOf x.1)) s else s.request d e.1 (reachOf d))
        else s) s
    else s)

/-- THERMAL_ABSOLUTE_LIMIT: every core stops, every job ends, READY is cleared, and does not come back by itself. -/
def execThermalAbsoluteLimit (s : State) : Out :=
  let s := s.endAllJobs
  .next ({ s with therm := s.therm ||| 4, host := { s.host with readyAt := none } }.setReady false)

end Sys2Proof.Machine
end

