-- ==== Sys2Proof/Machine/Integer.lean ====
section
/-! DEFINITION. Integer operations of the S slot (05 R141 to R143): latency 1, the multiplications 3, the divisions
18. -/

namespace Sys2Proof.Machine

open Sys2Proof

/-- An X result computed from the core at issue. -/
def State.aluX (s : State) (g : Guard) (lat : Nat) (d : XReg) (f : Core → Word) : Out :=
  s.guarded g (fun s => s.schedX lat d (f s.core))

/-- The high half of a product (05 Table 1). -/
def mulHigh (p : Int) : Word := BitVec.ofInt 64 (p / (2 ^ 64 : Nat))

/-- Signed quotient truncated toward zero, with the cases of 05 Table 2. -/
def divSigned (a b : Word) : Word := if b = 0 then BitVec.allOnes 64 else a.sdiv b

/-- Unsigned quotient; all ones for a zero divisor. -/
def divUnsigned (a b : Word) : Word := if b = 0 then BitVec.allOnes 64 else a / b

/-- Signed remainder with the dividend's sign; the dividend for a zero divisor. -/
def remSigned (a b : Word) : Word := if b = 0 then a else a.srem b

/-- Unsigned remainder; the dividend for a zero divisor. -/
def remUnsigned (a b : Word) : Word := if b = 0 then a else a % b

/-- Bits of a width code: 0 8, 1 16, 2 32, 3 64 (03 R105). -/
def widthBits (w : BitVec 2) : Nat := 8 * 2 ^ w.toNat

/-- Sign extension of the low 8, 16 or 32 bits. -/
def signExt (w : BitVec 2) (x : Word) : Word := BitVec.ofInt 64 (sgn (widthBits w) x.toNat)

/-- Zero extension of the low 8, 16 or 32 bits. -/
def zeroExt (w : BitVec 2) (x : Word) : Word := BitVec.ofNat 64 (x.toNat % 2 ^ widthBits w)

/-- A shift count: bits 5:0 of X[b]. -/
def shiftCount (x : Word) : Nat := x.toNat % 64

/-- ADD (05 Table 1). -/
def execAdd (g : Guard) (d a b : XReg) (s : State) : Out :=
  s.aluX g 1 d (fun c => c.x a + c.x b)

/-- SUB (05 Table 1). -/
def execSub (g : Guard) (d a b : XReg) (s : State) : Out :=
  s.aluX g 1 d (fun c => c.x a - c.x b)

/-- AND (05 Table 1). -/
def execAnd (g : Guard) (d a b : XReg) (s : State) : Out :=
  s.aluX g 1 d (fun c => c.x a &&& c.x b)

/-- OR (05 Table 1). -/
def execOr (g : Guard) (d a b : XReg) (s : State) : Out :=
  s.aluX g 1 d (fun c => c.x a ||| c.x b)

/-- XOR (05 Table 1). -/
def execXor (g : Guard) (d a b : XReg) (s : State) : Out :=
  s.aluX g 1 d (fun c => c.x a ^^^ c.x b)

/-- SHL (05 Table 1). -/
def execShl (g : Guard) (d a b : XReg) (s : State) : Out :=
  s.aluX g 1 d (fun c => c.x a <<< shiftCount (c.x b))

/-- SHR (05 Table 1). -/
def execShr (g : Guard) (d a b : XReg) (s : State) : Out :=
  s.aluX g 1 d (fun c => c.x a >>> shiftCount (c.x b))

/-- SAR (05 Table 1). -/
def execSar (g : Guard) (d a b : XReg) (s : State) : Out :=
  s.aluX g 1 d (fun c => (c.x a).sshiftRight (shiftCount (c.x b)))

/-- MUL (05 Table 1). -/
def execMul (g : Guard) (d a b : XReg) (s : State) : Out :=
  s.aluX g 3 d (fun c => c.x a * c.x b)

/-- MULH (05 Table 1). -/
def execMulh (g : Guard) (d a b : XReg) (s : State) : Out :=
  s.aluX g 3 d (fun c => mulHigh ((c.x a).toInt * (c.x b).toInt))

/-- MULHU (05 Table 1). -/
def execMulhu (g : Guard) (d a b : XReg) (s : State) : Out :=
  s.aluX g 3 d (fun c => mulHigh ((c.x a).toNat * (c.x b).toNat : Nat))

/-- DIV (05 Table 1). -/
def execDiv (g : Guard) (d a b : XReg) (s : State) : Out :=
  s.aluX g 18 d (fun c => divSigned (c.x a) (c.x b))

/-- DIVU (05 Table 1). -/
def execDivu (g : Guard) (d a b : XReg) (s : State) : Out :=
  s.aluX g 18 d (fun c => divUnsigned (c.x a) (c.x b))

/-- REM (05 Table 1). -/
def execRem (g : Guard) (d a b : XReg) (s : State) : Out :=
  s.aluX g 18 d (fun c => remSigned (c.x a) (c.x b))

/-- REMU (05 Table 1). -/
def execRemu (g : Guard) (d a b : XReg) (s : State) : Out :=
  s.aluX g 18 d (fun c => remUnsigned (c.x a) (c.x b))

/-- MIN (05 Table 1). -/
def execMin (g : Guard) (d a b : XReg) (s : State) : Out :=
  s.aluX g 1 d (fun c => if (c.x a).slt (c.x b) then c.x a else c.x b)

/-- MAX (05 Table 1). -/
def execMax (g : Guard) (d a b : XReg) (s : State) : Out :=
  s.aluX g 1 d (fun c => if (c.x a).slt (c.x b) then c.x b else c.x a)

/-- MINU (05 Table 1). -/
def execMinu (g : Guard) (d a b : XReg) (s : State) : Out :=
  s.aluX g 1 d (fun c => if (c.x a).ult (c.x b) then c.x a else c.x b)

/-- MAXU (05 Table 1). -/
def execMaxu (g : Guard) (d a b : XReg) (s : State) : Out :=
  s.aluX g 1 d (fun c => if (c.x a).ult (c.x b) then c.x b else c.x a)

/-- CLZ. -/
def execClz (g : Guard) (d a : XReg) (s : State) : Out :=
  s.aluX g 1 d (fun c => BitVec.ofNat 64 (clz64 (c.x a)))

/-- POPC. -/
def execPopc (g : Guard) (d a : XReg) (s : State) : Out :=
  s.aluX g 1 d (fun c => BitVec.ofNat 64 (popcount 64 (c.x a).toNat))

/-- SEXT. -/
def execSext (g : Guard) (w : BitVec 2) (d a : XReg) (s : State) : Out :=
  s.aluX g 1 d (fun c => signExt w (c.x a))

/-- ZEXT. -/
def execZext (g : Guard) (w : BitVec 2) (d a : XReg) (s : State) : Out :=
  s.aluX g 1 d (fun c => zeroExt w (c.x a))

/-- ADDI (05 Table 3). -/
def execAddi (g : Guard) (d a : XReg) (imm : BitVec 32) (s : State) : Out :=
  s.aluX g 1 d (fun c => c.x a + sext64 imm)

/-- ANDI (05 Table 3). -/
def execAndi (g : Guard) (d a : XReg) (imm : BitVec 32) (s : State) : Out :=
  s.aluX g 1 d (fun c => c.x a &&& sext64 imm)

/-- ORI (05 Table 3). -/
def execOri (g : Guard) (d a : XReg) (imm : BitVec 32) (s : State) : Out :=
  s.aluX g 1 d (fun c => c.x a ||| sext64 imm)

/-- XORI (05 Table 3). -/
def execXori (g : Guard) (d a : XReg) (imm : BitVec 32) (s : State) : Out :=
  s.aluX g 1 d (fun c => c.x a ^^^ sext64 imm)

/-- SHL with an immediate count. -/
def execShlImm (g : Guard) (d a : XReg) (k : BitVec 6) (s : State) : Out :=
  s.aluX g 1 d (fun c => c.x a <<< k.toNat)

/-- SHR with an immediate count. -/
def execShrImm (g : Guard) (d a : XReg) (k : BitVec 6) (s : State) : Out :=
  s.aluX g 1 d (fun c => c.x a >>> k.toNat)

/-- SAR with an immediate count. -/
def execSarImm (g : Guard) (d a : XReg) (k : BitVec 6) (s : State) : Out :=
  s.aluX g 1 d (fun c => (c.x a).sshiftRight k.toNat)

/-- MOVI. -/
def execMovi (g : Guard) (d : XReg) (imm : BitVec 32) (s : State) : Out :=
  s.aluX g 1 d (fun _ => sext64 imm)

/-- MOVHI: the high half from imm32, the low half from X[a]. -/
def execMovhi (g : Guard) (d a : XReg) (imm : BitVec 32) (s : State) : Out :=
  s.aluX g 1 d (fun c => (imm.setWidth 64 <<< 32) ||| (c.x a &&& 0xFFFFFFFF))

end Sys2Proof.Machine
end

