-- ==== Sys2Proof/Machine/Predicate.lean ====
section
/-! DEFINITION. Compare, predicate and select operations (05 R146 to R149): latency 1. -/

namespace Sys2Proof.Machine

open Sys2Proof

/-- A Q result computed from the core at issue. -/
def State.aluQ (s : State) (g : Guard) (d : QReg) (f : Core → Bool) : Out :=
  s.guarded g (fun s => s.sched 1 (.q d (f s.core)))

/-- All predicates as bits 15:0 (05 Table 7). -/
def Core.qWord (c : Core) : Word := BitVec.ofNat 64 (packN 1 (tab 16 (fun i => if c.q (BitVec.ofNat 4 i) then 1 else 0)))

/-- CMP.eq (05 Table 6). -/
def execCmpEq (g : Guard) (d : QReg) (a b : XReg) (s : State) : Out :=
  s.aluQ g d (fun c => decide (c.x a = (c.x b)))

/-- CMP.ne (05 Table 6). -/
def execCmpNe (g : Guard) (d : QReg) (a b : XReg) (s : State) : Out :=
  s.aluQ g d (fun c => decide (c.x a ≠ (c.x b)))

/-- CMP.lt (05 Table 6). -/
def execCmpLt (g : Guard) (d : QReg) (a b : XReg) (s : State) : Out :=
  s.aluQ g d (fun c => (c.x a).slt (c.x b))

/-- CMP.ge (05 Table 6). -/
def execCmpGe (g : Guard) (d : QReg) (a b : XReg) (s : State) : Out :=
  s.aluQ g d (fun c => !(c.x a).slt (c.x b))

/-- CMP.ltu (05 Table 6). -/
def execCmpLtu (g : Guard) (d : QReg) (a b : XReg) (s : State) : Out :=
  s.aluQ g d (fun c => (c.x a).ult (c.x b))

/-- CMP.geu (05 Table 6). -/
def execCmpGeu (g : Guard) (d : QReg) (a b : XReg) (s : State) : Out :=
  s.aluQ g d (fun c => !(c.x a).ult (c.x b))

/-- CMP.bt (05 Table 6). -/
def execCmpBt (g : Guard) (d : QReg) (a b : XReg) (s : State) : Out :=
  s.aluQ g d (fun c => decide (c.x a &&& (c.x b) ≠ 0))

/-- CMPI.eq. -/
def execCmpiEq (g : Guard) (d : QReg) (a : XReg) (imm : BitVec 32) (s : State) : Out :=
  s.aluQ g d (fun c => decide (c.x a = (sext64 imm)))

/-- CMPI.ne. -/
def execCmpiNe (g : Guard) (d : QReg) (a : XReg) (imm : BitVec 32) (s : State) : Out :=
  s.aluQ g d (fun c => decide (c.x a ≠ (sext64 imm)))

/-- CMPI.lt. -/
def execCmpiLt (g : Guard) (d : QReg) (a : XReg) (imm : BitVec 32) (s : State) : Out :=
  s.aluQ g d (fun c => (c.x a).slt (sext64 imm))

/-- CMPI.ge. -/
def execCmpiGe (g : Guard) (d : QReg) (a : XReg) (imm : BitVec 32) (s : State) : Out :=
  s.aluQ g d (fun c => !(c.x a).slt (sext64 imm))

/-- CMPI.ltu. -/
def execCmpiLtu (g : Guard) (d : QReg) (a : XReg) (imm : BitVec 32) (s : State) : Out :=
  s.aluQ g d (fun c => (c.x a).ult (sext64 imm))

/-- CMPI.geu. -/
def execCmpiGeu (g : Guard) (d : QReg) (a : XReg) (imm : BitVec 32) (s : State) : Out :=
  s.aluQ g d (fun c => !(c.x a).ult (sext64 imm))

/-- CMPI.bt. -/
def execCmpiBt (g : Guard) (d : QReg) (a : XReg) (imm : BitVec 32) (s : State) : Out :=
  s.aluQ g d (fun c => decide (c.x a &&& (sext64 imm) ≠ 0))

/-- PLOG.and (05 R147). -/
def execPlogAnd (g : Guard) (d a b : QReg) (s : State) : Out :=
  s.aluQ g d (fun c => c.q a && c.q b)

/-- PLOG.or (05 R147). -/
def execPlogOr (g : Guard) (d a b : QReg) (s : State) : Out :=
  s.aluQ g d (fun c => c.q a || c.q b)

/-- PLOG.xor (05 R147). -/
def execPlogXor (g : Guard) (d a b : QReg) (s : State) : Out :=
  s.aluQ g d (fun c => c.q a != c.q b)

/-- PLOG.andn (05 R147). -/
def execPlogAndn (g : Guard) (d a b : QReg) (s : State) : Out :=
  s.aluQ g d (fun c => c.q a && !c.q b)

/-- PLOG.orn (05 R147). -/
def execPlogOrn (g : Guard) (d a b : QReg) (s : State) : Out :=
  s.aluQ g d (fun c => c.q a || !c.q b)

/-- PLOG.nand (05 R147). -/
def execPlogNand (g : Guard) (d a b : QReg) (s : State) : Out :=
  s.aluQ g d (fun c => !(c.q a && c.q b))

/-- PLOG.nor (05 R147). -/
def execPlogNor (g : Guard) (d a b : QReg) (s : State) : Out :=
  s.aluQ g d (fun c => !(c.q a || c.q b))

/-- PLOG.xnor (05 R147). -/
def execPlogXnor (g : Guard) (d a b : QReg) (s : State) : Out :=
  s.aluQ g d (fun c => c.q a == c.q b)

/-- SEL: X[a] where Q[q] reads true, else X[b] (05 R148). -/
def execSel (g : Guard) (d a b : XReg) (q : QReg) (s : State) : Out :=
  s.guarded g (fun s => s.schedX 1 d (if s.core.q q then s.core.x a else s.core.x b))

/-- MOVP.get (05 Table 7). -/
def execMovpGet (g : Guard) (d : XReg) (s : State) : Out :=
  s.guarded g (fun s => s.schedX 1 d s.core.qWord)

/-- MOVP.put: Q1 to Q15 from X[a]. -/
def execMovpPut (g : Guard) (a : XReg) (s : State) : Out :=
  s.guarded g (fun s => s.sched 1 (.qAll ((s.core.x a).setWidth 16)))

/-- MOVP.qx. -/
def execMovpQx (g : Guard) (d : XReg) (a : QReg) (s : State) : Out :=
  s.guarded g (fun s => s.schedX 1 d (if s.core.q a then 1 else 0))

/-- MOVP.xq. -/
def execMovpXq (g : Guard) (d : QReg) (a : XReg) (s : State) : Out :=
  s.aluQ g d (fun c => decide (c.x a ≠ 0))

end Sys2Proof.Machine
end

