-- ==== Sys2Proof/Machine/ScalarFp.lean ====
section
/-! DEFINITION. Scalar floating point (05 R144, R145): latency 4, flags sticky in FPSTAT at the visible cycle, no
trap. -/

namespace Sys2Proof.Machine

open Sys2Proof

/-- The format sub bit 0 selects. -/
def scalarFmt (dbl : Bool) : Fmt := if dbl then .fp64 else .fp32

/-- A source in its format: FP32 takes bits 31:0. -/
def Core.fx (c : Core) (dbl : Bool) (a : XReg) : Nat := (c.x a).toNat % 2 ^ (scalarFmt dbl).width

/-- The rounding direction of scalar FP: RMODE.RM (02 R54). -/
def Core.rnd (c : Core) : Rnd := Rnd.ofMode c.r.rm

/-- An X result with flags, written zero-extended. -/
def State.fpX (s : State) (g : Guard) (d : XReg) (f : Core → Res) : Out :=
  s.guarded g (fun s => s.sched 4 (.xfp d (BitVec.ofNat 64 (f s.core).1) (f s.core).2))

/-- A Q result with flags. -/
def State.fpQ (s : State) (g : Guard) (d : QReg) (f : Core → Bool × Flags) : Out :=
  s.guarded g (fun s => s.sched 4 (.qfp d (f s.core).1 (f s.core).2))

/-- FADD (05 Table 4). -/
def execFadd (g : Guard) (dbl : Bool) (d a b : XReg) (s : State) : Out :=
  s.fpX g d (fun c => (scalarFmt dbl).add c.rnd (c.fx dbl a) (c.fx dbl b))

/-- FSUB (05 Table 4). -/
def execFsub (g : Guard) (dbl : Bool) (d a b : XReg) (s : State) : Out :=
  s.fpX g d (fun c => (scalarFmt dbl).sub c.rnd (c.fx dbl a) (c.fx dbl b))

/-- FMUL (05 Table 4). -/
def execFmul (g : Guard) (dbl : Bool) (d a b : XReg) (s : State) : Out :=
  s.fpX g d (fun c => (scalarFmt dbl).mul c.rnd (c.fx dbl a) (c.fx dbl b))

/-- FFMA (05 Table 4). -/
def execFfma (g : Guard) (dbl : Bool) (d a b : XReg) (s : State) : Out :=
  s.fpX g d (fun c => (scalarFmt dbl).fma c.rnd (c.fx dbl a) (c.fx dbl b) (c.fx dbl d))

/-- FMIN (05 Table 4). -/
def execFmin (g : Guard) (dbl : Bool) (d a b : XReg) (s : State) : Out :=
  s.fpX g d (fun c => (scalarFmt dbl).minmax false (c.fx dbl a) (c.fx dbl b))

/-- FMAX (05 Table 4). -/
def execFmax (g : Guard) (dbl : Bool) (d a b : XReg) (s : State) : Out :=
  s.fpX g d (fun c => (scalarFmt dbl).minmax true (c.fx dbl a) (c.fx dbl b))

/-- FCVT.s2d (05 Table 5). -/
def execFcvtS2d (g : Guard) (d a : XReg) (s : State) : Out :=
  s.fpX g d (fun c => Fmt.fp64.ofBin c.rnd false (Fmt.fp32.decode (c.fx false a)))

/-- FCVT.d2s (05 Table 5). -/
def execFcvtD2s (g : Guard) (d a : XReg) (s : State) : Out :=
  s.fpX g d (fun c => Fmt.fp32.ofBin c.rnd false (Fmt.fp64.decode (c.fx true a)))

/-- FCVT.s2l (05 Table 5). -/
def execFcvtS2l (g : Guard) (d a : XReg) (s : State) : Out :=
  s.fpX g d (fun c => Fmt.int64.intOfBin c.rnd (Fmt.fp32.decode (c.fx false a)))

/-- FCVT.d2l (05 Table 5). -/
def execFcvtD2l (g : Guard) (d a : XReg) (s : State) : Out :=
  s.fpX g d (fun c => Fmt.int64.intOfBin c.rnd (Fmt.fp64.decode (c.fx true a)))

/-- FCVT.l2s (05 Table 5). -/
def execFcvtL2s (g : Guard) (d a : XReg) (s : State) : Out :=
  s.fpX g d (fun c => Fmt.fp32.binOfInt c.rnd false (c.x a).toInt)

/-- FCVT.l2d (05 Table 5). -/
def execFcvtL2d (g : Guard) (d a : XReg) (s : State) : Out :=
  s.fpX g d (fun c => Fmt.fp64.binOfInt c.rnd false (c.x a).toInt)

/-- FCMP EQ (05 Table 5). -/
def execFcmpEq (g : Guard) (dbl : Bool) (d : QReg) (a b : XReg) (s : State) : Out :=
  s.fpQ g d (fun c => (scalarFmt dbl).cmpB 0 (c.fx dbl a) (c.fx dbl b))

/-- FCMP LT (05 Table 5). -/
def execFcmpLt (g : Guard) (dbl : Bool) (d : QReg) (a b : XReg) (s : State) : Out :=
  s.fpQ g d (fun c => (scalarFmt dbl).cmpB 2 (c.fx dbl a) (c.fx dbl b))

/-- FCMP LE (05 Table 5). -/
def execFcmpLe (g : Guard) (dbl : Bool) (d : QReg) (a b : XReg) (s : State) : Out :=
  s.fpQ g d (fun c => (scalarFmt dbl).cmpB 3 (c.fx dbl a) (c.fx dbl b))

/-- FCMP UN (05 Table 5). -/
def execFcmpUn (g : Guard) (dbl : Bool) (d : QReg) (a b : XReg) (s : State) : Out :=
  s.fpQ g d (fun c => (scalarFmt dbl).cmpB 6 (c.fx dbl a) (c.fx dbl b))

/-- FCLASS: one bit of X[d], no flag. -/
def execFclass (g : Guard) (dbl : Bool) (d a : XReg) (s : State) : Out :=
  s.fpX g d (fun c => ((scalarFmt dbl).classMask (c.fx dbl a), 0))

end Sys2Proof.Machine
end

