-- ==== Sys2Proof/Machine/Dispatch.lean ====
section
/-! DEFINITION. The meaning of every instruction and event: one arm per constructor, each a direct call. -/

namespace Sys2Proof.Machine

open Sys2Proof

/-- One instruction or event at a state. -/
def exec (i : Instr) (s : State) : Host.Outcome State Fault Refusal :=
  match i with
  | .add g d a b => Sys2Proof.Machine.execAdd g d a b s
  | .sub g d a b => Sys2Proof.Machine.execSub g d a b s
  | .and_ g d a b => Sys2Proof.Machine.execAnd g d a b s
  | .or_ g d a b => Sys2Proof.Machine.execOr g d a b s
  | .xor g d a b => Sys2Proof.Machine.execXor g d a b s
  | .shl g d a b => Sys2Proof.Machine.execShl g d a b s
  | .shr g d a b => Sys2Proof.Machine.execShr g d a b s
  | .sar g d a b => Sys2Proof.Machine.execSar g d a b s
  | .mul g d a b => Sys2Proof.Machine.execMul g d a b s
  | .mulh g d a b => Sys2Proof.Machine.execMulh g d a b s
  | .mulhu g d a b => Sys2Proof.Machine.execMulhu g d a b s
  | .div g d a b => Sys2Proof.Machine.execDiv g d a b s
  | .divu g d a b => Sys2Proof.Machine.execDivu g d a b s
  | .rem g d a b => Sys2Proof.Machine.execRem g d a b s
  | .remu g d a b => Sys2Proof.Machine.execRemu g d a b s
  | .min_ g d a b => Sys2Proof.Machine.execMin g d a b s
  | .max_ g d a b => Sys2Proof.Machine.execMax g d a b s
  | .minu g d a b => Sys2Proof.Machine.execMinu g d a b s
  | .maxu g d a b => Sys2Proof.Machine.execMaxu g d a b s
  | .clz g d a => Sys2Proof.Machine.execClz g d a s
  | .popc g d a => Sys2Proof.Machine.execPopc g d a s
  | .sext g w d a => Sys2Proof.Machine.execSext g w d a s
  | .zext g w d a => Sys2Proof.Machine.execZext g w d a s
  | .addi g d a imm => Sys2Proof.Machine.execAddi g d a imm s
  | .andi g d a imm => Sys2Proof.Machine.execAndi g d a imm s
  | .ori g d a imm => Sys2Proof.Machine.execOri g d a imm s
  | .xori g d a imm => Sys2Proof.Machine.execXori g d a imm s
  | .shlImm g d a k => Sys2Proof.Machine.execShlImm g d a k s
  | .shrImm g d a k => Sys2Proof.Machine.execShrImm g d a k s
  | .sarImm g d a k => Sys2Proof.Machine.execSarImm g d a k s
  | .movi g d imm => Sys2Proof.Machine.execMovi g d imm s
  | .movhi g d a imm => Sys2Proof.Machine.execMovhi g d a imm s
  | .fadd g dbl d a b => Sys2Proof.Machine.execFadd g dbl d a b s
  | .fsub g dbl d a b => Sys2Proof.Machine.execFsub g dbl d a b s
  | .fmul g dbl d a b => Sys2Proof.Machine.execFmul g dbl d a b s
  | .ffma g dbl d a b => Sys2Proof.Machine.execFfma g dbl d a b s
  | .fmin g dbl d a b => Sys2Proof.Machine.execFmin g dbl d a b s
  | .fmax g dbl d a b => Sys2Proof.Machine.execFmax g dbl d a b s
  | .fcvtS2d g d a => Sys2Proof.Machine.execFcvtS2d g d a s
  | .fcvtD2s g d a => Sys2Proof.Machine.execFcvtD2s g d a s
  | .fcvtS2l g d a => Sys2Proof.Machine.execFcvtS2l g d a s
  | .fcvtD2l g d a => Sys2Proof.Machine.execFcvtD2l g d a s
  | .fcvtL2s g d a => Sys2Proof.Machine.execFcvtL2s g d a s
  | .fcvtL2d g d a => Sys2Proof.Machine.execFcvtL2d g d a s
  | .fcmpEq g dbl d a b => Sys2Proof.Machine.execFcmpEq g dbl d a b s
  | .fcmpLt g dbl d a b => Sys2Proof.Machine.execFcmpLt g dbl d a b s
  | .fcmpLe g dbl d a b => Sys2Proof.Machine.execFcmpLe g dbl d a b s
  | .fcmpUn g dbl d a b => Sys2Proof.Machine.execFcmpUn g dbl d a b s
  | .fclass g dbl d a => Sys2Proof.Machine.execFclass g dbl d a s
  | .cmpEq g d a b => Sys2Proof.Machine.execCmpEq g d a b s
  | .cmpNe g d a b => Sys2Proof.Machine.execCmpNe g d a b s
  | .cmpLt g d a b => Sys2Proof.Machine.execCmpLt g d a b s
  | .cmpGe g d a b => Sys2Proof.Machine.execCmpGe g d a b s
  | .cmpLtu g d a b => Sys2Proof.Machine.execCmpLtu g d a b s
  | .cmpGeu g d a b => Sys2Proof.Machine.execCmpGeu g d a b s
  | .cmpBt g d a b => Sys2Proof.Machine.execCmpBt g d a b s
  | .cmpiEq g d a imm => Sys2Proof.Machine.execCmpiEq g d a imm s
  | .cmpiNe g d a imm => Sys2Proof.Machine.execCmpiNe g d a imm s
  | .cmpiLt g d a imm => Sys2Proof.Machine.execCmpiLt g d a imm s
  | .cmpiGe g d a imm => Sys2Proof.Machine.execCmpiGe g d a imm s
  | .cmpiLtu g d a imm => Sys2Proof.Machine.execCmpiLtu g d a imm s
  | .cmpiGeu g d a imm => Sys2Proof.Machine.execCmpiGeu g d a imm s
  | .cmpiBt g d a imm => Sys2Proof.Machine.execCmpiBt g d a imm s
  | .plogAnd g d a b => Sys2Proof.Machine.execPlogAnd g d a b s
  | .plogOr g d a b => Sys2Proof.Machine.execPlogOr g d a b s
  | .plogXor g d a b => Sys2Proof.Machine.execPlogXor g d a b s
  | .plogAndn g d a b => Sys2Proof.Machine.execPlogAndn g d a b s
  | .plogOrn g d a b => Sys2Proof.Machine.execPlogOrn g d a b s
  | .plogNand g d a b => Sys2Proof.Machine.execPlogNand g d a b s
  | .plogNor g d a b => Sys2Proof.Machine.execPlogNor g d a b s
  | .plogXnor g d a b => Sys2Proof.Machine.execPlogXnor g d a b s
  | .sel g d a b q => Sys2Proof.Machine.execSel g d a b q s
  | .movpGet g d => Sys2Proof.Machine.execMovpGet g d s
  | .movpPut g a => Sys2Proof.Machine.execMovpPut g a s
  | .movpQx g d a => Sys2Proof.Machine.execMovpQx g d a s
  | .movpXq g d a => Sys2Proof.Machine.execMovpXq g d a s
  | .br g disp => Sys2Proof.Machine.execBr g disp s
  | .brx g a => Sys2Proof.Machine.execBrx g a s
  | .call g link disp => Sys2Proof.Machine.execCall g link disp s
  | .ret g a => Sys2Proof.Machine.execRet g a s
  | .loop g link disp => Sys2Proof.Machine.execLoop g link disp s
  | .ld g strong w d a cls imm => Sys2Proof.Machine.execLd g strong w d a cls imm s
  | .st g strong w d a cls imm => Sys2Proof.Machine.execSt g strong w d a cls imm s
  | .ldw g strong w hd ha xb xc cls off => Sys2Proof.Machine.execLdw g strong w hd ha xb xc cls off s
  | .ldh g strong hd xb cls off => Sys2Proof.Machine.execLdh g strong hd xb cls off s
  | .sth g strong ha xb cls off => Sys2Proof.Machine.execSth g strong ha xb cls off s
  | .aadd g w64 d a b cls => Sys2Proof.Machine.execAadd g w64 d a b cls s
  | .amax g w64 u d a b cls => Sys2Proof.Machine.execAmax g w64 u d a b cls s
  | .amin g w64 u d a b cls => Sys2Proof.Machine.execAmin g w64 u d a b cls s
  | .axchg g w64 d a b cls => Sys2Proof.Machine.execAxchg g w64 d a b cls s
  | .acas g w64 d a b cls => Sys2Proof.Machine.execAcas g w64 d a b cls s
  | .afadd g f a b cls => Sys2Proof.Machine.execAfadd g f a b cls s
  | .accres g f d a b cls => Sys2Proof.Machine.execAccres g f d a b cls s
  | .accrel g f d a b cls => Sys2Proof.Machine.execAccrel g f d a b cls s
  | .fence g mask scope => Sys2Proof.Machine.execFence g mask scope s
  | .sync g mask scope => Sys2Proof.Machine.execSync g mask scope s
  | .stkwait g d a => Sys2Proof.Machine.execStkwait g d a s
  | .pwait g ch a imm => Sys2Proof.Machine.execPwait g ch a imm s
  | .owait g ha => Sys2Proof.Machine.execOwait g ha s
  | .cread g d num => Sys2Proof.Machine.execCread g d num s
  | .cwrite g a num => Sys2Proof.Machine.execCwrite g a num s
  | .trap g imm => Sys2Proof.Machine.execTrap g imm s
  | .tret g => Sys2Proof.Machine.execTret g s
  | .halt g => Sys2Proof.Machine.execHalt g s
  | .launch g xb => Sys2Proof.Machine.execLaunch g xb s
  | .talloc g ha fmt det keep => Sys2Proof.Machine.execTalloc g ha fmt det keep s
  | .tfree g ha => Sys2Proof.Machine.execTfree g ha s
  | .tsymZero g ha fmt => Sys2Proof.Machine.execTsymZero g ha fmt s
  | .tsymConst g ha xb fmt => Sys2Proof.Machine.execTsymConst g ha xb fmt s
  | .tsymRamp g ha xb fmt rax => Sys2Proof.Machine.execTsymRamp g ha xb fmt rax s
  | .tsymRepeat g hd ha => Sys2Proof.Machine.execTsymRepeat g hd ha s
  | .tprobeLo g hd ha => Sys2Proof.Machine.execTprobeLo g hd ha s
  | .tprobeHi g hd ha => Sys2Proof.Machine.execTprobeHi g hd ha s
  | .tretype g ha fmt => Sys2Proof.Machine.execTretype g ha fmt s
  | .townGive g ha own => Sys2Proof.Machine.execTownGive g ha own s
  | .townTake g ha own => Sys2Proof.Machine.execTownTake g ha own s
  | .tflag g ha det keep wdet wkeep => Sys2Proof.Machine.execTflag g ha det keep wdet wkeep s
  | .tld g hd ha xb ix => Sys2Proof.Machine.execTld g hd ha xb ix s
  | .tst g ha xb xc ix => Sys2Proof.Machine.execTst g ha xb xc ix s
  | .hmov g hd ha => Sys2Proof.Machine.execHmov g hd ha s
  | .hset g hd xb k => Sys2Proof.Machine.execHset g hd xb k s
  | .hget g hd ha k => Sys2Proof.Machine.execHget g hd ha k s
  | .hmkt g hd xb imm => Sys2Proof.Machine.execHmkt g hd xb imm s
  | .hmkw g hd xb xc imm => Sys2Proof.Machine.execHmkw g hd xb xc imm s
  | .hmkv g hd ha xb xc fmt keep => Sys2Proof.Machine.execHmkv g hd ha xb xc fmt keep s
  | .portsetBind g ha port => Sys2Proof.Machine.execPortsetBind g ha port s
  | .portsetClr g port => Sys2Proof.Machine.execPortsetClr g port s
  | .portget g hd xc port => Sys2Proof.Machine.execPortget g hd xc port s
  | .portadvStep g xb port n => Sys2Proof.Machine.execPortadvStep g xb port n s
  | .portadvSet g xb port => Sys2Proof.Machine.execPortadvSet g xb port s
  | .stgPut g d a => Sys2Proof.Machine.execStgPut g d a s
  | .stgGet g d a => Sys2Proof.Machine.execStgGet g d a s
  | .maput g d a => Sys2Proof.Machine.execMaput g d a s
  | .patld g ha r0 e0 n => Sys2Proof.Machine.execPatld g ha r0 e0 n s
  | .patsw g => Sys2Proof.Machine.execPatsw g s
  | .oalloc g hd xb xc prio cow fmt geom tier write => Sys2Proof.Machine.execOalloc g hd xb xc prio cow fmt geom tier write s
  | .oref g hd ha => Sys2Proof.Machine.execOref g hd ha s
  | .odrop g ha => Sys2Proof.Machine.execOdrop g ha s
  | .oweak g hd ha => Sys2Proof.Machine.execOweak g hd ha s
  | .ounweak g ha xc => Sys2Proof.Machine.execOunweak g ha xc s
  | .oupg g hd ha xc => Sys2Proof.Machine.execOupg g hd ha xc s
  | .oprio g ha xc prio => Sys2Proof.Machine.execOprio g ha xc prio s
  | .ostat g hd ha k => Sys2Proof.Machine.execOstat g hd ha k s
  | .ktclr g => Sys2Proof.Machine.execKtclr g s
  | .ktadd g hd xb xc => Sys2Proof.Machine.execKtadd g hd xb xc s
  | .ktset g xb xc => Sys2Proof.Machine.execKtset g xb xc s
  | .ktgetNode g hd xb => Sys2Proof.Machine.execKtgetNode g hd xb s
  | .ktgetDepth g hd xb => Sys2Proof.Machine.execKtgetDepth g hd xb s
  | .ktgetNodes g hd => Sys2Proof.Machine.execKtgetNodes g hd s
  | .ktanc g ha xb xc => Sys2Proof.Machine.execKtanc g ha xb xc s
  | .ktpos g ha xb => Sys2Proof.Machine.execKtpos g ha xb s
  | .ktprune g hd ha xb xc => Sys2Proof.Machine.execKtprune g hd ha xb xc s
  | .wlcfg g xb lv word => Sys2Proof.Machine.execWlcfg g xb lv word s
  | .wltpl g xb xc lv tpl => Sys2Proof.Machine.execWltpl g xb xc lv tpl s
  | .wlrun g lv => Sys2Proof.Machine.execWlrun g lv s
  | .wlstop g => Sys2Proof.Machine.execWlstop g s
  | .wlstat g hd lv item => Sys2Proof.Machine.execWlstat g hd lv item s
  | .setseq g xb => Sys2Proof.Machine.execSetseq g xb s
  | .vadd v => Sys2Proof.Machine.execVadd v s
  | .vsub v => Sys2Proof.Machine.execVsub v s
  | .vmul v => Sys2Proof.Machine.execVmul v s
  | .vfma v => Sys2Proof.Machine.execVfma v s
  | .vfms v => Sys2Proof.Machine.execVfms v s
  | .vmin v => Sys2Proof.Machine.execVmin v s
  | .vmax v => Sys2Proof.Machine.execVmax v s
  | .vabs v => Sys2Proof.Machine.execVabs v s
  | .vneg v => Sys2Proof.Machine.execVneg v s
  | .vand v => Sys2Proof.Machine.execVand v s
  | .vor v => Sys2Proof.Machine.execVor v s
  | .vxor v => Sys2Proof.Machine.execVxor v s
  | .vnot v => Sys2Proof.Machine.execVnot v s
  | .vshl v => Sys2Proof.Machine.execVshl v s
  | .vshr v => Sys2Proof.Machine.execVshr v s
  | .vsar v => Sys2Proof.Machine.execVsar v s
  | .vcmp v => Sys2Proof.Machine.execVcmp v s
  | .vsel v => Sys2Proof.Machine.execVsel v s
  | .vmsk v => Sys2Proof.Machine.execVmsk v s
  | .vcvt v => Sys2Proof.Machine.execVcvt v s
  | .vclamp v => Sys2Proof.Machine.execVclamp v s
  | .vmov v => Sys2Proof.Machine.execVmov v s
  | .vsplat v => Sys2Proof.Machine.execVsplat v s
  | .viota v => Sys2Proof.Machine.execViota v s
  | .vexp v => Sys2Proof.Machine.execVexp v s
  | .vexpq v => Sys2Proof.Machine.execVexpq v s
  | .vlog2 v => Sys2Proof.Machine.execVlog2 v s
  | .vrcp v => Sys2Proof.Machine.execVrcp v s
  | .vrsq v => Sys2Proof.Machine.execVrsq v s
  | .vrefineRcp v => Sys2Proof.Machine.execVrefineRcp v s
  | .vrefineRsq v => Sys2Proof.Machine.execVrefineRsq v s
  | .vrrot v => Sys2Proof.Machine.execVrrot v s
  | .vcrot v => Sys2Proof.Machine.execVcrot v s
  | .vrbc v => Sys2Proof.Machine.execVrbc v s
  | .vcbc v => Sys2Proof.Machine.execVcbc v s
  | .vrred v => Sys2Proof.Machine.execVrred v s
  | .vcred v => Sys2Proof.Machine.execVcred v s
  | .vrscan v => Sys2Proof.Machine.execVrscan v s
  | .vshuf v => Sys2Proof.Machine.execVshuf v s
  | .vscale v => Sys2Proof.Machine.execVscale v s
  | .dadd v => Sys2Proof.Machine.execDadd v s
  | .dsub v => Sys2Proof.Machine.execDsub v s
  | .dmul v => Sys2Proof.Machine.execDmul v s
  | .dfma v => Sys2Proof.Machine.execDfma v s
  | .dquant v => Sys2Proof.Machine.execDquant v s
  | .drnd v => Sys2Proof.Machine.execDrnd v s
  | .dcmp v => Sys2Proof.Machine.execDcmp v s
  | .dcvtTo v => Sys2Proof.Machine.execDcvtTo v s
  | .dcvtFrom v => Sys2Proof.Machine.execDcvtFrom v s
  | .mcall g rix ovm ov tag => Sys2Proof.Machine.execMcall g rix ovm ov tag s
  | .mclaim g slot cnt => Sys2Proof.Machine.execMclaim g slot cnt s
  | .mrel g slot cnt => Sys2Proof.Machine.execMrel g slot cnt s
  | .mwait g k t => Sys2Proof.Machine.execMwait g k t s
  | .pcopy p => Sys2Proof.Machine.execPcopy p s
  | .pgatherList p => Sys2Proof.Machine.execPgatherList p s
  | .pgatherPairs p => Sys2Proof.Machine.execPgatherPairs p s
  | .pscatter p => Sys2Proof.Machine.execPscatter p s
  | .preduce p => Sys2Proof.Machine.execPreduce p s
  | .pbcast p => Sys2Proof.Machine.execPbcast p s
  | .pfill p => Sys2Proof.Machine.execPfill p s
  | .pinvm p => Sys2Proof.Machine.execPinvm p s
  | .mend => Sys2Proof.Machine.execMend s
  | .mlda ma off s0 s1 => Sys2Proof.Machine.execMlda ma off s0 s1 s
  | .mldb mode ma off s0 s1 => Sys2Proof.Machine.execMldb mode ma off s0 s1 s
  | .mmac mode z acc => Sys2Proof.Machine.execMmac mode z acc s
  | .mps on => Sys2Proof.Machine.execMps on s
  | .mout acc cnt ma off s0 s1 clr fromma ofmt sat => Sys2Proof.Machine.execMout acc cnt ma off s0 s1 clr fromma ofmt sat s
  | .mclr mask => Sys2Proof.Machine.execMclr mask s
  | .mloop j fromma ma target count => Sys2Proof.Machine.execMloop j fromma ma target count s
  | .mifz target => Sys2Proof.Machine.execMifz target s
  | .mscl mask k fromma ma => Sys2Proof.Machine.execMscl mask k fromma ma s
  | .msig ma off s0 s1 => Sys2Proof.Machine.execMsig ma off s0 s1 s
  | .emptyBundle seg => Sys2Proof.Machine.execEmptyBundle seg s
  | .reservedEncoding slot => Sys2Proof.Machine.execReservedEncoding slot s
  | .resultVisible => Sys2Proof.Machine.execResultVisible s
  | .loadReturn => Sys2Proof.Machine.execLoadReturn s
  | .parcelFetch => Sys2Proof.Machine.execParcelFetch s
  | .promotionHoldEnd => Sys2Proof.Machine.execPromotionHoldEnd s
  | .detectionResult => Sys2Proof.Machine.execDetectionResult s
  | .sumpReplay => Sys2Proof.Machine.execSumpReplay s
  | .sumpReport => Sys2Proof.Machine.execSumpReport s
  | .objectOpHome => Sys2Proof.Machine.execObjectOpHome s
  | .afaddAtSlice => Sys2Proof.Machine.execAfaddAtSlice s
  | .accessPerformed => Sys2Proof.Machine.execAccessPerformed s
  | .pageWalkEnd => Sys2Proof.Machine.execPageWalkEnd s
  | .faultSettle asid va level pte => Sys2Proof.Machine.execFaultSettle asid va level pte s
  | .faultDeclare asid va cow => Sys2Proof.Machine.execFaultDeclare asid va cow s
  | .translationChange asid va level pte => Sys2Proof.Machine.execTranslationChange asid va level pte s
  | .markerAtHead ch => Sys2Proof.Machine.execMarkerAtHead ch s
  | .markerComplete ch => Sys2Proof.Machine.execMarkerComplete ch s
  | .pageMigration asid va frame tier phase => Sys2Proof.Machine.execPageMigration asid va frame tier phase s
  | .drainReclaim die tier => Sys2Proof.Machine.execDrainReclaim die tier s
  | .pumpCommandStart ch => Sys2Proof.Machine.execPumpCommandStart ch s
  | .wptrAdvance ch => Sys2Proof.Machine.execWptrAdvance ch s
  | .pumpCommandComplete ch => Sys2Proof.Machine.execPumpCommandComplete ch s
  | .pumpFault ch => Sys2Proof.Machine.execPumpFault ch s
  | .routineStart => Sys2Proof.Machine.execRoutineStart s
  | .arrayBlockUpdate => Sys2Proof.Machine.execArrayBlockUpdate s
  | .psumRowPresent => Sys2Proof.Machine.execPsumRowPresent s
  | .outputRowWrite => Sys2Proof.Machine.execOutputRowWrite s
  | .outputPathOperation => Sys2Proof.Machine.execOutputPathOperation s
  | .windlassLookup => Sys2Proof.Machine.execWindlassLookup s
  | .windlassReplayEnd => Sys2Proof.Machine.execWindlassReplayEnd s
  | .syncRelease core => Sys2Proof.Machine.execSyncRelease core s
  | .syncRestart => Sys2Proof.Machine.execSyncRestart s
  | .strokeBoundary => Sys2Proof.Machine.execStrokeBoundary s
  | .launchRecordTaken host q => Sys2Proof.Machine.execLaunchRecordTaken host q s
  | .bindRecordReady die ix rec => Sys2Proof.Machine.execBindRecordReady die ix rec s
  | .preemptWrite die ix => Sys2Proof.Machine.execPreemptWrite die ix s
  | .bindRecordEnd die ix => Sys2Proof.Machine.execBindRecordEnd die ix s
  | .dispatchBind die ix => Sys2Proof.Machine.execDispatchBind die ix s
  | .preemptArrival => Sys2Proof.Machine.execPreemptArrival s
  | .contextSave => Sys2Proof.Machine.execContextSave s
  | .haltComplete => Sys2Proof.Machine.execHaltComplete s
  | .signatureCompare => Sys2Proof.Machine.execSignatureCompare s
  | .rewindReissue => Sys2Proof.Machine.execRewindReissue s
  | .abortCompletion => Sys2Proof.Machine.execAbortCompletion s
  | .eccScrub pa => Sys2Proof.Machine.execEccScrub pa s
  | .softError unc arr core ix => Sys2Proof.Machine.execSoftError unc arr core ix s
  | .ascreate => Sys2Proof.Machine.execAscreate s
  | .asdestroy asid => Sys2Proof.Machine.execAsdestroy asid s
  | .load asid va len dst => Sys2Proof.Machine.execLoad asid va len dst s
  | .map kind asid va len bus attr => Sys2Proof.Machine.execMap kind asid va len bus attr s
  | .qcreate q log cls res asid base => Sys2Proof.Machine.execQcreate q log cls res asid base s
  | .qdestroy q => Sys2Proof.Machine.execQdestroy q s
  | .drvread drive lba asid oid page cnt => Sys2Proof.Machine.execDrvread drive lba asid oid page cnt s
  | .drvwrite drive lba asid oid page cnt => Sys2Proof.Machine.execDrvwrite drive lba asid oid page cnt s
  | .attest nonce => Sys2Proof.Machine.execAttest nonce s
  | .jobend job => Sys2Proof.Machine.execJobend job s
  | .driveCompletion ok data => Sys2Proof.Machine.execDriveCompletion ok data s
  | .qhead q v => Sys2Proof.Machine.execQhead q v s
  | .barRegisterWrite off v => Sys2Proof.Machine.execBarRegisterWrite off v s
  | .bar4Access write off v => Sys2Proof.Machine.execBar4Access write off v s
  | .functionLevelReset => Sys2Proof.Machine.execFunctionLevelReset s
  | .conventionalReset bootErr fabric => Sys2Proof.Machine.execConventionalReset bootErr fabric s
  | .fabricPortDown port => Sys2Proof.Machine.execFabricPortDown port s
  | .packageUnreachable pkg => Sys2Proof.Machine.execPackageUnreachable pkg s
  | .strokeDrift => Sys2Proof.Machine.execStrokeDrift s
  | .thermalNearLimit die preempt => Sys2Proof.Machine.execThermalNearLimit die preempt s
  | .thermalAbsoluteLimit => Sys2Proof.Machine.execThermalAbsoluteLimit s
  | .launchRingWrite off v => Sys2Proof.Machine.execLaunchRingWrite off v s
  | .mbxdb v => Sys2Proof.Machine.execMbxdb v s

end Sys2Proof.Machine
end

