-- ==== Sys2Proof/Machine/Runner.lean ====
section
/-! DEFINITION. One issue: the bundles at the program counter, their evaluation in the order of 03 R104 and 16 R394, and
the issue of a single core, a pair and a gang (03 R95 to R104, 16 R385, R386, 17 R407). -/

namespace Sys2Proof.Machine

open Sys2Proof

/-! ### The operations of an issue -/

/-- Operations evaluated so far on a working state: does one hold, the first trap of step 5 with the bundles that count as issued where it is TRAP's own, the
first report of a pending fault, a trap of step 4, an outcome that is no next state; `lost` counts the results of operations that trap,
which the in-flight limit counts too (03 R104). -/
structure Trial where
  s      : State
  lost   : Nat := 0
  held   : Bool := false
  trap   : Option (Trap × Nat) := none
  report : Option Trap := none
  four   : Option Trap := none
  stop   : Option Out := none

/-- An operation as it runs: a PGATHER whose staging set holds mode 1 moves pairs (09 R277). -/
def Core.asRun (c : Core) (i : Instr) : Instr :=
  match i with
  | .pgatherList p => if fldN (c.staged p 3) 28 2 = 1 then .pgatherPairs p else i
  | i => i

/-- The core about to evaluate an operation in a slot of part `p`, the first or second of an issue whose first parcel is `first`. -/
def Core.atOp (c : Core) (first : ParcelIx) (p : Part) (slot part : Nat) : Core :=
  { c with iss := { c.iss with slot := slot, pc := p.1, next := p.2.2, pairPc := first, part := part, verdict := .ok } }

/-- Is the trap the report of a pending matrix or pump fault? (08 R263, 09 R285) -/
def Trap.isReport (t : Trap) : Bool := bitAt t.info[3] 62 || bitAt t.info[3] 63

/-- The trial after an operation gave `s'`. -/
def Trial.after (t : Trial) (i : Instr) (s' : State) : Trial :=
  match s'.core.iss.verdict with
  | .ok => { t with s := s' }
  | .held => { t with s := s', held := t.held || s'.core.iss.want.length == t.s.core.iss.want.length }
  | .trap x =>
    let t := { t with s := { t.s with free := s'.free, faults := s'.faults }, lost := t.lost + i.resultCount s'.core.iss.slot }
    let past : Nat := match i with | .trap _ _ => s'.core.iss.part + 1 | _ => 0
    if x.isReport then { t with report := some (t.report.getD x) }
    else if x.code == 1 && x.slot == 15 then { t with four := some (t.four.getD x) }
    else { t with trap := some (t.trap.getD (x, past)) }

/-- One operation. One that reads an uncorrectable local word has ABORT for its trap of step 5, unless a cause of a step before it is its
own. -/
def Trial.op (first : ParcelIx) (t : Trial) (o : Nat × Part × Nat × Option Instr) : Trial :=
  match t.stop, o.2.2.2 with
  | none, some i =>
    let s := t.s.onCore (fun c => c.atOp first o.2.1 o.2.2.1 o.1)
    let i := s.core.asRun i
    (match exec i s with
      | .next s' =>
        let u := t.after i s'
        (match s.core.badRead o.2.2.1 i with
          | some x =>
            if u.four = t.four ∧ u.report = t.report then
              { t with trap := some (t.trap.getD (abortTrap o.2.2.1 x, 0)), lost := t.lost + i.resultCount o.2.2.1 }
            else u
          | none => u)
      | out => { t with stop := some out })
  | _, _ => t

/-- Repeaters that TSYM REPEAT operations of the issue make: tile and stored source (06 R186). -/
def Core.newReps (c : Core) (l : List (Nat × Instr)) : List (Nat × Nat) :=
  l.filterMap (fun o => match o.2 with
    | .tsymRepeat g hd ha =>
      let src := c.finalSource (c.h hd).tix
      if c.guard g && (c.h ha).kind == 1 && (c.h hd).kind == 1 && (c.tile src).kind == 1 && src != (c.h ha).tix then some ((c.h ha).tix, src)
      else none
    | _ => none)

/-- Every operation of an issue in slot order, first bundle before second. -/
def State.trial (s : State) (parts : List Part) (replay : Bool) (after : ParcelIx) : Trial :=
  let first := match parts with | p :: _ => p.1 | [] => s.core.pc
  let s := s.onCore (fun c =>
    { c with pc := after, iss := { c.iss with want := [], wantSlot := 0, reps := c.newReps (realOps parts), replay := replay } })
  let ops := (List.range parts.length).flatMap (fun k => (partOps ((parts.drop k).take 1)).map (fun o => (k, o)))
  ops.foldl (Trial.op first) { s := s }

/-! ### The outcome -/

/-- How the evaluation of an issue ends: it issues; it holds; it is refused with a trap, or as a reserved encoding of a slot
(0xF for the leading parcel and the header); the model stops. -/
inductive Eval where
  | go (s : State)
  | held (s : State)
  | trap (t : Trap) (past : Nat) (s : State)
  | reserved (slot : BitVec 4) (s : State)
  | stop (o : Out)

/-- The state before an issue that did not take place: only what holds and translation leave behind stays (03 R104). -/
def State.revert (old new : State) : State :=
  { old with free := new.free, faults := new.faults, wtlb := new.wtlb, walks := new.walks,
             core := { old.core with hold := new.core.hold, tlb := new.core.tlb } }

/-- A pair's cores log the arrival at a SYNC (17 R409, Table 3). -/
def State.logSync (old new : State) : State :=
  match old.core.hold.sync, new.core.hold.sync with
  | none, some w => if new.core.r.prot then new.onPair (fun c => c.logNew new.cycle 0x71 w.mask [w.scope]) else new
  | _, _ => new

/-- The promotions that an issue asks for: TILE 1 where storage is missing, else the hold of 18 cycles a tile (06 R186). The
repeaters of the issue whose source it writes are promoted with the source: the list and the granules are decided as if
they stood already (06 Table 4), against the free map as it is. -/
def State.startPromo (s : State) (want : List Nat) (slot : Nat) (reps : List (Nat × Nat)) : Eval :=
  let reps := reps.filter (fun x => want.contains x.2)
  let c := reps.foldl Core.makeRep s.core
  match c.planPromo (c.promoList want) s.core.free with
  | .error (t, n) =>
    .trap { code := 0x05, slot := slot, info := #v[BitVec.ofNat 64 t, 1, BitVec.ofNat 64 n, 0] } 0 s
  | .ok (plan, free) =>
    .held (s.onCore (fun k =>
      { k with free := free, hold := { k.hold with promo := some { tiles := plan, until_ := s.cycle + 18 * plan.length, reps := reps } } }))

/-- The Windlass and the issue bookkeeping after an issue (03 R95, R101, 09 R291). -/
def Core.issuedParts (c : Core) (parts : List Part) (replay : Bool) (own : Word) (now : Nat) : Core :=
  let wl := if replay && c.wl.active then parts.foldl (fun w _ => w.advance) c.wl else c.wl
  let iss := c.iss.issued parts
  let iss : Iss := { iss with verdict := .ok, want := [], reps := [], drain := false,
                              ready := if replay && wl.active && wl.fin then now + 3 else iss.ready }
  { c with wl := wl, iss := iss, segRun := c.segRun + 1, hold := { obj := c.hold.obj.filter (fun o => o.pcv != own) } }

/-- The first issue of a task: results captured at its halt count from here (16 R400). -/
def State.firstIssue (s : State) : State :=
  if s.core.task.fresh then
    let s := s.onCore (fun c =>
      { c with flight := c.flight ++ c.halted.map (fun p => { p with due := p.due + s.cycle }), halted := [],
               task := { c.task with fresh := false, phase := if c.task.phase = .starting then .running else c.task.phase } })
    s.launchState s.core.task.job 0 2
  else s

/-- SEG of an issue: an empty bundle is one idle cycle; a bundle with SEG counts, and opens a segment in a quiet pair
(03 R84, 17 R410). -/
def State.enterBundle (s : State) (p : Part) (at_ : ParcelIx) : Out :=
  if p.2.1.mask = 0 ∧ !s.core.r.prot then exec (.emptyBundle p.2.1.seg) s else .next (s.enterSeg p.2.1.seg at_)

/-- What the operations of an issue come to, in the order of R104: a trap of step 4, the in-flight limit among them where nothing
holds; a report of a pending fault; a hold; a trap of step 5, of which an ABORT rewinds a pair (17 R412); promotions; the effects. -/
def State.conclude (s : State) (parts : List Part) (replay : Bool) (t : Trial) : Eval :=
  let own := s.core.pcValue (match parts with | p :: _ => p.1 | [] => s.core.pc)
  let back := s.revert t.s
  let held := t.held && !s.core.r.chk
  match t.stop with
  | some o => .stop o
  | none =>
    match t.four with
    | some x => .trap x 0 back
    | none =>
      if !held && decide (48 < flightCount t.s.core.flight + t.s.core.heldLoads + t.lost) then .trap { code := 0x01 } 0 back
      else match t.report with
        | some x => .trap x 0 back
        | none =>
          if held then .held (s.logSync back)
          else match t.trap with
            | some (x, past) => if x.code == 0x04 && back.strikes none then .held (back.struck none back) else .trap x past back
            | none =>
              let q := t.s.core.iss
              if !q.want.isEmpty then back.startPromo q.want q.wantSlot q.reps
              else .go ((t.s.onCore (fun c =>
                (c.issuedParts parts replay own s.cycle).sign (if c.r.prot then s.core.issueSig parts else []))).firstIssue)

/-- Evaluation of an issue from its parts (03 R104): encodings; scoreboarded destinations; the rules of step 4; the operations. -/
def State.evalParts (s : State) (parts : List Part) (replay : Bool) (after : ParcelIx) : Eval :=
  match s.encTrap parts with
  | some t => .reserved (BitVec.ofNat 4 t.slot) s
  | none =>
    let ops := realOps parts
    if !s.core.r.chk && s.core.scoreboard ops then .held s
    else if s.core.stepFour ops then .trap { code := 0x01 } 0 s
    else
      let at_ : ParcelIx := match parts with
        | p :: _ => if replay then s.core.pc else p.1
        | [] => s.core.pc
      match (match parts with | [p] => s.enterBundle p at_ | _ => .next (s.enterSeg false at_)) with
      | .next s1 =>
        let s1 := if replay then s1.onCore (fun c => c.wlLook s.cycle) else s1
        s.conclude parts replay (s1.trial parts replay after)
      | o => .stop o

/-! ### The parts of an issue -/

/-- What stands next to issue: its parts with the parcel index after them, a wait, a trap, or a leading parcel
that is refused. -/
inductive NextIssue where
  | parts (l : List Part) (replay : Bool) (after : ParcelIx)
  | wait (s : State)
  | trap (t : Trap) (s : State)
  | refused

/-- The next one or two bundles of a replay: a pair lies within one pass (09 R291). -/
def Core.replayParts (c : Core) : List Part :=
  let w := c.wl
  let at_ (e : Nat) : Part := (w.runIx, entryBundle (entryParcels (c.dict.get 0 e)), w.retIx)
  let a := at_ w.entry
  let b := at_ (w.entry + 1)
  if decide (w.entry + 1 < w.tplStart w.level w.tpl + w.tplLen w.level w.tpl) && pairs a.2.1 b.2.1 then [a, b] else [a]

/-- The bundle or pair that stands next to issue: of the replay, else of the stream at the program counter. A bundle that may be
the first of a pair waits for the parcels of the next one; a next one that cannot be fetched, or whose leading parcel is refused,
does not pair (03 R86, R96, R102). -/
def State.nextIssue (s : State) : NextIssue :=
  let c := s.core
  if c.wl.active then
    match s.dictHold (tab c.replayParts.length (fun k => c.wl.entry + k)) with
    | some s => .wait s
    | none => .parts c.replayParts true c.pc
  else
    match s.dictHold (c.entryAt c.pc) with
    | some s => .wait s
    | none =>
    match c.stream c.pc with
    | .miss p => (match s.need p with | .wait s => .wait s | .trap t s => .trap t s)
    | .enc => .refused
    | .go b =>
      let n := c.pc + BitVec.ofNat 47 b.len
      match s.dictHold (if leadsPair b then c.entryAt n else []) with
      | some s => .wait s
      | none =>
      let one : NextIssue := .parts [(c.pc, b, n)] false n
      (match c.stream n with
        | .go b2 =>
          if pairs b b2 then .parts [(c.pc, b, n), (n, b2, n + BitVec.ofNat 47 b2.len)] false (n + BitVec.ofNat 47 b2.len) else one
        | .miss p =>
          if !leadsPair b || c.cannotPair b n || c.fetchBad (p / 32) || (s.codeLine (p / 32)).isNone then one
          else (match s.need p with
            | .wait s => .wait s
            | .trap _ _ => one)
        | .enc => one)

/-- The evaluation of what stands next to issue on the focused core. -/
def State.evalNext (s : State) : Eval × List Part :=
  match s.nextIssue with
  | .wait s => (.held s, [])
  | .trap t s => (.trap t 0 s, [])
  | .refused => (.reserved 15 s, [])
  | .parts l replay after =>
    if s.core.draining s.whereIs then (.held s, l)
    else (s.onCore (fun c => if c.r.chk then c else { c with iss := { c.iss with fwd := [] } }) |>.evalParts l replay after, l)

/-- A trap that reports a pending matrix fault, or the fault of the channel that it names, leaves it pending no more
(08 R263, 09 R285); a replay has met the log entry of an object operation that is refused again (17 R414). -/
def Core.reported (c : Core) (t : Trap) : Core :=
  let old := (c.log.find? (fun e => !e.used)).filter (fun e => (e.trap.map (fun x => (x.code, x.info))) == some (t.code, t.info))
  let c := match old with
    | some e => { c with log := c.log.map (fun x => if x = e then { x with used := true } else x) }
    | none => c
  let c := if bitAt t.info[3] 63 then { c with mat := { c.mat with fault := none } } else c
  if bitAt t.info[3] 62 then
    let n := fldN t.info[3] 0 3
    { c with r := c.r.raise (c.chan n).flags, chans := c.chans.setIfInBounds n { c.chan n with fault := none, flags := 0 } }
  else c

/-- A refused issue takes its trap, at TRAPPC the first parcel of the bundle or pair (03 R104). -/
def State.takeTrap (s : State) (t : Trap) (past : Nat) : State :=
  s.onCore (fun c =>
    let c := c.reported t
    let c := { c with hold := { c.hold with obj := c.hold.obj.filter (fun o => match o.ans with
      | some (some _, _) => false
      | _ => true) } }
    c.enterTrap s.cycle t c.pc past)

/-- A reserved encoding comes to issue: RESERVED_ENCODING at the bundle's or pair's first parcel. -/
def State.takeReserved (s : State) (slot : BitVec 4) : Out :=
  match exec (.reservedEncoding slot) (s.onCore (fun c => { c with iss := { c.iss with pairPc := c.pc } })) with
  | .next t => .next (t.onCore (fun c => { c with iss := { c.iss with verdict := .ok } }))
  | o => o

/-! ### Leaders and members -/

/-- An entry of the lead's broadcast sent to the other cores of its task (16 R385, 17 R407). -/
def State.broadcast (s : State) (b : Bcast) : State :=
  let peers := s.taskCores.filter (fun i => i != s.cid)
  peers.foldl (fun (s : State) (i : Nat) => let c := s.coreAt i; s.putCore i { c with bcast := c.bcast ++ [b] }) s

/-- The trap that the core has just taken, as its registers or its ending tell. -/
def Core.taken (c : Core) : Trap :=
  match c.task.phase with
  | .ending _ cause _ _ => { code := cause }
  | _ => { code := fldN c.r.tcause 0 8, slot := fldN c.r.tcause 8 4, addr := c.r.taddr, info := c.r.tinfo }

/-- A trap that a leader has taken at `pc` reaches its checker (17 R407). -/
def State.passTrap (s : State) (pc : ParcelIx) (past : Nat) : State :=
  if s.leads then
    s.broadcast { at_ := s.cycle, pairs := [], after := s.core.pc, wl := {}, trap := some (s.core.taken, pc, past) }
  else s

/-- The answer of the object operation that the issue under way has used. -/
def Core.objAns (c : Core) (first : ParcelIx) : Option (Option Trap × Handle × Word × Bool) :=
  match c.hold.obj.find? (fun o => o.pcv == c.pcValue first) with
  | some o => o.ans
  | none => none

/-- Positions of a Windlass that follows its lead's (16 R385). -/
def Wl.follow (own lead : Wl) : Wl :=
  let w : Wl := { own with active := lead.active, runIx := lead.runIx, retIx := lead.retIx, entry := lead.entry, level := lead.level,
                           tpl := lead.tpl, wc := lead.wc, fin := lead.fin, stop := lead.stop }
  if lead.seen.isNone then { w with seen := none, look := none, lv := if lead.lv = 0 then 0 else w.lv } else w

/-- The core with a bundle of its lead in hand. -/
def Core.receive (c : Core) (b : Bcast) : Core :=
  let first := match b.pairs with | p :: _ => p.1 | [] => c.pc
  let c := { c with wl := c.wl.follow b.wl, iss := { c.iss with fwd := b.fwd, ready := 0, abandon := b.held } }
  match b.ans with
  | some a =>
    let op : ObjOp := { pcv := c.pcValue first, i := .halt Guard.always, h := 0, x := 0, due := 0, reclaims := false, ans := some a }
    { c with hold := { c.hold with obj := c.hold.obj.filter (fun o => o.pcv != op.pcv) ++ [op] } }
  | none => c

/-- The core after it has executed a bundle of its lead: whether a transfer is taken is the lead's decision (16 R385). -/
def Core.followed (c : Core) (b : Bcast) : Core :=
  { c with pc := b.after, bcast := c.bcast.drop 1, wl := c.wl.follow b.post, r := c.r.setWlact b.post.active,
           iss := { c.iss with abandon := false } }

/-- Is the core's task to halt? -/
def Core.halting (c : Core) : Bool := match c.task.phase with | .halting _ => true | _ => false

/-- The evaluation of the next bundle of the lead on the focused core. A checker's promotions need no hold of their own: its
leader has held for them. A load of a gang's member that is held while the task halts is abandoned (13 R353). -/
def State.evalFollow (s : State) (b : Bcast) : Eval :=
  let b := { b with held := b.held || (s.core.halting && !s.core.r.chk) }
  let s := s.onCore (fun c => c.receive b)
  let go (s : State) : Eval := s.evalParts b.pairs b.wl.active b.after
  let e := match go s with
    | .held t => if s.core.r.chk && t.core.hold.promo.isSome then go (t.onCore (fun c => c.finishPromo)) else .held t
    | e => e
  match e with
  | .go t => .go (t.onCore (fun c => c.followed b))
  | e => e

/-- The entry that follows an issue of the focused lead, from its state before. -/
def State.entryOf (old new : State) (clock : Nat) (l : List Part) : Bcast :=
  { at_ := clock, pairs := l, after := new.core.pc, wl := old.core.wl, post := new.core.wl, fwd := new.core.iss.fwd,
    ans := match l with | p :: _ => old.core.objAns p.1 | [] => none }

/-! ### A single core or a leader -/

/-- An issue of the focused core as its evaluation came out. -/
def State.settle (s : State) (e : Eval × List Part) : Out :=
  match e.1 with
  | .stop o => o
  | .held t => .next t
  | .trap t past s' => .next ((s'.takeTrap t past).passTrap s'.core.pc past)
  | .reserved k s' =>
    (match s'.takeReserved k with
      | .next t => .next (t.passTrap s'.core.pc 0)
      | o => o)
  | .go t => .next (if s.core.r.prot then t.broadcast (s.entryOf t s.cycle e.2) else t)

/-- Is a report of the sump taken at this boundary? (13 R351, 16 R394) -/
def State.reportNow (s : State) : Bool := !s.core.r.inh && s.nextReport.isSome

/-- The next issue of the focused core, after a report of its sump. -/
def State.issueOne (s : State) : Out :=
  if s.reportNow then
    match execSumpReport s with
    | .next t => .next (t.passTrap s.core.pc 0)
    | o => o
  else s.settle s.evalNext

/-- A core that resumes within a replay goes on with it 3 cycles after its first issue (09 R296). -/
def State.resumeReplay (s : State) : State :=
  s.firstIssue.onCore (fun c => { c with iss := { c.iss with ready := s.cycle + 3 } })

/-- Is an object operation to be waited for: its answer is to come and it does not reclaim, or it has come for the bundle at the program
counter? (06 R199, 16 R395) -/
def Core.objUnderWay (c : Core) : Bool :=
  c.hold.obj.any (fun o => if o.ans.isSome then o.pcv == c.pcValue c.pc else !o.reclaims)

/-- Does the bundle next to issue lie within a pass of a replay that has begun? -/
def Core.midPass (c : Core) : Bool :=
  c.wl.active && !c.task.fresh && !c.wl.fin && c.wl.entry != c.wl.tplStart c.wl.level c.wl.tpl

/-- Does a core on which a pre-emption has arrived halt now? An object operation under way is waited for, unless it
reclaims; scale windows close first; a replay finishes its pass, or ends it at a bundle that holds, unless that bundle begins an
object operation (16 R395, R396). Mark: DESIGN CHOICE (log 57): the answer is waited for (06 R199, 16 R395) also where it comes later than
the 12 us of 00 R1 and 16 R397. -/
def State.haltNow (s : State) : Bool :=
  let c := s.core
  if c.objUnderWay || c.windowsLeft s.cycle then false
  else if c.midPass then (match s.evalNext with | (.held t, _) => !t.core.objUnderWay | _ => false)
  else true

/-- Is the focused core kept from issuing: a transfer or a trap on its way, a promotion, a rewind? -/
def Core.kept (c : Core) (now : Nat) : Bool := decide (now < c.iss.ready) || c.hold.promo.isSome || c.back.isSome || c.strike.isSome

/-- Has a task that has not issued since it was bound still to wait: for the time of its binding, or in a DET job for the first cycle of
a stroke (16 R383, R400)? -/
def Core.frozen (c : Core) (now : Nat) : Bool := c.task.fresh && (decide (now < c.iss.ready) || (c.r.det && !c.task.begun))

/-- May the focused core issue? A task that has not issued since it was bound waits until the loads that its halt abandoned are performed
(13 R353). -/
def State.mayIssue (s : State) : Bool :=
  let c := s.core
  !c.kept s.cycle && !c.frozen s.cycle && !(c.task.fresh && c.owes s.whereIs)

/-- A stroke begins, and with it the first bundle of a DET task that may issue; a hold of that bundle ends as any hold does (16 R384,
R395). -/
def State.beginStroke (s : State) : State :=
  if s.core.task.fresh && s.core.r.det && s.strokePos == 1 && !s.core.kept s.cycle && !s.core.owes s.whereIs then
    s.onCore (fun c => { c with task := { c.task with begun := true } })
  else s

/-- Does the bundle next to issue trap in the cycle in which a pre-emption reaches the core? The trap is taken first (16 R394). -/
def State.trapsFirst (s : State) : Bool :=
  let c := s.core
  decide (c.task.haltAt = s.cycle) && s.mayIssue && !(c.task.fresh && c.wl.active) &&
    (s.reportNow || (match s.evalNext.1 with | .trap _ _ _ | .reserved _ _ => true | _ => false))

/-- The halt of a core that leads its task or is alone. A bundle that holds on the translation fault of a load counts as issued, and the
load waits in the memory unit until the task goes on (13 R353), also within a pass of a replay, which ends there (16 R396; mark: DEDUCED,
log 56). -/
def State.haltBundle (s : State) (clock : Nat) : State :=
  let plain := s.onCore (fun c => c.halt s.cycle)
  if !s.mayIssue || (s.core.task.fresh && s.core.wl.active) then plain
  else match (s.onCore (fun c => { c with iss := { c.iss with abandon := true } })).evalNext with
    | (.go t, l) =>
      if t.core.heldLoads = s.core.heldLoads then plain
      else
        let t := t.onCore (fun c => { c with iss := { c.iss with abandon := false } })
        let t := if 1 < s.core.task.gsize || s.core.r.prot then t.broadcast { s.entryOf t clock l with held := s.core.r.prot } else t
        t.onCore (fun c => c.halt s.cycle)
    | _ => plain

/-- The issue turn of a core of a task of one core, and of a leader. -/
def State.issueSingle (s : State) : Out :=
  let c := s.core
  match c.task.phase with
  | .running | .starting =>
    if !s.mayIssue then .next s
    else if c.task.fresh && c.wl.active then .next s.resumeReplay
    else s.issueOne
  | .halting _ =>
    if c.back.isSome || c.strike.isSome || (!c.task.fresh && decide (s.cycle < c.iss.ready)) then .next s
    else if s.trapsFirst then s.issueOne
    else if s.haltNow then .next (s.haltBundle s.cycle)
    else if s.mayIssue then s.issueOne
    else .next s
  | _ => .next s

/-- The issue turn of a checker: its leader's issue of two cycles before (17 R407). -/
def State.issueChecker (s : State) : Out :=
  let c := s.core
  match c.bcast with
  | [] =>
    .next (match c.task.phase, (s.coreAt (peerOf s.cid)).task.phase with
      | .halting _, .saving _ | .halting _, .killed => s.onCore (fun c => c.halt s.cycle)
      | _, _ => s)
  | b :: _ =>
    if s.cycle < b.at_ + 2 then .next s
    else match b.trap with
      | some (t, pc, past) =>
        .next (s.onCore (fun c => ({ c with bcast := c.bcast.drop 1, pc := pc }.reported t).enterTrap s.cycle t pc past))
      | none =>
        (match c.task.phase with
          | .running | .starting | .halting _ =>
            (match s.evalFollow b with
              | .stop o => o
              | .go t => .next t
              | .held t => .next (t.onCore (fun c => c.followed b))
              | .reserved k t' => t'.takeReserved k
              | .trap t past t' => .next ((t'.takeTrap t past).onCore (fun c => { c with bcast := c.bcast.drop 1 })))
          | _ => .next (s.onCore (fun c => { c with bcast := c.bcast.drop 1 })))

/-! ### A gang (16 R385, R386) -/

/-- Does the task's core issue at this turn? -/
def Core.issues (c : Core) : Bool :=
  match c.task.phase with
  | .running | .starting | .halting _ => true
  | _ => false

/-- Has the core's task failed on it? -/
def Core.failed (c : Core) : Bool :=
  match c.task.phase with
  | .ending f _ _ _ => f
  | _ => false

/-- How the evaluation of a gang's members, in order of position, ends: all go on; a member holds; member `i` fails, the lowest that
does. -/
inductive GangEval where
  | go (s : State)
  | held
  | fail (s : State) (i : Nat)
  | stop (o : Out)

/-- The lead of a gang on which a pre-emption has arrived halts at its bundle boundary, whatever another member holds on (16 R386,
R395). -/
def State.haltLead (s : State) : State :=
  let c := s.core
  if c.halting && (c.task.fresh || decide (c.iss.ready ≤ s.cycle)) && !s.trapsFirst && s.haltNow then s.haltBundle c.gclock else s

/-- The lead's evaluation, with the entry for the others where it issues. -/
def State.leadTurn (s : State) : Eval :=
  let c := s.core
  let issue : Eval :=
    match s.evalNext with
    | (.go t, l) => .go (t.broadcast (s.entryOf t c.gclock l))
    | (e, _) => e
  match c.task.phase with
  | .running | .starting =>
    if !s.mayIssue then .go s
    else if c.task.fresh && c.wl.active then .go s.resumeReplay
    else issue
  | .halting _ =>
    if !c.task.fresh && decide (s.cycle < c.iss.ready) then .go s
    else if s.trapsFirst then issue
    else if c.hold.promo.isSome then .held s
    else if s.mayIssue then issue
    else .go s
  | _ => .go s

/-- A member's evaluation at the clock of its lead: the lead's own next issue, or the entry whose turn it is, `gpos` times the
skew after the lead (16 R385). -/
def State.memberTurn (s : State) (clock : Nat) : Eval :=
  let c := s.core
  if c.issues && c.hold.promo.isSome && !(c.halting && c.task.gpos == 0) then .held s
  else if c.task.gpos = 0 then s.leadTurn
  else match c.bcast with
    | b :: _ =>
      if b.at_ + c.task.gpos * c.task.skew ≤ clock ∧ c.issues ∧ !(s.coreAt c.task.lead).frozen s.cycle then
        if c.task.fresh && c.owes s.whereIs then .held s else s.evalFollow b
      else .go s
    | [] => .go s

/-- Does a member whose bundle holds abandon it and halt, once its lead has halted? An object operation is waited for, and scale windows
close first (16 R395). -/
def State.mayAbandon (s : State) : Bool :=
  s.core.halting && s.core.task.gpos != 0 && !s.core.objUnderWay && !s.core.windowsLeft s.cycle

/-- The member halts before its lead's bundle that it holds on; that bundle and those after it stay to be executed first when the task
goes on, at the distances they have now. Mark: DESIGN CHOICE (log 56): R395 abandons such a hold, while R386 has every member halt with
one program counter. -/
def State.abandonBundle (s : State) (clock : Nat) : State := s.onCore (fun c => { (c.halt s.cycle) with gclock := clock, bcast := c.bcast })

/-- Members `l` evaluated one after another; `ab` where the lead has halted, so that a hold is abandoned. -/
def State.gangEval (s : State) (ab : Bool) (clock : Nat) : List Nat → GangEval
  | [] => .go s
  | i :: t =>
    match (s.focus i).memberTurn clock with
    | .go f => State.gangEval (f.focus s.cid) ab clock t
    | .held f => if ab && f.mayAbandon then State.gangEval ((f.abandonBundle clock).focus s.cid) ab clock t else .held
    | .trap x past f => .fail ((f.takeTrap x past).focus s.cid) i
    | .reserved k f => (match f.takeReserved k with
      | .next f => .fail (f.focus s.cid) i
      | o => .stop o)
    | .stop o => .stop o

/-- The first member that has failed before it comes to issue: by a trap after issue, or by a report of its sump. -/
def State.gangFailed (s : State) (cores : List Nat) : Option Nat :=
  cores.find? (fun i => let f := s.focus i; f.core.failed || (f.core.issues && f.reportNow))

/-- Member `i` has failed, its report taken where it is one. -/
def State.gangReport (s : State) (i : Nat) : Out :=
  let f := s.focus i
  if f.core.failed then .next s
  else match execSumpReport f with
    | .next f => .next (f.focus s.cid)
    | o => o

/-- A gang whose member `i` has failed ends: every other member stops (16 R386). -/
def State.endGang (s : State) (cores : List Nat) (i : Nat) : State :=
  cores.foldl (fun (s : State) (k : Nat) =>
    let c := s.coreAt k
    s.putCore k (if k = i then { c with bcast := [] }
      else { c with flight := engineWrites c.flight, captured := [], resume := none, bcast := [], hold := {}, heldCls := [],
                    task := { c.task with phase := (s.coreAt i).task.phase } })) s

/-- A held gang: each member keeps what it holds on, and none issues. -/
def State.gangHold (s : State) (clock : Nat) (cores : List Nat) : State :=
  cores.foldl (fun (s : State) (k : Nat) =>
    match (s.focus k).memberTurn clock with
    | .held f => f.focus s.cid
    | .go f => { s with free := f.free }
    | _ => s) s

/-- Members that have executed all that their lead broadcast halt once it has (16 R386). -/
def State.haltMembers (s : State) (cores : List Nat) : State :=
  if s.core.issues then s
  else cores.foldl (fun (s : State) (k : Nat) =>
    let c := s.coreAt k
    match c.task.phase with
    | .halting _ => if c.bcast.isEmpty && !c.windowsLeft s.cycle then s.putCore k (c.halt s.cycle) else s
    | _ => s) s

/-- Does a hold of a member end the lead's pass of a replay, on which a pre-emption has arrived? (16 R396) -/
def State.endsPass (s : State) : Bool :=
  s.core.halting && s.core.midPass && !s.core.objUnderWay && !s.core.windowsLeft s.cycle && decide (s.core.iss.ready ≤ s.cycle)

/-- The issue turn of a gang: every member issues what its place in the skew gives it, or none does. Of members that trap in one
cycle the lowest is reported; a member that has failed ends the task whatever another holds on (16 R386). -/
def State.issueGang (s : State) : Out :=
  let cores := s.taskCores
  let s := s.haltLead
  match s.gangFailed cores with
  | some p =>
    (match s.gangEval false s.core.gclock (cores.takeWhile (fun i => i != p)) with
      | .stop o => o
      | .fail t i => .next (t.endGang cores i)
      | _ => match s.gangReport p with
        | .next t => .next (t.endGang cores p)
        | o => o)
  | none =>
    match s.gangEval (!s.core.issues) s.core.gclock cores with
    | .stop o => o
    | .held => .next (if s.endsPass then s.onCore (fun c => c.halt s.cycle) else s.gangHold s.core.gclock cores)
    | .fail t i => .next (t.endGang cores i)
    | .go t => .next ((t.haltMembers cores).onCore (fun c => if s.core.frozen s.cycle then c else { c with gclock := c.gclock + 1 }))

/-- A step after which a pair that an event has struck rewinds. -/
def thenRewind (o : Out) : Out := match o with | .next s => .next s.rewindNow | o => o

/-- The issue turn of the focused core: of a task of one core, of a checker, or of the lead of a gang for all its members. A pair that an
event at this issue strikes rewinds at once (17 R412). -/
def State.issueTurn (s : State) : Out :=
  let s := s.beginStroke
  if s.core.task.phase = .idle then .next s
  else if s.core.r.chk then thenRewind s.issueChecker
  else if 1 < s.core.task.gsize then s.issueGang
  else thenRewind s.issueSingle

end Sys2Proof.Machine
end

