-- ==== Sys2Proof/Machine/Agenda.lean ====
section
/-! DEFINITION. What comes next: the events of a core that are due in the current cycle, those of the device between
cycles, and the tick of the clock. -/

namespace Sys2Proof.Machine

open Sys2Proof

/-! ### Events of a core -/

/-- An event of the focused core that is due. -/
inductive Ev where
  | compare
  | reissue
  | replayEnd
  | visible
  | abort
  | slice
  | load
  | performed
  | held
  | sumpReplay
  | sumpReport
  | object
  | promoEnd
  | detect
  | fetch
  | walkEnd
  | lookup
  | restart
  | wptr (ch : BitVec 3)
  | complete (ch : BitVec 3)
  | fault (ch : BitVec 3)
  | atHead (ch : BitVec 3)
  | passed (ch : BitVec 3)
  | pump (ch : BitVec 3)
  | update
  | psum
  | output
  | outOp
  | routine
  | micro (i : Instr)
  | skipWord
  | openWord
  | badWord
  | save
  | haltDone
  | arrive
  deriving DecidableEq, Repr

/-- The event that performs an access, by what it is. -/
def MuItem.event (i : MuItem) : Ev :=
  match i.kind with
  | .afadd _ _ => .slice
  | _ => if i.returns then .load else .performed

/-- Does a pair rewind, or its leader compare signatures, now? -/
def State.compareDue (s : State) : Bool :=
  s.core.r.prot && (if s.core.strike.isSome then s.bothOpen else s.leads && s.sigDue)

/-- Has the core's task issued its last bundle: after HALT, a trap that ends it, or its end by firmware? -/
def Core.stopped (c : Core) : Bool :=
  match c.task.phase with
  | .ending _ _ _ _ | .killed => true
  | _ => false

/-- The memory unit's next event; once issue has ended, a report too. -/
def State.memEvent (s : State) : Option Ev :=
  match s.nextItem with
  | some i => some (if s.aborts i then .abort else i.event)
  | none => if s.heldItem.isSome then some .held else if s.nextReplay.isSome then some .sumpReplay else if s.core.stopped && s.nextReport.isSome then some .sumpReport else none

/-- Is a time come? -/
def dueAt (now : Nat) (o : Option Nat) : Bool := match o with | some d => decide (d ≤ now) | none => false

/-- The next event of a pump channel. -/
def Core.pumpEvent (c : Core) (now : Nat) (ch : Nat) : Option Ev :=
  let n := BitVec.ofNat 3 ch
  let h := c.chan ch
  if h.adv.any (fun a => decide (a.1 ≤ now)) then some (.wptr n)
  else match c.head ch with
    | none => none
    | some k =>
      match k.marker with
      | some (_, _, ids) =>
        if !k.begun && decide (k.issued < now) && (!ids.isEmpty || c.quietBefore k.seq 0xFFFF) then some (.atHead n)
        else if k.begun && decide (k.ready ≤ now) then some (.passed n)
        else none
      | none =>
        if k.bad.isSome then some (.fault n)
        else if k.fin && decide (k.ready ≤ now) && h.adv.isEmpty then some (.complete n)
        else if c.pumpReady now ch then some (.pump n)
        else none

/-- The word at which the sequencer stands now. -/
def Core.microWord (c : Core) (now : Nat) : Option Ev :=
  match c.mat.call with
  | none => none
  | some k =>
    if now < c.mat.seqAt then none
    else if (c.badIn 10 (c.microAddr k.rix c.mat.upc) 1).isSome then some .badWord
    else match c.storeWord k c.mat.upc with
      | none => some .openWord
      | some w => match decodeU w with
        | some i => some (.micro i)
        | none => some .skipWord

/-- The matrix unit's next event; none while a rewind is to begin. -/
def Core.matEvent (c : Core) (now : Nat) : Option Ev :=
  if c.strike.isSome then none
  else if (c.mat.dueBlock now false).isSome then some .update
  else if c.mat.portDue now then some .psum
  else match c.mat.outReady now with
    | some (.out _ _ _ _ _ _ _ _ _) => some .output
    | some _ => some .outOp
    | none => if c.mayStart now then some .routine else c.microWord now

/-- Has a quiescent core still to start or to finish its save? (16 R398) -/
def State.saveDue (s : State) : Bool :=
  match s.core.task.phase, s.core.task.saveAt with
  | .saving _, none => s.core.quiescent
  | .saving _, some d => decide (d ≤ s.cycle) && s.taskCores.all (fun i => dueAt s.cycle (s.coreAt i).task.saveAt)
  | _, _ => false

/-- Events of a core but for its engines, in the order in which they take place within a cycle. -/
def State.coreEvent (s : State) : Option Ev :=
  let c := s.core
  let now := s.cycle
  if s.compareDue then some .compare
  else if s.reissueDue then some .reissue
  else if c.wl.active && c.wl.fin then some .replayEnd
  else if c.flight.any (fun p => decide (p.due ≤ now)) then some .visible
  else match s.memEvent with
    | some e => some e
    | none =>
      if dueAt now (c.hold.chk.map (·.2)) || s.nextObj.isSome then some .object
      else if dueAt now (c.hold.promo.map (·.until_)) then some .promoEnd
      else if c.dets.any (fun d => decide (d.due ≤ now)) then some .detect
      else if dueAt now (c.fetch.map (·.2)) then some .fetch
      else if dueAt now (c.hold.walk.map (·.2)) then some .walkEnd
      else if dueAt now (c.wl.look.map (·.1)) then some .lookup
      else if s.restartDue then some .restart
      else none

/-- The next event of the focused core in this cycle. -/
def State.nextEvent (s : State) : Option Ev :=
  match s.coreEvent with
  | some e => some e
  | none =>
    match (List.range 8).findSome? (s.core.pumpEvent s.cycle) with
    | some e => some e
    | none => match s.core.matEvent s.cycle with
      | some e => some e
      | none =>
        if s.saveDue then some .save
        else if s.taskOver then some .haltDone
        else if dueAt s.cycle s.core.task.preempt then some .arrive
        else none

/-- An abort completion that traps a leader reaches its checker too (17 R407). -/
def State.runAbort (s : State) : Out :=
  match execAbortCompletion s with
  | .next t => .next (if t.core.r.tcause != s.core.r.tcause || t.core.r.inh != s.core.r.inh || t.core.failed != s.core.failed then
      t.passTrap (match s.nextItem with | some i => i.pcv.setWidth 47 | none => s.core.pc) 0
    else t)
  | o => o

/-- The sequencer takes a word of the microprogram store that nothing has loaded, past the end of a routine without MEND. Mark:
DESIGN CHOICE (log 21): the spec gives the store no contents there; each time, the word is a free value. -/
def State.runOpenWord (s : State) : Out :=
  let (w, s) := s.draw
  match decodeU (BitVec.ofNat 64 w) with
  | some i => exec i s
  | none => .next s.skipWord

/-- A load that a halt abandoned is performed afresh; a trap of it reaches a leader's checker too (13 R353, 17 R407). -/
def State.runHeld (s : State) : Out :=
  .next (match s.heldItem with
    | some (i, r) =>
      let t := s.sendHeld i r
      if t.core.r.tcause != s.core.r.tcause || t.core.r.inh != s.core.r.inh || t.core.failed != s.core.failed then t.passTrap (i.pcv.setWidth 47) 0 else t
    | none => s)

/-- The sequencer reads an uncorrectable micro-word: a matrix fault of cause ABORT (17 R405). -/
def State.runBadWord (s : State) : State :=
  let w := match s.core.mat.call with | some k => s.core.microAddr k.rix s.core.mat.upc | none => 0
  s.struck none (s.matFault 0x04 w 10 0 s.core.mat.upc)

/-- An event of the focused core takes place. -/
def State.runEvent (s : State) (e : Ev) : Out :=
  match e with
  | .compare => execSignatureCompare s
  | .reissue => execRewindReissue s
  | .replayEnd => execWindlassReplayEnd s
  | .visible => execResultVisible s
  | .abort => s.runAbort
  | .slice => execAfaddAtSlice s
  | .load => execLoadReturn s
  | .performed => execAccessPerformed s
  | .held => s.runHeld
  | .sumpReplay => execSumpReplay s
  | .sumpReport => execSumpReport s
  | .object => execObjectOpHome s
  | .promoEnd => execPromotionHoldEnd s
  | .detect => execDetectionResult s
  | .fetch => execParcelFetch s
  | .walkEnd => execPageWalkEnd s
  | .lookup => execWindlassLookup s
  | .restart => execSyncRestart s
  | .wptr ch => execWptrAdvance ch s
  | .complete ch => execPumpCommandComplete ch s
  | .fault ch => execPumpFault ch s
  | .atHead ch => execMarkerAtHead ch s
  | .passed ch => execMarkerComplete ch s
  | .pump ch => execPumpCommandStart ch s
  | .update => execArrayBlockUpdate s
  | .psum => execPsumRowPresent s
  | .output => execOutputRowWrite s
  | .outOp => execOutputPathOperation s
  | .routine => execRoutineStart s
  | .micro i => exec i s
  | .skipWord => .next s.skipWord
  | .openWord => s.runOpenWord
  | .badWord => .next s.runBadWord
  | .save => execContextSave s
  | .haltDone => execHaltComplete s
  | .arrive => execPreemptArrival s

/-! ### Events of the device between cycles -/

/-- READY returns after a Function Level Reset (20 R433). -/
def State.returnReady (s : State) : State :=
  { s with host := { s.host with status := setFld s.host.status 0 1#1, readyAt := none } }

/-- A record of a die that dispatch acts on now: one it binds, else one that waits for cores of lower classes. -/
def State.dispatchDue (s : State) (die : Nat) : Option Nat :=
  match s.nextBind die with
  | some k => some k
  | none => ((s.dieRecords die).find? (fun e => !(s.victimsOf die e.1).isEmpty)).map (·.1)

/-- The next event of the device, where one is due: reclaim, dispatch, the release of a barrier, a stroke. -/
def State.deviceEvent (s : State) : Option Out :=
  match s.drains.find? (fun d => decide (d.1 ≤ s.cycle)) with
  | some d => some (execDrainReclaim (BitVec.ofNat 1 d.2.1) (BitVec.ofNat 2 d.2.2) s)
  | none =>
    match s.dispatchDue 0, s.dispatchDue 1 with
    | some k, _ => some (execDispatchBind 0 (BitVec.ofNat 8 k) s)
    | none, some k => some (execDispatchBind 1 (BitVec.ofNat 8 k) s)
    | none, none =>
      match s.busyCores.find? (fun i => s.releasable i) with
      | some i => some (execSyncRelease (BitVec.ofNat 9 i) s)
      | none => if s.stklen ≤ s.strokePos then some (execStrokeBoundary s) else none

/-! ### The clock -/

/-- The end of a cycle on one core: a bound core counts it in CYCLES, a core of a pair closes its signature and brings its
undo buffer up to date. -/
def Core.tick (c : Core) (now : Nat) : Core :=
  let c := if c.task.phase = .idle then c else { c with r := { c.r with cycles := c.r.cycles + 1 } }
  if c.r.prot then (c.closeSig now).recordUndo else c

/-- The turns of a cycle: every busy core's events, then the issue of each core that leads a task or checks one. -/
def State.turns (s : State) : List Turn :=
  let l := s.busyCores
  l.map Turn.events ++ (l.filter (fun i => (s.coreAt i).task.gpos == 0)).map Turn.issue

/-- Lead cores fetch ahead (03 R85). -/
def State.aheadAll (s : State) : State :=
  s.busyCores.foldl (fun (s : State) (i : Nat) =>
    let c := s.coreAt i
    if c.task.gpos = 0 ∧ !c.r.chk ∧ c.issues then s.withCore i State.ahead else s) s

/-- The next cycle begins. -/
def State.tick (s : State) : State :=
  let s := s.aheadAll
  let s := s.mapCores (fun _ c => c.tick s.cycle)
  let s := { s with cycle := s.cycle + 1, strokePos := s.strokePos + 1 }
  let s := if dueAt s.cycle s.host.readyAt then s.returnReady else s
  { s with turn := s.turns }

/-- Does an input wait: a move or a change of pages that hold a reserved target, until the range is released (13 R357); a copy, until
the markers of its move's first step have completed; a remapping, until the copy is made (R355)? -/
def State.inputWaits (s : State) (i : Instr) : Bool :=
  match i with
  | .pageMigration asid va _ _ 0 => (match (s.space asid.toNat).leaf none va.toNat with
    | some (_, bits) => s.reserved asid.toNat (va.toNat / 2 ^ bits * 2 ^ bits / 4096) (2 ^ (bits - 12))
    | none => false)
  | .pageMigration asid va _ _ 1 => (match (s.space asid.toNat).moveOf va.toNat with
    | some m => !(s.space asid.toNat).mayCopy m
    | none => false)
  | .pageMigration asid va _ _ 2 | .pageMigration asid va _ _ 5 => (match (s.space asid.toNat).moveOf va.toNat with
    | some m => !(s.space asid.toNat).moveDead m && !s.mayRemap asid.toNat m
    | none => false)
  | .translationChange asid va level pte | .faultSettle asid va level pte =>
    let lv := level.toNat + 1
    let sp := s.space asid.toNat
    !grants (sp.standing lv va.toNat) (sp.cowMask pte) && s.reserved asid.toNat (levelPage lv va.toNat) (levelPages lv)
  | _ => false

/-- The first input whose cycle has come and that does not wait, and the state without it. -/
def State.takeInput (s : State) : Option (Instr × State) :=
  match s.inputs.find? (fun e => decide (e.1 ≤ s.cycle) && !s.inputWaits e.2) with
  | some e => some (e.2, { s with inputs := s.inputs.erase e })
  | none => none

/-- The first write of Shogiwald to a register of its own side whose cycle has come, and the state without it. -/
def State.takeFw (s : State) : Option (FwWrite × State) :=
  match s.fw.find? (fun e => decide (e.1 ≤ s.cycle)) with
  | some e => some (e.2, { s with fw := s.fw.erase e })
  | none => none

/-- Shogiwald's write takes effect, and so does what the fabric tells of a task without a record here; a write within the range that the spec
gives the register: HOTTHR 1 to 65535 (13 R354), FREEHI and
FREELO 32 bits (13 R360), STKLEN 4096 to 1048576 and not shorter than four times the measured propagation (16 R387, 20 R436); a value
outside writes nothing. -/
def State.fwWrite (s : State) (w : FwWrite) : State :=
  match w with
  | .hotthr ctl v => if 1 ≤ v ∧ v ≤ 65535 then { s with hotthr := s.hotthr.set 65535 ctl v } else s
  | .freeThr die tier hi lo =>
    if die < 2 ∧ tier < 3 ∧ hi < 2 ^ 32 ∧ lo < 2 ^ 32 then
      ({ s with freeHi := s.freeHi.setIfInBounds (3 * die + tier) hi, freeLo := s.freeLo.setIfInBounds (3 * die + tier) lo }).drainCheck tier
    else s
  | .far job task ended =>
    if (s.recordsOf job).any (fun e => recTask e.2.2 == task) then s
    else if ended then s.countEnd job task false 0 0 0
    else s.modJob job (fun j => { j with afar := insN task j.afar })
  | .stklen v => if 4096 ≤ v ∧ v ≤ 1048576 ∧ 4 * Config.propagation ≤ v then { s with stklen := v } else s

/-- Between cycles: an input that has landed, a write of Shogiwald's, else an event of the device, else the next cycle. -/
def State.between (s : State) : Out :=
  match s.takeInput, s.takeFw with
  | some (i, s), _ => exec i s
  | none, some (w, s) => .next (s.fwWrite w)
  | none, none => match s.deviceEvent with
    | some o => o
    | none => .next s.tick

/-- The turn at the head of the list: an event of its core, as long as one is due; its issue. -/
def State.runTurn (s : State) : Turn → List Turn → Out
  | .events c, t =>
    let f := s.focus c
    match f.nextEvent with
    | some e => f.runEvent e
    | none => .next { f with turn := t }
  | .issue c, t => { s.focus c with turn := t }.issueTurn

end Sys2Proof.Machine
end

