-- ==== Sys2Proof/Machine/Step.lean ====
section
/-! DEFINITION. One step of the machine. -/

namespace Sys2Proof.Machine

open Sys2Proof

/-- One step: the turn at the head of the cycle's list, or what lies between cycles. -/
def step (s : State) : Out :=
  match s.turn with
  | [] => s.between
  | t :: l => s.runTurn t l

/-- An instruction's parcels placed in the parcel cache at the program counter of the focused core, which stands ready to issue
in this step. -/
def State.withFetchWord (s : State) (_nbits w : Nat) : State :=
  let n := s.core.pc.toNat / 32
  let v := w * 2 ^ (16 * (s.core.pc.toNat % 32))
  { s with turn := [.issue s.cid],
           core := { s.core with task := { s.core.task with phase := .running, gsize := 1, fresh := false }, hold := {}, back := none, strike := none,
                                 iss := {}, lines := [(n, BitVec.ofNat 512 v), (n + 1, BitVec.ofNat 512 (v / 2 ^ 512))],
                                 wl := { s.core.wl with active := false } } }

end Sys2Proof.Machine
end

