-- ==== Sys2Proof/Safety.lean ====
section
/-! DEFINITION. What counts as a safe run. -/

namespace Sys2Proof.Machine

open Sys2Proof

/-- A step that neither faults nor is refused. -/
def Goes (s : State) : Prop := ∃ t, step s = .next t

/-- `n` steps that neither fault nor are refused. -/
def SafeFor : Nat → State → Prop
  | 0, _ => True
  | n + 1, s => ∃ t, step s = .next t ∧ SafeFor n t

/-- The reserved fields and hard-wired registers of a core read as the spec says: Q0 true, X0 zero (01 R13, R14). -/
def Core.wired (c : Core) : Prop := c.x 0 = 0 ∧ c.q 0 = true

end Sys2Proof.Machine
end

