-- ==== Sys2Proof/Certificates/Slice0/Obligations.lean ====
section
/-! DEFINITION. The statements for the provers. Words that several statements share stand in Sys2Proof.Stmt; the statements
themselves are Obligations. A premise Sparse.wf says that a table or array of the state is in its one canonical form; a premise Plain
that the core is in no pair, whose effects wait for a comparison. -/

section
open Sys2Proof Sys2Proof.Machine

/-! ### Words that the statements share -/

namespace Sys2Proof.Stmt

/-- `t` is `s` but for the results in flight, to which some are added, and the issue number: every register, flag, tile, port,
special register and byte of memory is as it was. -/
def OnlyInFlight (s t : State) : Prop :=
  ∃ (l : List Pend) (n : Nat),
    t = { s with core := { s.core with flight := s.core.flight ++ l, iss := { s.core.iss with seq := n } } }

/-- The same, but for detections under way, of which some are cancelled. -/
def OnlyInFlightOrDetect (s t : State) : Prop :=
  ∃ (l : List Pend) (n : Nat) (d : List Detect),
    t = { s with core := { s.core with flight := s.core.flight ++ l, dets := d, iss := { s.core.iss with seq := n } } }

/-- The bundle is held: nothing else of the state differs. -/
def Held (s t : State) : Prop := t = { s with core := { s.core with iss := { s.core.iss with verdict := .held } } }

/-- Every byte of memory reads as before. -/
def SameBytes (s t : State) : Prop := ∀ a : Nat, t.readByte a = s.readByte a

/-- The X, Q, H, MA and staging registers and the special registers that taking a trap does not write. -/
def SameRegisters (s t : State) : Prop :=
  t.core.r.x = s.core.r.x ∧ t.core.r.q = s.core.r.q ∧ t.core.r.h = s.core.r.h ∧ t.core.r.ma = s.core.r.ma ∧
  t.core.r.stg = s.core.r.stg ∧ t.core.r.excmask = s.core.r.excmask ∧ t.core.r.fpstat = s.core.r.fpstat ∧
  t.core.r.decstat = s.core.r.decstat ∧ t.core.r.rmode = s.core.r.rmode ∧ t.core.r.tasknum = s.core.r.tasknum ∧
  t.core.r.seqlen = s.core.r.seqlen ∧ t.core.r.patbank = s.core.r.patbank ∧ t.core.r.wptr = s.core.r.wptr

/-- Has the task issued HALT, or been ended, already? -/
def Ending (c : Core) : Prop := ∃ f n e d, c.task.phase = .ending f n e d

/-- Taking trap `k` with the handler at offset `h`, from `s`: cause registers with TRAPPC `pc`, INH set and no other bit of
KSTAT changed but WLACT, which clears; the results in flight captured with the cycles they have left; the first bundle of the
handler 4 cycles later. -/
def TrapTaken (s t : State) (k : Trap) (pc : ParcelIx) (h : Nat) : Prop :=
  t.core.r.tcause = BitVec.ofNat 64 (k.slot % 16 * 256 + k.code % 256) ∧ t.core.r.tpc = pc.setWidth 64 ∧
  t.core.r.taddr = k.addr ∧ t.core.r.tinfo = k.info ∧ t.core.r.inh = true ∧
  (∀ b : Nat, b ≠ 6 → b ≠ 1 → t.core.r.kstat.getLsbD b = s.core.r.kstat.getLsbD b) ∧
  t.core.pc = BitVec.ofNat 47 (s.core.kern.text + h) ∧ t.core.iss.ready = s.cycle + 4 ∧
  t.core.captured = s.core.captured ++
    (s.core.flight.filter (fun p => !(p.w.engine || p.ans))).map (fun p => { p with due := p.due - s.cycle }) ++ s.core.halted ∧
  t.core.flight = s.core.flight.filter (fun p => p.w.engine || p.ans) ∧
  SameRegisters s t ∧ SameBytes s t ∧ t.cycle = s.cycle

/-- May a trap start a handler: the task has one, is no gang, has INH clear and has not issued HALT? -/
def Handles (c : Core) (h : Nat) : Prop :=
  c.kern.handler = some h ∧ c.r.gsize ≤ 1 ∧ c.r.inh = false ∧ ¬ Ending c

/-- Granule g of the scratchpad lies in a run of the free map. -/
def FreeAt (c : Core) (g : Nat) : Prop := ∃ r ∈ c.free, r.1 ≤ g ∧ g < r.2

end Sys2Proof.Stmt

open Sys2Proof.Stmt
/-! ### Scalar operations -/

/-- An operation whose guard predicate reads false at issue leaves the state as it is: for every operation of every slot
(`Instr.guard` is its guard; the events, which have none, read the predicate that always executes). -/
def Obligations.GuardFalseNoEffect : Prop :=
  ∀ (i : Instr) (s : State), s.core.guard i.guard = false → exec i s = .next s

/-- The register-form integer operations of Table 1 complete with the result of the table, from the values that the
registers hold at issue, visible 1 cycle later, and 3 cycles later for MUL, MULH and MULHU: products by the 128-bit product of
the extended operands, CLZ and POPC as counts, SEXT and ZEXT of 8, 16 and 32 bits. -/
def Sys2Proof.Stmt.IntegerRegisterResults : Prop :=
  ∀ (s : State) (g : Guard) (d a b : XReg), s.core.guard g = true →
    let x := s.core.x a
    let y := s.core.x b
    exec (.add g d a b) s = .next (s.schedX 1 d (x + y)) ∧
    exec (.sub g d a b) s = .next (s.schedX 1 d (x - y)) ∧
    exec (.and_ g d a b) s = .next (s.schedX 1 d (x &&& y)) ∧
    exec (.or_ g d a b) s = .next (s.schedX 1 d (x ||| y)) ∧
    exec (.xor g d a b) s = .next (s.schedX 1 d (x ^^^ y)) ∧
    exec (.shl g d a b) s = .next (s.schedX 1 d (x <<< (y.extractLsb' 0 6).toNat)) ∧
    exec (.shr g d a b) s = .next (s.schedX 1 d (x >>> (y.extractLsb' 0 6).toNat)) ∧
    exec (.sar g d a b) s = .next (s.schedX 1 d (x.sshiftRight (y.extractLsb' 0 6).toNat)) ∧
    exec (.mul g d a b) s = .next (s.schedX 3 d (x * y)) ∧
    exec (.mulh g d a b) s = .next (s.schedX 3 d ((x.signExtend 128 * y.signExtend 128).extractLsb' 64 64)) ∧
    exec (.mulhu g d a b) s = .next (s.schedX 3 d ((x.setWidth 128 * y.setWidth 128).extractLsb' 64 64)) ∧
    exec (.min_ g d a b) s = .next (s.schedX 1 d (if x.toInt ≤ y.toInt then x else y)) ∧
    exec (.max_ g d a b) s = .next (s.schedX 1 d (if x.toInt ≤ y.toInt then y else x)) ∧
    exec (.minu g d a b) s = .next (s.schedX 1 d (if x.toNat ≤ y.toNat then x else y)) ∧
    exec (.maxu g d a b) s = .next (s.schedX 1 d (if x.toNat ≤ y.toNat then y else x)) ∧
    exec (.clz g d a) s = .next (s.schedX 1 d x.clz) ∧
    exec (.popc g d a) s = .next (s.schedX 1 d x.cpop) ∧
    exec (.sext g 0 d a) s = .next (s.schedX 1 d ((x.extractLsb' 0 8).signExtend 64)) ∧
    exec (.sext g 1 d a) s = .next (s.schedX 1 d ((x.extractLsb' 0 16).signExtend 64)) ∧
    exec (.sext g 2 d a) s = .next (s.schedX 1 d ((x.extractLsb' 0 32).signExtend 64)) ∧
    exec (.zext g 0 d a) s = .next (s.schedX 1 d ((x.extractLsb' 0 8).setWidth 64)) ∧
    exec (.zext g 1 d a) s = .next (s.schedX 1 d ((x.extractLsb' 0 16).setWidth 64)) ∧
    exec (.zext g 2 d a) s = .next (s.schedX 1 d ((x.extractLsb' 0 32).setWidth 64))

/-- Division never traps: DIV, DIVU, REM and REMU complete for all operands, 18 cycles later. A zero divisor gives all ones
and the dividend; the most negative dividend by -1 gives itself and 0; otherwise the signed forms give the quotient truncated
toward zero and the remainder with the dividend's sign, the unsigned forms the quotient and remainder of the numbers. At its
issue each holds the divider, whatever its guard, for its own issue cycle and the 17 after it: the count falls by 1 at each issue without a
division, and another division issued before it is 0 raises ENC. -/
def Obligations.DivisionResults : Prop :=
  ∀ (s : State) (g : Guard) (d a b : XReg), s.core.guard g = true →
    let x := s.core.x a
    let y := s.core.x b
    ∃ q u r v : Word,
      exec (.div g d a b) s = .next (s.schedX 18 d q) ∧ exec (.divu g d a b) s = .next (s.schedX 18 d u) ∧
      exec (.rem g d a b) s = .next (s.schedX 18 d r) ∧ exec (.remu g d a b) s = .next (s.schedX 18 d v) ∧
      (y = 0 → q = 0xFFFFFFFFFFFFFFFF ∧ u = 0xFFFFFFFFFFFFFFFF ∧ r = x ∧ v = x) ∧
      (x = 0x8000000000000000 ∧ y = 0xFFFFFFFFFFFFFFFF → q = x ∧ r = 0) ∧
      (y ≠ 0 ∧ ¬(x = 0x8000000000000000 ∧ y = 0xFFFFFFFFFFFFFFFF) →
        q.toInt = x.toInt.tdiv y.toInt ∧ r.toInt = x.toInt.tmod y.toInt) ∧
      (y ≠ 0 → u.toNat = x.toNat / y.toNat ∧ v.toNat = x.toNat % y.toNat) ∧
      (∀ (c : Core) (p : Part) (n : Nat), p.2.1.ops = [(n, some (.div g d a b))] → (c.iss.issued [p]).divHold = 17) ∧
      (∀ (c : Core) (p : Part) (n : Nat), p.2.1.ops = [(n, some (.divu g d a b))] → (c.iss.issued [p]).divHold = 17) ∧
      (∀ (c : Core) (p : Part) (n : Nat), p.2.1.ops = [(n, some (.rem g d a b))] → (c.iss.issued [p]).divHold = 17) ∧
      (∀ (c : Core) (p : Part) (n : Nat), p.2.1.ops = [(n, some (.remu g d a b))] → (c.iss.issued [p]).divHold = 17) ∧
      (∀ (c : Core) (l : List Part), (∀ o ∈ realOps l, o.2.divides = false) → (c.iss.issued l).divHold = c.iss.divHold - 1) ∧
      (∀ (c : Core) (l : List (Nat × Instr)), 0 < c.iss.divHold → (∃ o ∈ l, o.2.divides = true) → c.stepFour l = true)

/-- The immediate forms of Table 3 complete with the result of the table, visible 1 cycle later; sext(imm32) is imm32
sign-extended to 64 bits, and the shift counts are 0 to 63. -/
def Sys2Proof.Stmt.IntegerImmediateResults : Prop :=
  ∀ (s : State) (g : Guard) (d a : XReg) (imm : BitVec 32) (k : BitVec 6), s.core.guard g = true →
    let x := s.core.x a
    exec (.addi g d a imm) s = .next (s.schedX 1 d (x + imm.signExtend 64)) ∧
    exec (.andi g d a imm) s = .next (s.schedX 1 d (x &&& imm.signExtend 64)) ∧
    exec (.ori g d a imm) s = .next (s.schedX 1 d (x ||| imm.signExtend 64)) ∧
    exec (.xori g d a imm) s = .next (s.schedX 1 d (x ^^^ imm.signExtend 64)) ∧
    exec (.shlImm g d a k) s = .next (s.schedX 1 d (x <<< k.toNat)) ∧
    exec (.shrImm g d a k) s = .next (s.schedX 1 d (x >>> k.toNat)) ∧
    exec (.sarImm g d a k) s = .next (s.schedX 1 d (x.sshiftRight k.toNat)) ∧
    exec (.movi g d imm) s = .next (s.schedX 1 d (imm.signExtend 64)) ∧
    exec (.movhi g d a imm) s = .next (s.schedX 1 d (imm ++ x.extractLsb' 0 32))

/-- The register-form integer operations of Table 1 complete with the result of the table, from the values that the registers hold at issue,
visible 1 cycle later, and 3 cycles later for MUL, MULH and MULHU: products by the 128-bit product of the extended operands, CLZ and
POPC as counts, SEXT and ZEXT of 8, 16 and 32 bits. The immediate forms of Table 3 complete with the result of the table, visible 1
cycle later; sext(imm32) is imm32 sign-extended to 64 bits, and the shift counts are 0 to 63. -/
def Obligations.IntegerResults : Prop :=
  Sys2Proof.Stmt.IntegerRegisterResults ∧ Sys2Proof.Stmt.IntegerImmediateResults

/-- The scalar floating operations complete 4 cycles after issue, with a result under RMODE.RM and its flags: in FP64, or in FP32
from bits 31:0 of each source with the result zero-extended. The operands are bits of a format, the results those of the
format's operations (02 R46 to R60); FCLASS raises no flag. -/
def Obligations.ScalarFloatResults : Prop :=
  ∀ (s : State) (g : Guard) (dbl : Bool) (d a b : XReg) (q : QReg), s.core.guard g = true →
    let f : Fmt := if dbl then .fp64 else .fp32
    let bits (r : XReg) : Nat := if dbl then (s.core.x r).toNat else ((s.core.x r).extractLsb' 0 32).toNat
    let lo (r : XReg) : Nat := ((s.core.x r).extractLsb' 0 32).toNat
    let dir := Rnd.ofMode (s.core.r.rmode.toNat % 4)
    let put (r : Res) : Out := .next (s.sched 4 (.xfp d (BitVec.ofNat 64 r.1) r.2))
    let putQ (r : Bool × Flags) : Out := .next (s.sched 4 (.qfp q r.1 r.2))
    exec (.fadd g dbl d a b) s = put (f.add dir (bits a) (bits b)) ∧
    exec (.fsub g dbl d a b) s = put (f.sub dir (bits a) (bits b)) ∧
    exec (.fmul g dbl d a b) s = put (f.mul dir (bits a) (bits b)) ∧
    exec (.ffma g dbl d a b) s = put (f.fma dir (bits a) (bits b) (bits d)) ∧
    exec (.fmin g dbl d a b) s = put (f.minmax false (bits a) (bits b)) ∧
    exec (.fmax g dbl d a b) s = put (f.minmax true (bits a) (bits b)) ∧
    exec (.fcvtS2d g d a) s = put (Fmt.fp64.ofBin dir false (Fmt.fp32.decode (lo a))) ∧
    exec (.fcvtD2s g d a) s = put (Fmt.fp32.ofBin dir false (Fmt.fp64.decode (s.core.x a).toNat)) ∧
    exec (.fcvtS2l g d a) s = put (Fmt.int64.intOfBin dir (Fmt.fp32.decode (lo a))) ∧
    exec (.fcvtD2l g d a) s = put (Fmt.int64.intOfBin dir (Fmt.fp64.decode (s.core.x a).toNat)) ∧
    exec (.fcvtL2s g d a) s = put (Fmt.fp32.binOfInt dir false (s.core.x a).toInt) ∧
    exec (.fcvtL2d g d a) s = put (Fmt.fp64.binOfInt dir false (s.core.x a).toInt) ∧
    exec (.fcmpEq g dbl q a b) s = putQ (f.cmpB 0 (bits a) (bits b)) ∧
    exec (.fcmpLt g dbl q a b) s = putQ (f.cmpB 2 (bits a) (bits b)) ∧
    exec (.fcmpLe g dbl q a b) s = putQ (f.cmpB 3 (bits a) (bits b)) ∧
    exec (.fcmpUn g dbl q a b) s = putQ (f.cmpB 6 (bits a) (bits b)) ∧
    exec (.fclass g dbl d a) s = put (f.classMask (bits a), 0)

/-- CMP and CMPI complete 1 cycle after issue with the relation of Table 6, over the signed or unsigned numbers; PLOG with its
function of the two predicates. -/
def Sys2Proof.Stmt.CompareAndLogicResults : Prop :=
  ∀ (s : State) (g : Guard) (d : QReg) (a b : XReg) (p q : QReg) (imm : BitVec 32), s.core.guard g = true →
    let x := s.core.x a
    let y := s.core.x b
    let m := imm.signExtend 64
    let put (v : Bool) : Out := .next (s.sched 1 (.q d v))
    exec (.cmpEq g d a b) s = put (decide (x = y)) ∧ exec (.cmpNe g d a b) s = put (decide (x ≠ y)) ∧
    exec (.cmpLt g d a b) s = put (decide (x.toInt < y.toInt)) ∧ exec (.cmpGe g d a b) s = put (decide (y.toInt ≤ x.toInt)) ∧
    exec (.cmpLtu g d a b) s = put (decide (x.toNat < y.toNat)) ∧ exec (.cmpGeu g d a b) s = put (decide (y.toNat ≤ x.toNat)) ∧
    exec (.cmpBt g d a b) s = put (decide (x &&& y ≠ 0)) ∧
    exec (.cmpiEq g d a imm) s = put (decide (x = m)) ∧ exec (.cmpiNe g d a imm) s = put (decide (x ≠ m)) ∧
    exec (.cmpiLt g d a imm) s = put (decide (x.toInt < m.toInt)) ∧ exec (.cmpiGe g d a imm) s = put (decide (m.toInt ≤ x.toInt)) ∧
    exec (.cmpiLtu g d a imm) s = put (decide (x.toNat < m.toNat)) ∧
    exec (.cmpiGeu g d a imm) s = put (decide (m.toNat ≤ x.toNat)) ∧ exec (.cmpiBt g d a imm) s = put (decide (x &&& m ≠ 0)) ∧
    exec (.plogAnd g d p q) s = put (s.core.q p && s.core.q q) ∧ exec (.plogOr g d p q) s = put (s.core.q p || s.core.q q) ∧
    exec (.plogXor g d p q) s = put (s.core.q p ^^ s.core.q q) ∧ exec (.plogAndn g d p q) s = put (s.core.q p && !s.core.q q) ∧
    exec (.plogOrn g d p q) s = put (s.core.q p || !s.core.q q) ∧ exec (.plogNand g d p q) s = put (!s.core.q p || !s.core.q q) ∧
    exec (.plogNor g d p q) s = put (!s.core.q p && !s.core.q q) ∧ exec (.plogXnor g d p q) s = put (!(s.core.q p ^^ s.core.q q))

/-- SEL writes X[a] where Q[cls] reads true and X[b] otherwise; MOVP.get writes the word whose bit i is Q[i] for i = 0 to 15
and 0 above, MOVP.put writes Q1 to Q15 together from bits 15:1 of X[a], MOVP.qx and MOVP.xq one predicate; each 1 cycle
after issue. -/
def Sys2Proof.Stmt.SelectAndPredicateMoves : Prop :=
  ∀ (s : State) (g : Guard) (d a b : XReg) (p q : QReg), s.core.guard g = true →
    exec (.sel g d a b q) s = .next (s.schedX 1 d (bif s.core.q q then s.core.x a else s.core.x b)) ∧
    (∃ w : Word, exec (.movpGet g d) s = .next (s.schedX 1 d w) ∧
      ∀ i : Nat, w.getLsbD i = if i < 16 then s.core.q (BitVec.ofNat 4 i) else false) ∧
    (∃ t, exec (.movpPut g a) s = .next t ∧ t = s.sched 1 (.qAll ((s.core.x a).setWidth 16)) ∧
      ∀ (c : Core) (now : Nat) (i : QReg), (c.applyWrite now (.qAll ((s.core.x a).setWidth 16))).q i =
        if i = 0 then true else (s.core.x a).getLsbD i.toNat) ∧
    exec (.movpQx g d q) s = .next (s.schedX 1 d (bif s.core.q q then 1 else 0)) ∧
    exec (.movpXq g p a) s = .next (s.sched 1 (.q p (decide (s.core.x a ≠ 0))))

/-- CMP and CMPI complete 1 cycle after issue with the relation of Table 6, over the signed or unsigned numbers; PLOG with its function of
the two predicates. SEL writes X[a] where Q[cls] reads true and X[b] otherwise; MOVP.get writes the word whose bit i is Q[i] for i = 0
to 15 and 0 above, MOVP.put writes Q1 to Q15 together from bits 15:1 of X[a], MOVP.qx and MOVP.xq one predicate; each 1 cycle after
issue. -/
def Obligations.PredicateOperations : Prop :=
  Sys2Proof.Stmt.CompareAndLogicResults ∧ Sys2Proof.Stmt.SelectAndPredicateMoves

/-- A taken transfer sets the program counter to its target and lets the target bundle issue 3 cycles later; CALL writes the
parcel after its bundle to X[link], LOOP counts X[link] down by 1 and transfers unless the count is then 0, both 1 cycle
after issue. The target of a displacement counts from the bundle's first parcel; BRX and RET take bits 46:0 of X[a]. -/
def Obligations.ControlTransfers : Prop :=
  ∀ (s : State) (g : Guard) (a : XReg) (disp : BitVec 32), s.core.guard g = true →
    let goto (s : State) (pc : ParcelIx) : State :=
      { s with core := { s.core with pc := pc, iss := { s.core.iss with ready := s.cycle + 3 } } }
    let target := s.core.iss.pc + disp.signExtend 47
    let n := s.core.x a - 1
    exec (.br g disp) s = .next (goto s target) ∧
    exec (.brx g a) s = .next (goto s ((s.core.x a).setWidth 47)) ∧
    exec (.ret g a) s = .next (goto s ((s.core.x a).setWidth 47)) ∧
    exec (.call g a disp) s = .next (goto (s.schedX 1 a (s.core.iss.next.setWidth 64)) target) ∧
    (n ≠ 0 → exec (.loop g a disp) s = .next (goto (s.schedX 1 a n) target)) ∧
    (n = 0 → exec (.loop g a disp) s = .next (s.schedX 1 a n))

/-! ### Results, frames, traps and waits -/

/-- Which operations only read registers at issue and put register results in flight. -/
def Sys2Proof.Stmt.registerOnly : Instr → Bool
  | .add _ _ _ _ | .sub _ _ _ _ | .and_ _ _ _ _ | .or_ _ _ _ _ | .xor _ _ _ _ | .shl _ _ _ _ | .shr _ _ _ _ | .sar _ _ _ _
  | .mul _ _ _ _ | .mulh _ _ _ _ | .mulhu _ _ _ _ | .div _ _ _ _ | .divu _ _ _ _ | .rem _ _ _ _ | .remu _ _ _ _
  | .min_ _ _ _ _ | .max_ _ _ _ _ | .minu _ _ _ _ | .maxu _ _ _ _ | .clz _ _ _ | .popc _ _ _ | .sext _ _ _ _ | .zext _ _ _ _
  | .addi _ _ _ _ | .andi _ _ _ _ | .ori _ _ _ _ | .xori _ _ _ _ | .shlImm _ _ _ _ | .shrImm _ _ _ _ | .sarImm _ _ _ _
  | .movi _ _ _ | .movhi _ _ _ _ | .fadd _ _ _ _ _ | .fsub _ _ _ _ _ | .fmul _ _ _ _ _ | .ffma _ _ _ _ _ | .fmin _ _ _ _ _
  | .fmax _ _ _ _ _ | .fcvtS2d _ _ _ | .fcvtD2s _ _ _ | .fcvtS2l _ _ _ | .fcvtD2l _ _ _ | .fcvtL2s _ _ _ | .fcvtL2d _ _ _
  | .fcmpEq _ _ _ _ _ | .fcmpLt _ _ _ _ _ | .fcmpLe _ _ _ _ _ | .fcmpUn _ _ _ _ _ | .fclass _ _ _ _ | .cmpEq _ _ _ _
  | .cmpNe _ _ _ _ | .cmpLt _ _ _ _ | .cmpGe _ _ _ _ | .cmpLtu _ _ _ _ | .cmpGeu _ _ _ _ | .cmpBt _ _ _ _ | .cmpiEq _ _ _ _
  | .cmpiNe _ _ _ _ | .cmpiLt _ _ _ _ | .cmpiGe _ _ _ _ | .cmpiLtu _ _ _ _ | .cmpiGeu _ _ _ _ | .cmpiBt _ _ _ _
  | .plogAnd _ _ _ _ | .plogOr _ _ _ _ | .plogXor _ _ _ _ | .plogAndn _ _ _ _ | .plogOrn _ _ _ _ | .plogNand _ _ _ _
  | .plogNor _ _ _ _ | .plogXnor _ _ _ _ | .sel _ _ _ _ _ | .movpGet _ _ | .movpPut _ _ | .movpQx _ _ _ | .movpXq _ _ _
  | .cwrite _ _ _ | .hmov _ _ _ | .hset _ _ _ _ | .hget _ _ _ _ | .hmkt _ _ _ _ | .hmkw _ _ _ _ _ | .portsetClr _ _
  | .portget _ _ _ _ | .stgPut _ _ _ | .stgGet _ _ _ | .maput _ _ _ | .patsw _ | .ktclr _ | .ktgetNode _ _ _
  | .ktgetDepth _ _ _ | .ktgetNodes _ _ | .wlcfg _ _ _ _ | .wlstat _ _ _ _ | .setseq _ _ => true
  | _ => false

/-- The frame of the operations that only read registers (integer, floating, compare, predicate, select, register moves, handle,
port, staging, MA, tree and Windlass reads, CWRITE): when one answers a next state, nothing of the state differs but the
results it put in flight and the issue number; every register, flag, tile, port, special register and byte of memory is as
it was, whatever the guard. -/
def Obligations.RegisterOperationsFrame : Prop :=
  ∀ (i : Instr) (s t : State), registerOnly i = true → exec i s = .next t → OnlyInFlight s t ∧ SameBytes s t

/-- A register result takes effect at its visible cycle: where one result is due, RESULT_VISIBLE writes it to its
destination, takes it out of flight and leaves every other register, every tile and every byte of memory as it was. A write to X0 or Q0 is
discarded; MOVP.put writes Q1 to Q15 together; a floating result also raises its flags in FPSTAT. Results not yet due stay. -/
def Sys2Proof.Stmt.RegisterResultsBecomeVisible1 : Prop :=
  ∀ (s : State) (p : Pend), s.core.flight.filter (fun q => decide (q.due ≤ s.cycle)) = [p] →
    ∃ t, exec .resultVisible s = .next t ∧
      let old := s.core.r
      let done (r : Arch) : Prop :=
        t.core.r = r ∧ t.core.flight = s.core.flight.filter (fun q => decide (s.cycle < q.due)) ∧ t.core.tiles = s.core.tiles ∧
        t.core.sp = s.core.sp ∧ t.core.ports = s.core.ports ∧ t.core.tree = s.core.tree ∧ t.core.pc = s.core.pc ∧ SameBytes s t
      (∀ d v, p.w = .x d v → done { old with x := t.core.r.x } ∧ ∀ i, t.core.x i = if i = d ∧ d ≠ 0 then v else s.core.x i) ∧
      (∀ d v, p.w = .q d v → done { old with q := t.core.r.q } ∧ ∀ i, t.core.q i = if i = d ∧ d ≠ 0 then v else s.core.q i) ∧
      (∀ v, p.w = .qAll v → done { old with q := t.core.r.q } ∧ ∀ i, t.core.q i = if i = 0 then true else v.getLsbD i.toNat) ∧
      (∀ d v, p.w = .h d v → done { old with h := t.core.r.h } ∧ ∀ i, t.core.h i = if i = d then v else s.core.h i) ∧
      (∀ d v, p.w = .ma d v → done { old with ma := t.core.r.ma } ∧ ∀ i, t.core.ma i = if i = d then v else s.core.ma i) ∧
      (∀ d v, p.w = .stg d v → done { old with stg := t.core.r.stg } ∧ ∀ i, t.core.stg i = if i = d then v else s.core.stg i) ∧
      (∀ v, p.w = .seqlen v → done { old with seqlen := v }) ∧
      (∀ d v fl, p.w = .xfp d v fl →
        done { old with x := t.core.r.x, fpstat := old.fpstat ||| (fl.extractLsb' 0 7).setWidth 64 } ∧
        ∀ i, t.core.x i = if i = d ∧ d ≠ 0 then v else s.core.x i) ∧
      (∀ d v fl, p.w = .qfp d v fl →
        done { old with q := t.core.r.q, fpstat := old.fpstat ||| (fl.extractLsb' 0 7).setWidth 64 } ∧
        ∀ i, t.core.q i = if i = d ∧ d ≠ 0 then v else s.core.q i)

/-- When two writes to one register become visible in the same cycle, the value of the later-issued operation stands (results in flight
are listed in issue order); a result that is not due has no effect yet and stays in flight. For X, Q, H, MA and staging registers. -/
def Sys2Proof.Stmt.LaterIssuedWriteStands : Prop :=
  ∀ (s : State) (p q : Pend), s.core.flight.filter (fun k => decide (k.due ≤ s.cycle)) = [p, q] →
    p.seq < q.seq → ∃ t, exec .resultVisible s = .next t ∧ t.core.flight = s.core.flight.filter (fun k => decide (s.cycle < k.due)) ∧
      (∀ d v w, d ≠ 0 → p.w = .x d v → q.w = .x d w → t.core.x d = w ∧ ∀ i, i ≠ d → t.core.x i = s.core.x i) ∧
      (∀ d v w, d ≠ 0 → p.w = .q d v → q.w = .q d w → t.core.q d = w ∧ ∀ i, i ≠ d → t.core.q i = s.core.q i) ∧
      (∀ d v w, p.w = .h d v → q.w = .h d w → t.core.h d = w ∧ ∀ i, i ≠ d → t.core.h i = s.core.h i) ∧
      (∀ d v w, p.w = .ma d v → q.w = .ma d w → t.core.ma d = w ∧ ∀ i, i ≠ d → t.core.ma i = s.core.ma i) ∧
      (∀ d v w, p.w = .stg d v → q.w = .stg d w → t.core.stg d = w ∧ ∀ i, i ≠ d → t.core.stg i = s.core.stg i)

/-- A register result takes effect at its visible cycle: where one result is due, RESULT_VISIBLE writes it to its destination, takes it out
of flight and leaves every other register, every tile and every byte of memory as it was. A write to X0 or Q0 is discarded; MOVP.put
writes Q1 to Q15 together; a floating result also raises its flags in FPSTAT. Results not yet due stay. When two writes to one register
become visible in the same cycle, the value of the later-issued operation stands (results in flight are listed in issue order); a result
that is not due has no effect yet and stays in flight. For X, Q, H, MA and staging registers. -/
def Obligations.RegisterResultsBecomeVisible : Prop :=
  Sys2Proof.Stmt.RegisterResultsBecomeVisible1 ∧ Sys2Proof.Stmt.LaterIssuedWriteStands

/-- CWRITE writes X[a] 1 cycle later, and what Table 14 lists takes it: TRAPPC bits 46:0; EXCMASK's two fields; FPSTAT and
DECSTAT cleared where a bit is 1; RMODE.RM, and RMODE.DRM unless reserved; KSTAT bit 5. Every other number, every other bit and
every other register ignores the write. -/
def Sys2Proof.Stmt.ControlRegisterWrites : Prop :=
  (∀ (s : State) (g : Guard) (a : XReg) (num : BitVec 32), s.core.guard g = true →
    exec (.cwrite g a num) s = .next (s.sched 1 (.ctl num.toNat (s.core.x a)))) ∧
  ∀ (c : Core) (now : Nat) (v : Word) (n : Nat),
    let d (n : Nat) : Core := c.applyWrite now (.ctl n v)
    d 0x02 = { c with r := { c.r with tpc := (v.extractLsb' 0 47).setWidth 64 } } ∧
    d 0x08 = { c with r := { c.r with excmask := v &&& 0x1F1F } } ∧
    d 0x09 = { c with r := { c.r with fpstat := c.r.fpstat &&& ~~~v } } ∧
    d 0x0A = { c with r := { c.r with decstat := c.r.decstat &&& ~~~v } } ∧
    ((d 0x0B).r.rm = v.toNat % 4 ∧ (d 0x0B).r.drm = (if v.toNat / 16 % 8 ≤ 4 then v.toNat / 16 % 8 else c.r.drm) ∧
      d 0x0B = { c with r := { c.r with rmode := (d 0x0B).r.rmode } }) ∧
    ((∀ b : Nat, (d 0x00).r.kstat.getLsbD b = if b = 5 then v.getLsbD 5 else c.r.kstat.getLsbD b) ∧
      d 0x00 = { c with r := { c.r with kstat := (d 0x00).r.kstat } }) ∧
    (n ∉ [0x00, 0x02, 0x08, 0x09, 0x0A, 0x0B] → d n = c)

/-- CREAD writes the register its number names to X[d], 3 cycles later, on a core outside protected mode: every register of the
state under its number. The place of a core is its own; that PKGNUM reads 0 is the model's choice (log 6). -/
def Sys2Proof.Stmt.ControlRegisterReads : Prop :=
  ∀ (s : State) (g : Guard) (d : XReg), s.core.guard g = true → s.core.r.prot = false → s.core.r.chk = false →
    let r := s.core.r
    let n (k : Nat) : Word := BitVec.ofNat 64 k
    (∀ e ∈ [(0x00, r.kstat), (0x01, r.tcause), (0x02, r.tpc), (0x03, r.taddr), (0x04, r.tinfo[0]), (0x05, r.tinfo[1]),
        (0x06, r.tinfo[2]), (0x07, r.tinfo[3]), (0x08, r.excmask), (0x09, r.fpstat), (0x0A, r.decstat), (0x0B, r.rmode),
        (0x0C, n s.core.task.gpos), (0x0D, n (s.cid % 192 % 12)), (0x0E, n (s.cid % 192 / 12)), (0x0F, n (s.cid / 192)), (0x10, 0),
        (0x11, r.tasknum), (0x12, r.seqlen), (0x13, n s.stroke), (0x14, n r.cycles), (0x15, n r.segcount), (0x16, n r.rwcount),
        (0x17, n r.scalemiss), (0x18, n r.freegr), (0x19, n r.l1cfg), (0x1A, n s.core.sump.length), (0x1B, n s.core.sumpClasses),
        (0x1C, n r.prcount), (0x1D, if r.patbank then 1 else 0)],
      exec (.cread g d (BitVec.ofNat 32 e.1)) s = .next (s.schedX 3 d e.2)) ∧
    (∀ k : Nat, k < 8 → exec (.cread g d (BitVec.ofNat 32 (0x20 + k))) s = .next (s.schedX 3 d (n (s.core.wptr k)))) ∧
    (∀ k : Nat, k < 64 →
      exec (.cread g d (BitVec.ofNat 32 (0x40 + k))) s = .next (s.schedX 3 d (s.core.omd.get {} k).word))

/-- CWRITE writes X[a] 1 cycle later, and what Table 14 lists takes it: TRAPPC bits 46:0; EXCMASK's two fields; FPSTAT and DECSTAT cleared
where a bit is 1; RMODE.RM, and RMODE.DRM unless reserved; KSTAT bit 5. Every other number, every other bit and every other register
ignores the write. CREAD writes the register its number names to X[d], 3 cycles later, on a core outside protected mode: every register
of the state under its number. The place of a core is its own; that PKGNUM reads 0 is the model's choice (log 6). -/
def Obligations.ControlRegisters : Prop :=
  Sys2Proof.Stmt.ControlRegisterWrites ∧ Sys2Proof.Stmt.ControlRegisterReads

/-- The waits: STKWAIT goes on once STROKE ≥ X[a], with STROKE in X[d] 1 cycle later; PWAIT, where its channel has no pending
fault, once the write pointer has reached X[a] + sext(imm32), and OWAIT once the tile of its handle belongs to the core, with
no other effect. Until then the bundle is held and nothing else changes. OWAIT on another handle raises HANDLE. -/
def Obligations.WaitsHoldOrGoOn : Prop :=
  ∀ (s : State) (g : Guard) (d a : XReg) (ch : BitVec 3) (imm : BitVec 32) (ha : HReg), s.core.guard g = true →
    s.core.r.prot = false → s.core.r.chk = false →
    ((s.core.x a).toNat ≤ s.stroke → exec (.stkwait g d a) s = .next (s.schedX 1 d (BitVec.ofNat 64 s.stroke))) ∧
    (s.stroke < (s.core.x a).toNat → ∃ t, exec (.stkwait g d a) s = .next t ∧ Held s t) ∧
    ((s.core.chan ch.toNat).fault = none →
      ((s.core.x a + imm.signExtend 64).toNat ≤ s.core.wptr ch.toNat → exec (.pwait g ch a imm) s = .next s) ∧
      (s.core.wptr ch.toNat < (s.core.x a + imm.signExtend 64).toNat → ∃ t, exec (.pwait g ch a imm) s = .next t ∧ Held s t)) ∧
    ((s.core.h ha).kind = 1 →
      ((s.core.tile (s.core.h ha).tix).own = 0 → exec (.owait g ha) s = .next s) ∧
      ((s.core.tile (s.core.h ha).tix).own ≠ 0 → ∃ t, exec (.owait g ha) s = .next t ∧ Held s t)) ∧
    ((s.core.h ha).kind ≠ 1 → exec (.owait g ha) s = .next (s.trap 0x06 0 0 (ha.setWidth 64)))

/-- TRAP takes TRAPI where the task has a handler: TRAPCAUSE with SLOT 0, TRAPPC the first parcel of the bundle or pair (of WLRUN's
bundle where a replay runs), TRAPINFO1 the immediate, TRAPINFO2 the parcel index after its own bundle (or the value that names a
replayed bundle), INH set, the results in flight captured, and the handler's first bundle 4 cycles later. -/
def Sys2Proof.Stmt.TrapStartsHandler : Prop :=
  ∀ (s : State) (g : Guard) (imm : BitVec 32) (h : Nat), s.core.guard g = true → Handles s.core h →
    ∃ t, exec (.trap g imm) s = .next t ∧
      TrapTaken s t
        { code := 0x0E, slot := 0, addr := 0,
          info := #v[0, imm.setWidth 64, if s.core.iss.replay then
            BitVec.ofNat 64 (s.core.wl.runIx.toNat + (s.core.wl.entry + s.core.iss.part) % 1024 * 2 ^ 47 + 2 ^ 63)
            else s.core.iss.next.setWidth 64, 0] }
        (if s.core.wl.active then s.core.wl.runIx else s.core.iss.pairPc) h

/-- A trap ends the task, which becomes FAILED, where the kernel has no handler, GSIZE > 1, or INH is set (DBL is then 1): issue
ends with CAUSE the trap's code and ENDPC the pc of the trap; captured results and results in flight are discarded, the registers stay.
After the task's HALT, ENDPC is HALT's and DBL 0. Stated of TRAP. -/
def Sys2Proof.Stmt.TrapEndsTask : Prop :=
  ∀ (s : State) (g : Guard) (imm : BitVec 32), s.core.guard g = true →
    ∃ t, exec (.trap g imm) s = .next t ∧
      ((¬ Ending s.core ∧ (s.core.kern.handler = none ∨ 1 < s.core.r.gsize ∨ s.core.r.inh = true)) →
        t.core.task.phase = .ending true 0x0E (if s.core.wl.active then s.core.wl.runIx else s.core.iss.pairPc) s.core.r.inh ∧
        t.core.captured = [] ∧ (∀ p ∈ t.core.flight, p ∈ s.core.flight ∧ (p.w.engine || p.ans) = true) ∧ t.core.r = s.core.r ∧
        SameBytes s t) ∧
      (∀ c e d, s.core.task.phase = .ending false c e d →
        t.core.task.phase = .ending true 0x0E e false ∧ t.core.r = s.core.r ∧ SameBytes s t)

/-- TRAP takes TRAPI where the task has a handler: TRAPCAUSE with SLOT 0, TRAPPC the first parcel of the bundle or pair (of WLRUN's bundle
where a replay runs), TRAPINFO1 the immediate, TRAPINFO2 the parcel index after its own bundle (or the value that names a replayed
bundle), INH set, the results in flight captured, and the handler's first bundle 4 cycles later. A trap ends the task, which becomes
FAILED, where the kernel has no handler, GSIZE > 1, or INH is set (DBL is then 1): issue ends with CAUSE the trap's code and ENDPC the
pc of the trap; captured results and results in flight are discarded, the registers stay. After the task's HALT, ENDPC is HALT's and DBL
0. Stated of TRAP. -/
def Obligations.TrapEntry : Prop :=
  Sys2Proof.Stmt.TrapStartsHandler ∧ Sys2Proof.Stmt.TrapEndsTask

/-- TRET clears INH and no other bit of KSTAT, goes to TRAPPC, and completes every captured result after its recorded count from the
resumed issue, which is 3 cycles later where no remainder of a trapped operation and no replay waits; while INH is clear it raises
PRIV. -/
def Obligations.ReturnFromTrap : Prop :=
  ∀ (s : State) (g : Guard), s.core.guard g = true →
    (s.core.r.inh = false → exec (.tret g) s = .next (s.trap 0x0D)) ∧
    (s.core.r.inh = true → s.core.resume = none → s.core.wl.susp = false →
      ∃ t, exec (.tret g) s = .next t ∧ t.core.r.inh = false ∧
        (∀ b : Nat, b ≠ 6 → t.core.r.kstat.getLsbD b = s.core.r.kstat.getLsbD b) ∧
        t.core.r = { s.core.r with kstat := t.core.r.kstat } ∧
        t.core.pc = s.core.r.tpc.setWidth 47 ∧ t.core.iss.ready = s.cycle + 3 ∧ t.core.captured = [] ∧
        t.core.flight.length = s.core.flight.length + s.core.captured.length ∧
        (∀ p ∈ s.core.captured, { p with due := s.cycle + 3 + p.due } ∈ t.core.flight) ∧
        (∀ p ∈ s.core.flight, p ∈ t.core.flight) ∧ SameBytes s t)

/-- HALT ends the task's issue after its bundle: the task is ending without failure, with ENDPC the parcel after the bundle; no
further bundle issues; results in flight, accepted commands, routines, memory accesses and sump entries stay to be finished, and no
register changes but WLACT. -/
def Obligations.HaltStopsIssue : Prop :=
  ∀ (s : State) (g : Guard), s.core.guard g = true →
    ∃ t, exec (.halt g) s = .next t ∧ t.core.task.phase = .ending false 0 s.core.iss.next false ∧ t.core.issues = false ∧
      (∀ p ∈ t.core.flight, p ∈ s.core.flight) ∧
      (∀ p ∈ s.core.flight, p ∈ t.core.flight ∨ ∃ k, s.core.wl.itile = some k ∧ p.w = .grant k 10 none) ∧
      t.core.chans = s.core.chans ∧ t.core.mat = s.core.mat ∧ t.core.mu = s.core.mu ∧
      t.core.sump = s.core.sump ∧ t.core.r = { s.core.r with kstat := t.core.r.kstat } ∧
      (∀ b : Nat, b ≠ 1 → t.core.r.kstat.getLsbD b = s.core.r.kstat.getLsbD b) ∧ SameBytes s t

/-! ### Memory -/

namespace Sys2Proof.Stmt

/-- A core outside protected mode. -/
def Plain (s : State) : Prop := s.core.r.prot = false ∧ s.core.r.chk = false

/-- An access has entered the memory unit, behind those there, and nothing else of the core's registers, flags, tiles, results in
flight, sump or of memory has changed. -/
def Entered (s t : State) (p : MuItem → Prop) : Prop :=
  ∃ i, t.core.mu = s.core.mu ++ [i] ∧ i.seq = s.core.iss.seq ∧ i.at_ = s.cycle ∧ p i ∧ t.core.r = s.core.r ∧
    t.core.flight = s.core.flight ∧ t.core.sump = s.core.sump ∧ t.core.tiles = s.core.tiles ∧ t.core.pc = s.core.pc ∧
    t.core.iss.verdict = s.core.iss.verdict ∧ SameBytes s t

/-- An access has entered the sump, behind the entries there; nothing else of registers or memory has changed. -/
def Sumped (s t : State) (p : Sump → Prop) : Prop :=
  ∃ e, t.core.sump = s.core.sump ++ [e] ∧ e.seq = s.core.iss.seq ∧ e.bad = none ∧ p e ∧ t.core.r = s.core.r ∧
    t.core.flight = s.core.flight ∧ t.core.mu = s.core.mu ∧ t.core.tiles = s.core.tiles ∧
    t.core.iss.verdict = s.core.iss.verdict ∧ SameBytes s t

/-- A read of `n` bytes at a virtual address by the core's task meets the pieces `l`; the page is no transposing alias. -/
def Reads (s : State) (va n : Nat) (l : List (Nat × Nat)) : Prop := 
  ∃ e, s.reach s.core.task.asid none va n false (some s.core.iss.seq) = .ok l false e

/-- A write meets the pieces `l`. -/
def Writes (s : State) (va n : Nat) (l : List (Nat × Nat)) : Prop := 
  ∃ e, s.reach s.core.task.asid none va n true (some s.core.iss.seq) = .ok l false e

/-- A store-like access of a kind, with its data, at `va`. -/
def Access (s : State) (k : MuKind) (cls : Cls) (strong : Bool) (va n data : Nat) (l : List (Nat × Nat)) (i : MuItem) : Prop :=
  i.kind = k ∧ i.cls = cls.toNat ∧ i.strong = strong ∧ i.va = va ∧ i.width = n ∧ i.data = data ∧ i.phys = l ∧ s.cycle ≤ i.ready

/-- The address of byte k of an access that meets some pieces. -/
def byteAt (l : List (Nat × Nat)) (k : Nat) : Nat := (byteAddrs l).getD k 0

/-- Of an access of some bytes that meets distinct addresses, the bytes of part `q` alone have been written with data, least significant byte
first; every other byte reads as before. -/
def PartWritten (s t : State) (l : List (Nat × Nat)) (width data : Nat) (q : Nat × Nat) : Prop :=
  (byteAddrs l).length = width → (byteAddrs l).Nodup → q.1 + q.2 ≤ width →
    (∀ k : Nat, q.1 ≤ k → k < q.1 + q.2 → t.readByte (byteAt l k) = BitVec.ofNat 8 (data / 256 ^ k)) ∧
    (∀ a : Nat, (∀ k : Nat, q.1 ≤ k → k < q.1 + q.2 → byteAt l k ≠ a) → t.readByte a = s.readByte a)

/-- No byte outside the pieces of an access has changed. -/
def OutsideSame (s t : State) (l : List (Nat × Nat)) : Prop :=
  ∀ a : Nat, (∀ p ∈ l, ¬ (p.1 ≤ a ∧ a < p.1 + p.2)) → t.readByte a = s.readByte a

/-- An atomic at the one piece at p: memory takes the new value of Table 12, X[d] the old one; nothing else changes. -/
def AtomicDone (s t : State) (k : Nat) (u : Bool) (d : XReg) (cmp : Word) (width data p : Nat) : Prop :=
  let old := leNat ((List.range width).map (fun j => s.readByte (p + j)))
  let new := atomicNew k u (8 * width) old data cmp.toNat
  (∀ a : Nat, t.readByte a = if p ≤ a ∧ a < p + width then BitVec.ofNat 8 (new / 256 ^ (a - p)) else s.readByte a) ∧
  (∀ j, t.core.x j = if j = d ∧ d ≠ 0 then BitVec.ofNat 64 old else s.core.x j) ∧
  t.core.r = { s.core.r with x := t.core.r.x }

/-- A floating add at the one piece at p, outside every reserved range: memory takes the sum rounded to nearest-even, FPSTAT its flags. -/
def AddDone (s t : State) (f data p : Nat) : Prop :=
  let r := (accFmt f).add .rne (leNat ((List.range (accSize f)).map (fun j => s.readByte (p + j)))) data
  (∀ a : Nat, t.readByte a = if p ≤ a ∧ a < p + accSize f then BitVec.ofNat 8 (r.1 / 256 ^ (a - p)) else s.readByte a) ∧
  t.core.r = { s.core.r with fpstat := s.core.r.fpstat ||| (r.2.extractLsb' 0 7).setWidth 64 }

/-- X[d] takes a value, X0 none, and no other register changes. -/
def OnlyX (s t : State) (d : XReg) (v : Word) : Prop :=
  (∀ j, t.core.x j = if j = d ∧ d ≠ 0 then v else s.core.x j) ∧ t.core.r = { s.core.r with x := t.core.r.x }

end Sys2Proof.Stmt

/-- The address checks at issue, with no other effect than the trap: EA bits 63:48 not zero raises DFAULT reason 1; a misaligned
strong LD or ST, LDH or STH (32 bytes) or atomic raises reason 2; TRAPADDR holds EA. A weak LD or ST needs no alignment. -/
def Sys2Proof.Stmt.AddressChecks1 : Prop :=
  ∀ (s : State) (g : Guard) (st : Bool) (w : BitVec 2) (d a b : XReg) (h : HReg) (cls : Cls) (imm : BitVec 32) (off : BitVec 20)
    (w64 u : Bool), s.core.guard g = true →
    let ea := s.core.x a + imm.signExtend 64
    let eh := s.core.x a + off.signExtend 64
    let size : Nat := if w64 then 8 else 4
    let high (x : Word) : Prop := ∃ k : Nat, 48 ≤ k ∧ x.getLsbD k = true
    let low (x : Word) (n : Nat) : Prop := ¬ high x ∧ x.toNat % n ≠ 0
    (high ea → exec (.ld g st w d a cls imm) s = .next (s.trapData ea 1) ∧ exec (.st g st w d a cls imm) s = .next (s.trapData ea 1)) ∧
    (low ea (2 ^ w.toNat) → exec (.ld g true w d a cls imm) s = .next (s.trapData ea 2) ∧
      exec (.st g true w d a cls imm) s = .next (s.trapData ea 2)) ∧
    (high eh → exec (.ldh g st h a cls off) s = .next (s.trapData eh 1) ∧ exec (.sth g st h a cls off) s = .next (s.trapData eh 1)) ∧
    (low eh 32 → exec (.ldh g st h a cls off) s = .next (s.trapData eh 2) ∧ exec (.sth g st h a cls off) s = .next (s.trapData eh 2)) ∧
    (high (s.core.x a) → ∀ i ∈ [Instr.aadd g w64 d a b cls, .amax g w64 u d a b cls, .amin g w64 u d a b cls, .axchg g w64 d a b cls,
      .acas g w64 d a b cls], exec i s = .next (s.trapData (s.core.x a) 1)) ∧
    (low (s.core.x a) size → ∀ i ∈ [Instr.aadd g w64 d a b cls, .amax g w64 u d a b cls, .amin g w64 u d a b cls,
      .axchg g w64 d a b cls, .acas g w64 d a b cls], exec i s = .next (s.trapData (s.core.x a) 2))

/-- LD, LDH, LDW and the atomics with a destination complete where their page is mapped, their address is good and no sump entry holds
their data: the access enters the memory unit, in program order, to be performed later; its destination is written only then. LDW
here reads a live strongly held object whose check is cached. Latencies are free (log 3); the pieces are those found at issue
(log 4). -/
def Obligations.LoadsEnterTheMemoryUnit : Prop :=
  ∀ (s : State) (g : Guard) (st : Bool) (w : BitVec 2) (d a b : XReg) (q : QReg) (h : HReg) (cls : Cls) (imm : BitVec 32)
    (off : BitVec 20) (w64 u : Bool) (l : List (Nat × Nat)), s.core.guard g = true → Plain s →
    let ea := (s.core.x a + imm.signExtend 64).toNat
    let eh := (s.core.x a + off.signExtend 64).toNat
    let n : Nat := 2 ^ w.toNat
    let size : Nat := if w64 then 8 else 4
    let v := (s.core.x b).toNat % 2 ^ (8 * size)
    let cmp := s.core.x d
    let o := (s.core.h h).extractLsb' 0 64 + s.core.x a + off.signExtend 64
    let e := s.objEntry (s.core.h h).oid
    (ea < 2 ^ 48 → (st = true → ea % n = 0) → s.core.forward ea n cls.toNat st = none → Reads s ea n l →
      ∃ t, exec (.ld g st w d a cls imm) s = .next t ∧ Entered s t (Access s (.load d) cls st ea n 0 l)) ∧
    (eh < 2 ^ 48 → eh % 32 = 0 → s.core.forward eh 32 cls.toNat st = none → Reads s eh 32 l →
      ∃ t, exec (.ldh g st h a cls off) s = .next t ∧ Entered s t (Access s (.loadH h) cls st eh 32 0 l)) ∧
    ((s.core.h h).kind = 3 → s.oidOk (s.core.h h).oid = true → s.core.ocache.contains (s.core.h h).oid = true →
      (s.core.h h).gen = e.gen → e.strong ≠ 0 → o.toNat + n ≤ e.pages * 4096 → e.base + o.toNat < 2 ^ 48 → (e.base + o.toNat) % n = 0 →
      s.core.forward (e.base + o.toNat) n cls.toNat st = none → Reads s (e.base + o.toNat) n l →
      ∃ t, exec (.ldw g st w d h a q cls off) s = .next t ∧
        Entered s t (Access s (.loadW d q false) cls st (e.base + o.toNat) n 0 l)) ∧
    (d ≠ 0 → (s.core.x a).toNat < 2 ^ 48 → (s.core.x a).toNat % size = 0 → Writes s (s.core.x a).toNat size l →
      ∀ x ∈ [(Instr.aadd g w64 d a b cls, 0, false), (.amax g w64 u d a b cls, 1, u), (.amin g w64 u d a b cls, 2, u),
        (.axchg g w64 d a b cls, 3, false), (.acas g w64 d a b cls, 4, false)],
      ∃ t, exec x.1 s = .next t ∧ Entered s t (Access s (.atomic x.2.1 x.2.2 d cmp) cls true (s.core.x a).toNat size v l))

/-- ST, STH, the atomics without a destination and AFADD retire at issue: with a mapped page and no entry of the sump before them they enter
the memory unit with their data; with a mapping that waits for Shogiwald, and room, they enter the sump. No byte of memory changes
yet. AFADD outside a deterministic job, or inside a range of its own format. That an access keeps the pieces found at its issue is the
model's reading (log 4). -/
def Obligations.StoresRetireAtIssue : Prop :=
  ∀ (s : State) (g : Guard) (st : Bool) (w : BitVec 2) (d a b : XReg) (h : HReg) (cls : Cls) (imm : BitVec 32) (off : BitVec 20)
    (w64 u : Bool) (f : BitVec 2) (l : List (Nat × Nat)), s.core.guard g = true → Plain s →
    let n : Nat := 2 ^ w.toNat
    let size : Nat := if w64 then 8 else 4
    let fl : Nat := if f = 0 then 4 else if f = 1 then 8 else 2
    let ex (va : Nat) : Bool := s.core.ranges.any (fun r => meets r.1 r.2.1 va fl && r.2.2 == f.toNat)
    let forms : List (Instr × Word × Nat × Nat × Bool × MuKind × Nat) :=
      [(.st g st w d a cls imm, s.core.x a + imm.signExtend 64, if st then n else 1, n, st, .store, (s.core.x d).toNat % 2 ^ (8 * n)),
       (.sth g st h a cls off, s.core.x a + off.signExtend 64, 32, 32, st, .store, (s.core.h h).toNat),
       (.aadd g w64 0 a b cls, s.core.x a, size, size, true, .atomic 0 false 0 0, (s.core.x b).toNat % 2 ^ (8 * size)),
       (.amax g w64 u 0 a b cls, s.core.x a, size, size, true, .atomic 1 u 0 0, (s.core.x b).toNat % 2 ^ (8 * size)),
       (.amin g w64 u 0 a b cls, s.core.x a, size, size, true, .atomic 2 u 0 0, (s.core.x b).toNat % 2 ^ (8 * size)),
       (.axchg g w64 0 a b cls, s.core.x a, size, size, true, .atomic 3 false 0 0, (s.core.x b).toNat % 2 ^ (8 * size)),
       (.acas g w64 0 a b cls, s.core.x a, size, size, true, .atomic 4 false 0 0, (s.core.x b).toNat % 2 ^ (8 * size)),
       (.afadd g f a b cls, s.core.x a, fl, fl, true, .afadd f.toNat (ex (s.core.x a).toNat), (s.core.x b).toNat % 2 ^ (8 * fl))]
    ∀ x ∈ forms, x.2.1.toNat < 2 ^ 48 → x.2.1.toNat % x.2.2.1 = 0 →
      (x.1 = .afadd g f a b cls → s.core.ranges.any (fun r => meets r.1 r.2.1 x.2.1.toNat fl && r.2.2 != f.toNat) = false ∧
        (s.core.r.det = false ∨ ex x.2.1.toNat = true)) →
      (s.core.mustSump cls.toNat s.core.iss.seq = false → Writes s x.2.1.toNat x.2.2.2.1 l →
        ∃ t, exec x.1 s = .next t ∧
          Entered s t (Access s x.2.2.2.2.2.1 cls x.2.2.2.2.1 x.2.1.toNat x.2.2.2.1 x.2.2.2.2.2.2 l)) ∧
      (s.core.sump.length < 64 → (∃ v, s.reach s.core.task.asid none x.2.1.toNat x.2.2.2.1 true (some s.core.iss.seq) = .wait v) →
        ∃ t, exec x.1 s = .next t ∧ Sumped s t (fun e => e.kind = x.2.2.2.2.2.1 ∧ e.cls = cls.toNat ∧ e.va = x.2.1.toNat ∧
          e.width = x.2.2.2.1 ∧ e.data = x.2.2.2.2.2.2))

/-- An AFADD target in a range of another format raises DFAULT reason 6, and one outside every range raises NDET in a deterministic
job. -/
def Sys2Proof.Stmt.AfaddTraps : Prop :=
  ∀ (s : State) (g : Guard) (f : BitVec 2) (a b : XReg) (cls : Cls), s.core.guard g = true →
    let fl : Nat := if f = 0 then 4 else if f = 1 then 8 else 2
    let ea := s.core.x a
    ea.toNat < 2 ^ 48 → ea.toNat % fl = 0 →
    (s.core.ranges.any (fun r => meets r.1 r.2.1 ea.toNat fl && r.2.2 != f.toNat) = true →
      exec (.afadd g f a b cls) s = .next (s.trap 0x03 ea 0 6)) ∧
    (s.core.ranges.any (fun r => meets r.1 r.2.1 ea.toNat fl) = false → s.core.r.det = true →
      exec (.afadd g f a b cls) s = .next (s.trap 0x0C ea))

/-- The address checks at issue, with no other effect than the trap: EA bits 63:48 not zero raises DFAULT reason 1; a misaligned strong LD
or ST, LDH or STH (32 bytes) or atomic raises reason 2; TRAPADDR holds EA. A weak LD or ST needs no alignment. An AFADD target in a
range of another format raises DFAULT reason 6, and one outside every range raises NDET in a deterministic job. -/
def Obligations.AddressChecks : Prop :=
  Sys2Proof.Stmt.AddressChecks1 ∧ Sys2Proof.Stmt.AfaddTraps

/-- The accumulator and ordering operations complete: ACCRES enters the memory unit where its range can be reserved as far as its bounds
tell and is mapped, ACCREL always; FENCE with an empty mask does nothing, and else orders as an entry of the memory unit, or, where nothing
is left to order, at once; LAUNCH with an aligned address enters to post its record once every earlier access is performed; a
record on a transposing alias page raises DFAULT 5. None holds issue. The pieces of ACCRES are those found at its issue (log 4). -/
def Obligations.AccumulatorFenceAndLaunch : Prop :=
  ∀ (s : State) (g : Guard) (f : BitVec 2) (d a b : XReg) (cls : Cls) (mask : BitVec 16) (scope : BitVec 3) (l : List (Nat × Nat)),
    s.core.guard g = true → Plain s →
    (s.accresForm s.core.task.job f.toNat (s.core.x a).toNat (s.core.x b).toNat = true →
      Reads s (s.core.x a).toNat (s.core.x b).toNat l →
      ∃ t, exec (.accres g f d a b cls) s = .next t ∧
        Entered s t (Access s (.accres f.toNat d (s.core.x b).toNat) cls true (s.core.x a).toNat (s.core.x b).toNat 0 l)) ∧
    (∃ t, exec (.accrel g f d a b cls) s = .next t ∧
      Entered s t (Access s (.accrel f.toNat d (s.core.x b).toNat) cls true (s.core.x a).toNat (s.core.x b).toNat 0 [])) ∧
    (mask = 0 → exec (.fence g mask scope) s = .next s) ∧
    (mask ≠ 0 → ∃ t, exec (.fence g mask scope) s = .next t ∧ t.core.r = s.core.r ∧ t.core.flight = s.core.flight ∧ SameBytes s t ∧
      (scope ≠ 0 → t.core.l1 = []) ∧ t.core.iss.verdict = s.core.iss.verdict ∧
      (s.core.quietBefore s.core.iss.seq mask.toNat = false → ∃ i ∈ t.core.mu, i.kind = .fence mask.toNat scope.toNat)) ∧
    ((s.core.x a).toNat < 2 ^ 48 → (s.core.x a).toNat % 64 = 0 →
      ((∀ l e, (s.space s.core.task.asid).xlat none (s.core.x a).toNat 64 false ≠ .ok l true e) →
        ∃ t, exec (.launch g a) s = .next t ∧ Entered s t (fun i => i.kind = .launch ∧ i.va = (s.core.x a).toNat)) ∧
      ((∃ l e, (s.space s.core.task.asid).xlat none (s.core.x a).toNat 64 false = .ok l true e) →
        exec (.launch g a) s = .next (s.trapData (s.core.x a) 5)))

/-- LOAD_RETURN: a load that may be performed now reads one of its parts that are left, each single-copy atomic, and with the last part
writes its register: the bytes least significant first, zero-extended, or the handle's 256 bits; LDW's predicate with it. Then the
access leaves the memory unit; no other register and no byte of memory changes, and none at a part that is not the last. A strong
load reads memory, a weak one each byte from the L1 line that holds it and may serve its class, else from memory, or from memory where it
passes L1 by (log 17: that it may is the model's reading); one that the sump serves takes the sump's data, as long as the entry is there (log 4:
that it reads memory otherwise is the model's reading). -/
def Obligations.LoadReturnWritesRegister : Prop :=
  ∀ (s : State) (i : MuItem), Plain s → s.nextItem = some i → s.aborts i = false →
    ∃ t, exec .loadReturn s = .next t ∧ SameBytes s t ∧
      let last : Prop := i.left.length ≤ 1
      let part := i.left.headD (0, i.width)
      let memory (weak : Bool) (a : Nat) : Byte := match if weak then (s.core.settleOld s.whereIs).lineFor i.cls (a / 64) else none with
        | some v => v.extractLsb' (8 * (a % 64)) 8
        | none => s.readByte a
      let pieces (weak : Bool) : List Byte :=
        (cutPieces (s.piecesOf i) part.1 part.2).flatMap (fun p => (List.range p.2).map (fun k => memory weak (p.1 + k)))
      let bytes : List Byte := match i.fwd with
        | some v => if s.core.holdsSrc i = true ∨ i.src = none then ((leBytes i.width v).drop part.1).take part.2 else pieces false
        | none => pieces (!(i.strong || i.bypass))
      let value : Nat := i.data + leNat bytes * 2 ^ (8 * part.1)
      (last → ∀ d, i.kind = .load d →
        i ∉ t.core.mu ∧ (∀ j, t.core.x j = if j = d ∧ d ≠ 0 then BitVec.ofNat 64 value else s.core.x j) ∧
        t.core.r = { s.core.r with x := t.core.r.x }) ∧
      (last → ∀ d q gone, i.kind = .loadW d q gone →
        i ∉ t.core.mu ∧ (∀ j, t.core.x j = if j = d ∧ d ≠ 0 then BitVec.ofNat 64 value else s.core.x j) ∧
        (∀ j, t.core.q j = if j = q ∧ q ≠ 0 then gone else s.core.q j) ∧
        t.core.r = { s.core.r with x := t.core.r.x, q := t.core.r.q }) ∧
      (last → ∀ d, i.kind = .loadH d →
        i ∉ t.core.mu ∧ (∀ j, t.core.h j = if j = d then BitVec.ofNat 256 value else s.core.h j) ∧
        t.core.r = { s.core.r with h := t.core.r.h }) ∧
      (¬ last → (∃ d, i.kind = .load d) ∨ (∃ d q gone, i.kind = .loadW d q gone) ∨ (∃ d, i.kind = .loadH d) →
        t.core.r = s.core.r ∧ ∃ j ∈ t.core.mu, j.seq = i.seq ∧ j.left.length + 1 = i.left.length)

/-- ACCESS_PERFORMED: a store that may be performed now writes one of its parts that are left, whichever: its bytes, least significant first, to
the physical addresses found at its issue (log 4: that it keeps them is the model's reading), and every other byte of memory reads as
before; with the last part it leaves the memory unit. An atomic writes the new value of Table 12 and returns the old one. No register
changes but an atomic's destination. -/
def Sys2Proof.Stmt.StorePerformedWritesBytes : Prop :=
  ∀ (s : State) (i : MuItem), Plain s → Memory.wf s.mem = true → s.nextItem = some i → s.aborts i = false →
    ∃ t, exec .accessPerformed s = .next t ∧
      (i.kind = .store → t.core.r = s.core.r ∧ OutsideSame s t i.phys ∧
        ∃ q, (i.left = [] → q = (0, i.width)) ∧ (i.left ≠ [] → q ∈ i.left) ∧ PartWritten s t i.phys i.width i.data q ∧
          (i.left.erase q = [] → i ∉ t.core.mu) ∧
          (i.left.erase q ≠ [] → ∃ j ∈ t.core.mu, j = { i with left := i.left.erase q, ready := j.ready } ∧ s.cycle ≤ j.ready)) ∧
      (∀ k u d cmp p, i.kind = .atomic k u d cmp → i.phys = [(p, i.width)] → i ∉ t.core.mu ∧ AtomicDone s t k u d cmp i.width i.data p)

/-- The new value of an atomic, in w bits, w being 32 or 64, from an old value of w bits: a wrapping sum, the signed or unsigned
maximum or minimum, the operand, and the operand only where the old value is the expected one. -/
def Sys2Proof.Stmt.AtomicValues : Prop :=
  ∀ (w old b cmp : Nat), w = 32 ∨ w = 64 → old < 2 ^ w → b < 2 ^ w →
    let int (n : Nat) : Int := (BitVec.ofNat w n).toInt
    (∀ u, atomicNew 0 u w old b cmp = (old + b) % 2 ^ w) ∧
    atomicNew 1 true w old b cmp = max old b ∧ atomicNew 2 true w old b cmp = min old b ∧
    int (atomicNew 1 false w old b cmp) = max (int old) (int b) ∧ int (atomicNew 2 false w old b cmp) = min (int old) (int b) ∧
    (∀ u, atomicNew 3 u w old b cmp = b) ∧ (∀ u, atomicNew 4 u w old b cmp = if old = cmp % 2 ^ w then b else old)

/-- AFADD_AT_SLICE: outside every reserved range the target becomes its old value plus the operand in the format, rounded to
nearest-even, and the flags of the add become sticky in FPSTAT; every other byte of memory and every other register is as before. In a
range that the job holds the operand is added to the target's entry with no rounding and no flag, and no byte of memory changes. -/
def Sys2Proof.Stmt.FloatAddAtHomeSlice : Prop :=
  ∀ (s : State) (i : MuItem) (f p : Nat) (exact : Bool), Plain s → Memory.wf s.mem = true → s.nextItem = some i → s.aborts i = false →
    i.kind = .afadd f exact → i.width = accSize f → i.phys = [(p, i.width)] →
    ∃ t, exec .afaddAtSlice s = .next t ∧ i ∉ t.core.mu ∧
      (exact = false → AddDone s t f i.data p) ∧
      (∀ a, exact = true → s.accs.find? (fun x => x.job == s.core.task.job && x.va == i.va && x.fmt == f) = some a →
        t.accs = s.accs.map (fun x => if x = a then x.add ((accFmt f).decode i.data) else x) ∧ t.core.r = s.core.r ∧ SameBytes s t)

/-- ACCRES and ACCREL at the home slices, which ACCESS_PERFORMED brings forward one target at a time. ACCRES takes the entries of all its
targets together before the first is loaded, where the slices have room, or fails and answers X[d] := 0; each target is loaded exactly with the
value that its memory holds, which stays as it is; the answer puts the range into the job's list and the number of targets into X[d]. ACCREL takes
the range from the job's list, or, where the job does not hold it, answers X[d] := 0; each target is rounded once into its memory and its entry
freed; the answer puts the number of targets into X[d] and the flags of the roundings into FPSTAT. No other register or byte of memory
changes. The pieces are those found at issue (log 4), and the targets go one by one, whichever comes next (log 49). -/
def Sys2Proof.Stmt.AccumulatorsAtSlices : Prop :=
  ∀ (s : State) (i : MuItem) (f len : Nat) (d : XReg), Plain s → Memory.wf s.mem = true → s.nextItem = some i → s.aborts i = false →
    let job := s.core.task.job
    let size := accSize f
    let all := (List.range (len / size)).map (fun k => AccT.empty job (i.va + k * size) (byteAt i.phys (k * size)) f)
    ∃ t, exec .accessPerformed s = .next t ∧
      (i.kind = .accres f d len →
        SameBytes s t ∧
        (i.left = [] → i ∉ t.core.mu ∧ OnlyX s t d (BitVec.ofNat 64 (len / size)) ∧ t.accs = s.accs ∧
          (∀ j, s.job job = some j → (i.va, len, f) ∈ j.taking →
            ∃ j', t.job job = some j' ∧ j'.ranges = j.ranges ++ [(i.va, len, f)] ∧ (i.va, len, f) ∉ j'.taking)) ∧
        (i.left ≠ [] → i.untouched f len = true → s.accresOk job f i.va len i.phys = false →
          t.core.r = s.core.r ∧ t.accs = s.accs ∧ ∃ j ∈ t.core.mu, j = { i with left := [], kind := .accres f d 0, ready := j.ready }) ∧
        (i.left ≠ [] → (i.untouched f len = true → s.accresOk job f i.va len i.phys = true) →
          t.core.r = s.core.r ∧ ∃ q ∈ i.left, (∃ j ∈ t.core.mu, j = { i with left := i.left.erase q, ready := j.ready }) ∧
            ((byteAddrs i.phys).length = len → q.1 + q.2 ≤ len →
              t.accs = (if i.untouched f len = true then s.accs ++ all else s.accs).map (fun x => if x.job = job ∧ x.va = i.va + q.1 ∧ x.fmt = f then
                x.add ((accFmt f).decode (leNat ((List.range q.2).map (fun k => s.readByte (byteAt i.phys (q.1 + k)))))) else x)))) ∧
      (i.kind = .accrel f d len →
        (i.left = [] → i ∉ t.core.mu ∧ SameBytes s t ∧ t.accs = s.accs ∧
          (∀ j, t.core.x j = if j = d ∧ d ≠ 0 then BitVec.ofNat 64 (len / size) else s.core.x j) ∧
          t.core.r = { s.core.r with x := t.core.r.x, fpstat := s.core.r.fpstat ||| BitVec.ofNat 64 (i.data % 128) }) ∧
        (i.left ≠ [] → i.untouched f len = true → (∀ j, s.job job = some j → (i.va, len, f) ∉ j.ranges) →
          t.core.r = s.core.r ∧ t.accs = s.accs ∧ SameBytes s t ∧ ∃ j ∈ t.core.mu, j = { i with left := [], kind := .accrel f d 0, ready := j.ready }) ∧
        (i.left ≠ [] → (i.untouched f len = true → ∃ j, s.job job = some j ∧ (i.va, len, f) ∈ j.ranges) →
          t.core.r = s.core.r ∧ ∃ q ∈ i.left,
            (∀ a, s.accs.find? (fun x => x.job == job && x.va == i.va + q.1) = some a → s.partWord [(a.pa, accSize a.fmt)] = none →
              t.accs = s.accs.erase a ∧
              (∀ b : Nat, t.readByte b = if a.pa ≤ b ∧ b < a.pa + accSize a.fmt then BitVec.ofNat 8 (a.round.1 / 256 ^ (b - a.pa)) else s.readByte b) ∧
              ∃ j ∈ t.core.mu, j = { i with left := i.left.erase q, data := i.data ||| a.round.2.toNat, ready := j.ready })))

/-- ACCESS_PERFORMED: a store that may be performed now writes one of its parts that are left, whichever: its bytes, least significant
first, to the physical addresses found at its issue (log 4: that it keeps them is the model's reading), and every other byte of memory
reads as before; with the last part it leaves the memory unit. An atomic writes the new value of Table 12 and returns the old one. No
register changes but an atomic's destination. The new value of an atomic, in w bits, w being 32 or 64, from an old value of w bits: a
wrapping sum, the signed or unsigned maximum or minimum, the operand, and the operand only where the old value is the expected one.
AFADD_AT_SLICE: outside every reserved range the target becomes its old value plus the operand in the format, rounded to nearest-even,
and the flags of the add become sticky in FPSTAT; every other byte of memory and every other register is as before. In a range that the
job holds the operand is added to the target's entry with no rounding and no flag, and no byte of memory changes. ACCRES and ACCREL at
the home slices, which ACCESS_PERFORMED brings forward one target at a time. ACCRES takes the entries of all its targets together before
the first is loaded, where the slices have room, or fails and answers X[d] := 0; each target is loaded exactly with the value that its
memory holds, which stays as it is; the answer puts the range into the job's list and the number of targets into X[d]. ACCREL takes the
range from the job's list, or, where the job does not hold it, answers X[d] := 0; each target is rounded once into its memory and its
entry freed; the answer puts the number of targets into X[d] and the flags of the roundings into FPSTAT. No other register or byte of
memory changes. The pieces are those found at issue (log 4), and the targets go one by one, whichever comes next (log 49). -/
def Obligations.AccessesPerformed : Prop :=
  Sys2Proof.Stmt.StorePerformedWritesBytes ∧ Sys2Proof.Stmt.AtomicValues ∧ Sys2Proof.Stmt.FloatAddAtHomeSlice ∧ Sys2Proof.Stmt.AccumulatorsAtSlices

/-- SUMP_REPLAY performs a part, whichever, of the first entry that may replay: a store's bytes are written to the pieces its mapping now gives,
every other byte reads as before and no register changes; with its last part the entry leaves the sump. An entry that is an atomic or
AFADD is performed whole, as the access itself would have been. Where the caches do not hold its translation, the entry waits for the walk first.
SUMP_REPORT takes the entry that will never be performed out of the sump and traps with its address, reason, opcode and class, while the task
runs with a handler and INH clear; its class is held, and no byte of memory changes. An entry whose own word in the sump is bad names no
address but the word's index (log 15: that it is reported like a declared entry is the model's choice). -/
def Obligations.SumpReplayAndReport : Prop :=
  ∀ (s : State) (e : Sump), Plain s → Memory.wf s.mem = true →
    (∀ l first, s.nextReplay = some (e, .ok l false first) → e.rot = none → s.aborts (e.item l) = false →
      let parts := if e.left.isEmpty then accessParts .store e.va e.width none else e.left
      ∃ t, exec .sumpReplay s = .next t ∧ OutsideSame s t l ∧
        ((s.translateAll e.va e.width).1 ≠ 0 → t.core.r = s.core.r ∧ SameBytes s t ∧
          ∃ x ∈ t.core.sump, x = { e with ready := s.cycle + (s.translateAll e.va e.width).1 }) ∧
        ((s.translateAll e.va e.width).1 = 0 → e.kind = .store → t.core.r = s.core.r ∧
          ∃ q ∈ parts, PartWritten s t l e.width e.data q ∧
            (parts.erase q = [] → e ∉ t.core.sump) ∧
            (parts.erase q ≠ [] → ∃ x ∈ t.core.sump, x = { e with left := parts.erase q, ready := x.ready } ∧ s.cycle ≤ x.ready)) ∧
        (∀ p, (s.translateAll e.va e.width).1 = 0 → l = [(p, e.width)] →
          (∀ k u d cmp, e.kind = .atomic k u d cmp → e ∉ t.core.sump ∧ AtomicDone s t k u d cmp e.width e.data p) ∧
          (∀ f, e.kind = .afadd f false → e.width = accSize f → e ∉ t.core.sump ∧ AddDone s t f e.data p))) ∧
    (∀ code reason h, s.nextReport = some (e, code, reason) → s.core.task.phase = .running → Handles s.core h →
      ∃ t, exec .sumpReport s = .next t ∧ e ∉ t.core.sump ∧ e.cls ∈ t.core.heldCls ∧
        ∃ k : Trap, k.code = code ∧ k.slot = 0 ∧ k.addr = (if e.rot.isSome then 0 else BitVec.ofNat 64 e.va) ∧
          k.info = #v[0, BitVec.ofNat 64 reason, (match e.rot with | some w => BitVec.ofNat 64 w | none => e.pcv), BitVec.ofNat 64 (2 ^ 61 + e.op % 256 * 16 + e.cls % 16)] ∧
          TrapTaken s t k (if s.core.wl.active then s.core.wl.runIx else s.core.pc) h)

/-- SYNC: the core arrives once every earlier access is performed, and then holds; once the restart has come it issues with no other effect. A
core whose mask leaves it or its well out raises ENC, and a well-scope mask that names a core of another job raises PRIV. A gang's other
members only wait for their own accesses, with L1 emptied (log 53). SYNC_RELEASE, once every participant has arrived, sets a core's restart at the scope's
distance: 4 cycles at well scope, 24 at die, 96 at package, and at system scope two strokes on; SYNC_RESTART lets the core go on at
that time with an empty L1. -/
def Obligations.BarrierArrivalReleaseRestart : Prop :=
  (∀ (s : State) (g : Guard) (mask : BitVec 16) (scope : BitVec 3), s.core.guard g = true → Plain s → s.core.task.gpos = 0 →
    (leftOut s.cid scope.toNat mask.toNat = true → exec (.sync g mask scope) s = .next s.trapEnc) ∧
    (leftOut s.cid scope.toNat mask.toNat = false → scope.toNat = 1 → s.strangers mask.toNat = true →
      exec (.sync g mask scope) s = .next (s.trap 0x0D)) ∧
    (leftOut s.cid scope.toNat mask.toNat = false → (scope.toNat = 1 → s.strangers mask.toNat = false) →
      (∀ w, s.core.hold.sync = some w → w.go = true → exec (.sync g mask scope) s = .next s) ∧
      (∀ w, s.core.hold.sync = some w → w.go = false → ∃ t, exec (.sync g mask scope) s = .next t ∧ Held s t) ∧
      (s.core.hold.sync = none → s.core.quietBefore s.core.iss.seq 0xFFFF = true → ∃ t, exec (.sync g mask scope) s = .next t ∧
        t.core.iss.verdict = .held ∧
        t.core.hold.sync = some { scope := scope.toNat, mask := mask.toNat, arrived := s.cycle, restart := none }))) ∧
  (∀ (s : State) (g : Guard) (mask : BitVec 16) (scope : BitVec 3), s.core.guard g = true → Plain s → s.core.task.gpos ≠ 0 →
    (s.core.quietBefore s.core.iss.seq 0xFFFF = true →
      exec (.sync g mask scope) s = .next { s with core := { s.core with l1 := [] } }) ∧
    (s.core.quietBefore s.core.iss.seq 0xFFFF = false → ∃ t, exec (.sync g mask scope) s = .next t ∧ Held s t)) ∧
  (∀ (s : State) (i : BitVec 9) (w : SyncWait), s.releasable i.toNat = true → (s.coreAt i.toNat).hold.sync = some w →
    1 ≤ w.scope → w.scope ≤ 4 → (s.coreAt i.toNat).stood = none →
    ∃ t, exec (.syncRelease i) s = .next t ∧ SameBytes s t ∧
      (t.coreAt i.toNat).hold.sync = some { w with restart := some (if w.scope = 1 then s.cycle + 4 else if w.scope = 2 then s.cycle + 24
        else if w.scope = 3 then s.cycle + 96 else s.stroke + 2) }) ∧
  (∀ (s : State) (w : SyncWait) (r : Nat), s.core.hold.sync = some w → w.restart = some r → w.go = false →
    (if w.scope = 4 then r ≤ s.stroke else r ≤ s.cycle) → s.core.stood = none →
    ∃ t, exec .syncRestart s = .next t ∧ t.core.hold.sync = some { w with go := true } ∧ t.core.l1 = [] ∧ t.core.r = s.core.r ∧
      SameBytes s t)

/-- A read of physical memory after a write to it: the byte written at its own address, the old byte everywhere else, over
memory in its canonical form. -/
def Obligations.MemoryReadAfterWrite : Prop :=
  ∀ (s : State) (a : Nat) (v : Byte) (bs : List Byte),
    Memory.wf s.mem = true →
    (∀ b : Nat, (s.writeByte a v).readByte b = if b = a then v else s.readByte b) ∧
    (∀ b : Nat, (s.writePieces [(a, bs.length)] bs).readByte b =
      if a ≤ b ∧ b < a + bs.length then bs.getD (b - a) 0 else s.readByte b)

/-! ### Tiles, handles, ports -/

/-- The tile operations complete on a TILE handle: TALLOC of a FREE tile takes a run of FREE granules of the format's extent; TFREE, TSYM,
TRETYPE, TFLAG, TOWN.give and .take put one change of the entry in flight, visible 3 cycles after issue, and where they change what a
detection rests on no detection of the tile stays pending; TFREE of a FREE tile and TRETYPE to the format it has do nothing; TPROBE and
TLD read the entry and one element as they stand; TST puts one element in flight. -/
def Obligations.TileOperations : Prop :=
  ∀ (s : State) (g : Guard) (hd ha : HReg) (d b c : XReg) (fmt : BitVec 5) (rax : BitVec 2) (ix : BitVec 10) (own : BitVec 4)
    (det keep wdet wkeep : Bool), s.core.guard g = true → (s.core.h ha).kind = 1 →
    let t := (s.core.h ha).tix
    let e := s.core.tile t
    let f := fmtOf fmt.toNat
    let elem := ((s.core.x b).toNat + ix.toNat) % 1024
    let clear (s : State) : State := { s with core := { s.core with dets := s.core.dets.filter (fun k => k.tile != t) } }
    let put (o : TileOp) : Out := .next ((clear s).sched 3 (.tile o))
    (e.kind = 0 → ∀ lo free, allocRun s.core.free f.extent = some (lo, free) →
      exec (.talloc g ha fmt det keep) s =
        .next (({ s with core := { s.core with free := free } } : State).sched 3 (.tile (.alloc t fmt.toNat det keep lo)))) ∧
    (e.own = 0 → e.rpc = 0 → exec (.tfree g ha) s = if e.kind = 0 then .next s else put (.free t)) ∧
    (e.own = 0 → e.rpc = 0 →
      exec (.tsymZero g ha fmt) s = put (.sym t fmt.toNat .zero) ∧
      (¬ (f = .tern2 ∧ (s.core.x b).toNat % 4 = 2) →
        exec (.tsymConst g ha b fmt) s = put (.sym t fmt.toNat (.const (BitVec.ofNat 64 ((s.core.x b).toNat % 2 ^ f.width))))) ∧
      (f.isInt = true → exec (.tsymRamp g ha b fmt rax) s = put (.sym t fmt.toNat (.ramp rax.toNat (s.core.x b)))) ∧
      ((s.core.h hd).kind = 1 → s.core.hold.symDone = none →
        let src := (s.core.h hd).tix
        let i := if (s.core.tile src).kind = 5 then (s.core.tile src).val.toNat % 4096 else src
        let k := s.core.tile i
        i ≠ t →
        (k.kind = 2 → exec (.tsymRepeat g hd ha) s = put (.sym t k.fmt .zero)) ∧
        (k.kind = 3 → exec (.tsymRepeat g hd ha) s = put (.sym t k.fmt (.const k.val))) ∧
        (k.kind = 4 → exec (.tsymRepeat g hd ha) s = put (.sym t k.fmt (.ramp k.rax k.val))) ∧
        (k.kind = 1 → k.rpc ≠ 15 → exec (.tsymRepeat g hd ha) s =
          .next ((clear ({ s with core := { s.core with dets := s.core.dets.filter (fun d => d.tile != i) } })).sched 3 (.tile (.sym t k.fmt (.rep i))))))) ∧
    exec (.tprobeLo g d ha) s = .next (s.schedX 3 d (BitVec.ofNat 64 e.bits)) ∧
    exec (.tprobeHi g d ha) s = .next (s.schedX 3 d (BitVec.ofNat 64 (e.bits / 2 ^ 64))) ∧
    (e.kind ≠ 0 → e.own = 0 →
      (fmt.toNat = e.fmt → exec (.tretype g ha fmt) s = .next s) ∧
      (fmt.toNat ≠ e.fmt → e.retypeOk fmt.toNat = true → exec (.tretype g ha fmt) s = put (.retype t fmt.toNat)) ∧
      exec (.townGive g ha own) s = put (.own t own.toNat) ∧
      exec (.tld g d ha b ix) s = .next (s.schedX 3 d (BitVec.ofNat 64 (s.core.tileElem t elem))) ∧
      (s.core.mustPromote [t] = false → exec (.tst g ha b c ix) s = .next ((clear s).sched 3 (.elem t elem (s.core.x c))))) ∧
    (e.kind ≠ 0 → e.own = own.toNat → own ≠ 0 → s.core.engineNames own.toNat t = false →
      exec (.townTake g ha own) s = .next (s.sched 3 (.tile (.own t 0)))) ∧
    (e.kind ≠ 0 → exec (.tflag g ha det keep wdet wkeep) s =
      .next ((if wdet = true ∧ det = false then clear s else s).sched 3 (.tile (.flags t wdet det wkeep keep))))

/-- Where the tile operations trap, with no other effect: HANDLE, with the register's number, unless H[ha] is a TILE handle; TILE with the
tile's index and the reason, 1 no room (with the granules wanted), 2 FREE, 3 not the core's (for TOWN.take, not the named owner's),
4 not FREE, 5 no such retype, 6 a repeater that cannot be, 7 has repeaters, 10 no such symbol. -/
def Obligations.TileOperationTraps : Prop :=
  ∀ (s : State) (g : Guard) (hd ha : HReg) (d b c : XReg) (fmt : BitVec 5) (rax : BitVec 2) (ix : BitVec 10) (own : BitVec 4)
    (det keep wdet wkeep : Bool), s.core.guard g = true →
    let t := (s.core.h ha).tix
    let e := s.core.tile t
    let f := fmtOf fmt.toNat
    let no (tix reason want : Nat) : Out := .next (s.trap 0x05 0 (BitVec.ofNat 64 (tix % 4096)) (BitVec.ofNat 64 reason) (BitVec.ofNat 64 want))
    let all : List Instr := [.talloc g ha fmt det keep, .tfree g ha, .tsymZero g ha fmt, .tsymConst g ha b fmt, .tsymRamp g ha b fmt rax,
      .tsymRepeat g hd ha, .tprobeLo g d ha, .tprobeHi g d ha, .tretype g ha fmt, .townGive g ha own, .townTake g ha own,
      .tflag g ha det keep wdet wkeep, .tld g d ha b ix, .tst g ha b c ix]
    ((s.core.h ha).kind ≠ 1 → ∀ i ∈ all, exec i s = .next (s.trap 0x06 0 0 (ha.setWidth 64))) ∧
    ((s.core.h ha).kind = 1 →
      (e.kind ≠ 0 → exec (.talloc g ha fmt det keep) s = no t 4 0) ∧
      (e.kind = 0 → allocRun s.core.free f.extent = none → exec (.talloc g ha fmt det keep) s = no t 1 f.extent) ∧
      (e.own ≠ 0 → ∀ i ∈ [Instr.tfree g ha, .tsymZero g ha fmt, .tsymConst g ha b fmt, .tsymRamp g ha b fmt rax], exec i s = no t 3 0) ∧
      (e.own = 0 → e.rpc ≠ 0 → exec (.tfree g ha) s = no t 7 0) ∧
      (e.own = 0 → f = .tern2 → (s.core.x b).toNat % 4 = 2 → exec (.tsymConst g ha b fmt) s = no t 10 0) ∧
      (e.own = 0 → f.isInt = false → exec (.tsymRamp g ha b fmt rax) s = no t 10 0) ∧
      (e.kind = 0 → ∀ i ∈ [Instr.tretype g ha fmt, .townGive g ha own, .townTake g ha own, .tflag g ha det keep wdet wkeep, .tld g d ha b ix,
        .tst g ha b c ix], exec i s = no t 2 0) ∧
      (e.kind ≠ 0 → e.own ≠ 0 → ∀ i ∈ [Instr.tretype g ha fmt, .townGive g ha own, .tld g d ha b ix, .tst g ha b c ix], exec i s = no t 3 0) ∧
      (e.kind ≠ 0 → (own.toNat ≠ e.own ∨ own = 0 ∨ s.core.engineNames e.own t = true) → exec (.townTake g ha own) s = no t 3 0) ∧
      (e.kind ≠ 0 → e.own = 0 → fmt.toNat ≠ e.fmt → e.retypeOk fmt.toNat = false → exec (.tretype g ha fmt) s = no t 5 0) ∧
      ((s.core.h hd).kind ≠ 1 → exec (.tsymRepeat g hd ha) s = .next (s.trap 0x06 0 0 (hd.setWidth 64))) ∧
      ((s.core.h hd).kind = 1 → s.core.hold.symDone = none →
        let src := (s.core.h hd).tix
        let i := if (s.core.tile src).kind = 5 then (s.core.tile src).val.toNat % 4096 else src
        (e.own ≠ 0 → exec (.tsymRepeat g hd ha) s = no t 3 0) ∧
        (e.own = 0 → i = t → exec (.tsymRepeat g hd ha) s = no t 6 0) ∧
        (e.own = 0 → i ≠ t → (s.core.tile i).kind = 0 → exec (.tsymRepeat g hd ha) s = no i 2 0) ∧
        (e.own = 0 → i ≠ t → (s.core.tile i).kind = 1 → (s.core.tile i).rpc = 15 → exec (.tsymRepeat g hd ha) s = no i 6 0)))

/-- A change of a tile's entry at its visible cycle: TALLOC leaves the entry STORED, owned by the core, with its format, flags and granules,
EXC set for a floating format, and FREEGR smaller by the extent; TFREE leaves it FREE, with its granules given back; TSYM leaves a
symbol that reads as its elements; TOWN changes the owner; TFLAG writes the flags its enables name, a clear DET cancels the detections pending
and a clear KEEP on a symbol that holds kept storage returns that storage to the free map and to FREEGR; no other tile's entry changes, but the
repeater count of a repeater's source. -/
def Sys2Proof.Stmt.TileChangesTakeEffect1 : Prop :=
  ∀ (c : Core) (now t u : Nat) (fmt lo : Nat) (det keep wdet wkeep : Bool) (o : Nat) (v : Word) (rax r k : Nat),
    Sparse.wf {} c.tiles = true → u ≠ t → r < 16 → k < 64 →
    let e := c.tile t
    let ap (x : TileOp) : Core := c.applyWrite now (.tile x)
    (e.kind = 0 →
      let d := ap (.alloc t fmt det keep lo)
      (d.tile t).kind = 1 ∧ (d.tile t).fmt = fmt ∧ (d.tile t).own = 0 ∧ (d.tile t).det = det ∧ (d.tile t).keep = keep ∧
      (d.tile t).base = lo ∧ (d.tile t).ext = (fmtOf fmt).extent ∧ (d.tile t).exc = ((fmtOf fmt).isBin || fmtOf fmt == .dec64) ∧
      d.r.freegr = c.r.freegr - (fmtOf fmt).extent ∧ d.tile u = c.tile u ∧ d.sp = c.sp) ∧
    (e.rpc = 0 → e.kind ≠ 5 →
      let d := ap (.free t)
      d.tile t = {} ∧ d.r.freegr = c.r.freegr + e.ext ∧ d.tile u = c.tile u ∧ d.sp = c.sp ∧
      ((∀ r ∈ c.free, r.1 < r.2) → ∀ g : Nat, FreeAt d g ↔ (FreeAt c g ∨ (e.base ≤ g ∧ g < e.base + e.ext)))) ∧
    (e.rpc = 0 → e.kind ≠ 5 →
      (∀ y ∈ [Sym.zero, .const v, .ramp rax v],
        let d := ap (.sym t fmt y)
        (d.tile t).fmt = fmt ∧ (d.tile t).own = e.own ∧ (d.tile t).det = e.det ∧ (d.tile t).keep = e.keep ∧ d.tile u = c.tile u ∧ d.sp = c.sp) ∧
      (ap (.sym t fmt .zero)).tileRow t r = List.replicate 64 0 ∧
      (ap (.sym t fmt (.const v))).tileRow t r = List.replicate 64 (v.toNat % 2 ^ (fmtOf fmt).width) ∧
      ((ap (.sym t fmt (.ramp rax v))).tileRow t r).getD k 0 =
        wrapN (fmtOf fmt).width ((v.extractLsb' 0 32).toInt + (v.extractLsb' 32 32).toInt *
          (if rax = 0 then 64 * (r : Int) + k else if rax = 1 then (r : Int) else (k : Int))) ∧
      (u < 4096 → (c.tile u).kind = 1 → (c.tile u).rpc < 15 →
        let d := ap (.sym t fmt (.rep u))
        d.tileRow t r = c.tileRow u r ∧ (d.tile u).rpc = (c.tile u).rpc + 1 ∧ (d.tile t).fmt = (c.tile u).fmt)) ∧
    (e.kind ≠ 0 →
      ap (.own t o) = { c with tiles := (ap (.own t o)).tiles } ∧ (ap (.own t o)).tile t = { e with own := o, gseq := ((ap (.own t o)).tile t).gseq } ∧
      (ap (.own t o)).tile u = c.tile u ∧
      (let d := ap (.flags t wdet det wkeep keep)
        let e' : Tile := { e with det := if wdet then det else e.det, keep := if wkeep then keep else e.keep }
        d.tile u = c.tile u ∧ d.sp = c.sp ∧ d.dets = (if wdet ∧ det = false then c.dets.filter (fun x => x.tile != t) else c.dets) ∧
        (¬ (wkeep = true ∧ keep = false ∧ e.kind ≠ 1 ∧ e.ext ≠ 0) → d.tile t = e' ∧ d.free = c.free ∧ d.r = c.r) ∧
        (wkeep = true → keep = false → e.kind ≠ 1 → e.ext ≠ 0 →
          d.tile t = { e' with base := 0, ext := 0 } ∧ d.r.freegr = c.r.freegr + e.ext ∧
          ((∀ r ∈ c.free, r.1 < r.2) → ∀ g : Nat, FreeAt d g ↔ (FreeAt c g ∨ (e.base ≤ g ∧ g < e.base + e.ext))))))

/-- The end of a promotion's hold and the arrival of a detection. A promoted symbol becomes STORED and every row of it reads as before; no other
tile's entry changes. A tile whose entry the planned storage no longer suits, because a result in flight changed it, is left as it is and
only the free map takes the granules back (the model's choice, log 46). A detected symbol becomes the tile's kind, with the granules returned unless KEEP is set; a tile that is no longer
STORED, or has repeaters, stays as it is. With nothing due nothing changes. Stated of one tile at a time, and not of repeaters. -/
def Sys2Proof.Stmt.PromotionsAndDetections : Prop :=
  ∀ (s : State), Sparse.wf 0 s.core.sp = true → Sparse.wf {} s.core.tiles = true →
    ((s.core.hold.promo = none ∨ ∃ p, s.core.hold.promo = some p ∧ s.cycle < p.until_) → exec .promotionHoldEnd s = .next s) ∧
    (∀ p t b, s.core.hold.promo = some p → p.until_ ≤ s.cycle → p.tiles = [(t, b)] → p.reps = [] →
      let e := s.core.tile t
      let fits : Prop := match b with
        | none => e.ext = (fmtOf e.fmt).extent
        | some (_, n) => e.ext = 0 ∧ n = (fmtOf e.fmt).extent
      ((e.kind < 2 ∨ 5 < e.kind ∨ ¬ fits) → ∃ f, exec .promotionHoldEnd s =
        .next { s with core := { s.core with free := f, hold := { s.core.hold with promo := none } } }) ∧
      (2 ≤ e.kind → e.kind ≤ 4 → fits → ∃ u, exec .promotionHoldEnd s = .next u ∧ u.core.hold.promo = none ∧ SameBytes s u ∧
        (u.core.tile t).kind = 1 ∧ (u.core.tile t).fmt = e.fmt ∧ (u.core.tile t).own = e.own ∧ (u.core.tile t).det = e.det ∧ (u.core.tile t).keep = e.keep ∧
        (u.core.tile t).ext = (fmtOf e.fmt).extent ∧ (∀ r : Nat, r < 16 → u.core.tileRow t r = s.core.tileRow t r) ∧ (∀ j : Nat, j ≠ t → u.core.tile j = s.core.tile j) ∧
        u.core.r = { s.core.r with freegr := u.core.r.freegr })) ∧
    ((∀ d ∈ s.core.dets, s.cycle < d.due) → exec .detectionResult s = .next s) ∧
    (∀ d, s.core.dets.filter (fun d => decide (d.due ≤ s.cycle)) = [d] →
      let e := s.core.tile d.tile
      let rest := s.core.dets.filter (fun d => decide (s.cycle < d.due))
      ((e.kind ≠ 1 ∨ e.rpc ≠ 0) → exec .detectionResult s = .next { s with core := { s.core with dets := rest } }) ∧
      (e.kind = 1 → e.rpc = 0 → (∀ k, d.sym ≠ .rep k) → ∃ u, exec .detectionResult s = .next u ∧ u.core.dets = rest ∧ SameBytes s u ∧
        (u.core.tile d.tile).kind = d.sym.kind ∧ (u.core.tile d.tile).val = d.sym.val ∧ (u.core.tile d.tile).rax = d.sym.rax ∧
        (u.core.tile d.tile).fmt = e.fmt ∧ (u.core.tile d.tile).own = e.own ∧ (u.core.tile d.tile).det = e.det ∧ (u.core.tile d.tile).keep = e.keep ∧
        (∀ j : Nat, j ≠ d.tile → u.core.tile j = s.core.tile j) ∧ u.core.sp = s.core.sp ∧
        u.core.r.freegr = s.core.r.freegr + (if e.keep then 0 else e.ext)))

/-- A change of a tile's entry at its visible cycle: TALLOC leaves the entry STORED, owned by the core, with its format, flags and granules,
EXC set for a floating format, and FREEGR smaller by the extent; TFREE leaves it FREE, with its granules given back; TSYM leaves a
symbol that reads as its elements; TOWN changes the owner; TFLAG writes the flags its enables name, a clear DET cancels the detections
pending and a clear KEEP on a symbol that holds kept storage returns that storage to the free map and to FREEGR; no other tile's entry
changes, but the repeater count of a repeater's source. The end of a promotion's hold and the arrival of a detection. A promoted symbol
becomes STORED and every row of it reads as before; no other tile's entry changes. A tile whose entry the planned storage no longer
suits, because a result in flight changed it, is left as it is and only the free map takes the granules back (the model's choice, log
46). A detected symbol becomes the tile's kind, with the granules returned unless KEEP is set; a tile that is no longer STORED, or has
repeaters, stays as it is. With nothing due nothing changes. Stated of one tile at a time, and not of repeaters. -/
def Obligations.TileChangesTakeEffect : Prop :=
  Sys2Proof.Stmt.TileChangesTakeEffect1 ∧ Sys2Proof.Stmt.PromotionsAndDetections

/-- The handle operations complete 3 cycles after issue: HMOV, HSET and HGET move a handle and its 64-bit words; HMKT makes the TILE handle
of (X[b] + imm) modulo 4096; HMKW packs a WALK from the fields of X[b], X[c] and its immediate; HMKV packs a VIEW of an object from its
OID and GEN, the offset, the counts (0 counting as 65536) and the strides, dense or kept, and raises HANDLE of another handle. -/
def Obligations.HandleResults : Prop :=
  ∀ (s : State) (g : Guard) (d h : HReg) (x a b : XReg) (k : BitVec 2) (imm : BitVec 12) (w : BitVec 24) (fmt : BitVec 5) (keep : Bool),
    s.core.guard g = true →
    exec (.hmov g d h) s = .next (s.sched 3 (.h d (s.core.h h))) ∧
    (∃ v : Handle, exec (.hset g d a k) s = .next (s.sched 3 (.h d v)) ∧
      ∀ j : BitVec 2, v.extractLsb' (64 * j.toNat) 64 = if j = k then s.core.x a else (s.core.h d).extractLsb' (64 * j.toNat) 64) ∧
    exec (.hget g x h k) s = .next (s.sched 3 (.x x ((s.core.h h).extractLsb' (64 * k.toNat) 64))) ∧
    (∃ v : Handle, exec (.hmkt g d a imm) s = .next (s.sched 3 (.h d v)) ∧
      v.kind = 1 ∧ v.tix = ((s.core.x a).toNat + imm.toNat) % 4096 ∧ v = BitVec.ofNat 256 (2 ^ 252 + v.tix)) ∧
    (∃ v : Handle, exec (.hmkw g d a b w) s = .next (s.sched 3 (.h d v)) ∧
      let p := s.core.x a
      let q := s.core.x b
      v.kind = 2 ∧ v.extractLsb' 232 12 = p.extractLsb' 0 12 ∧ v.extractLsb' 228 4 = p.extractLsb' 12 4 ∧
      v.extractLsb' 24 12 = p.extractLsb' 16 12 ∧ v.extractLsb' 16 8 = w.extractLsb' 16 8 ∧ v.extractLsb' 0 16 = w.extractLsb' 0 16 ∧
      v.extractLsb' 36 16 = q.extractLsb' 0 16 ∧ v.extractLsb' 52 8 = q.extractLsb' 16 8 ∧ v.extractLsb' 60 12 = q.extractLsb' 24 12 ∧
      v.extractLsb' 72 156 = 0 ∧ v.extractLsb' 244 8 = 0) ∧
    (let o := s.core.h h;
      (o.kind ≠ 3 → o.kind ≠ 4 → exec (.hmkv g d h a b fmt keep) s = .next (s.trap 0x06 0 0 (h.setWidth 64))) ∧
      (o.kind = 3 ∨ o.kind = 4 → ∃ v : Handle, exec (.hmkv g d h a b fmt keep) s = .next (s.sched 3 (.h d v)) ∧
        let c := s.core.x b
        let full (n : BitVec 16) : Nat := if n = 0 then 65536 else n.toNat;
        v.kind = 5 ∧ v.extractLsb' 64 32 = o.extractLsb' 64 32 ∧ v.extractLsb' 96 16 = o.extractLsb' 96 16 ∧
        v.extractLsb' 0 64 = o.extractLsb' 0 64 + s.core.x a ∧ v.extractLsb' 112 48 = c.extractLsb' 0 48 ∧ v.extractLsb' 224 5 = fmt ∧
        v.getLsbD 229 = decide (o.kind = 3) ∧
        v.extractLsb' 160 64 = if keep then (s.core.h d).extractLsb' 160 64
          else BitVec.ofNat 32 (full (c.extractLsb' 0 16) * full (c.extractLsb' 16 16)) ++ BitVec.ofNat 32 (full (c.extractLsb' 0 16))))

/-- The port, staging, MA and pattern operations complete: PORTSET binds a WALK, without its reserved fields, one cycle after issue, or
unbinds 3 cycles after; a write port's walk visits only tiles of the core, of which none need be promoted, and cancels their detections. PORTGET returns
the walk and the indices, or NULL and 0; PORTADV moves a bound port by X[b] + n steps, or to given indices, and raises HANDLE on an
unbound one (with TRAPINFO1 0 and no handle register: log 38). STG and MAPUT move X registers, 1 cycle after issue; PATLD puts `n` rows of an 8-bit tile in flight to the bank that is
inactive, entry j visible 3 + j cycles after issue; PATSW exchanges the banks 1 cycle after issue. -/
def Sys2Proof.Stmt.PortAndPatternOperations1 : Prop :=
  ∀ (s : State) (g : Guard) (h : HReg) (x a : XReg) (p : BitVec 4) (r : BitVec 4) (e : BitVec 6) (n : BitVec 5) (m : BitVec 20) (j : BitVec 3),
    s.core.guard g = true →
    let w := s.core.h h
    let q := s.core.port p.toNat
    let t := w.tix
    let k := s.core.tile t
    let bound : Port := { bound := true, walk := walkCopy w }
    (w.kind ≠ 2 → exec (.portsetBind g h p) s = .next (s.trap 0x06 0 0 (h.setWidth 64))) ∧
    (w.kind = 2 → p.toNat < 8 → exec (.portsetBind g h p) s = .next (s.sched 1 (.port p.toNat bound true))) ∧
    (w.kind = 2 → 8 ≤ p.toNat → walkLen w ≤ 1024 → (∀ i ∈ walkTiles w, (s.core.tile i).kind ≠ 0 ∧ (s.core.tile i).own = 0) →
      s.core.mustPromote (walkTiles w) = false →
      ∃ u : State, exec (.portsetBind g h p) s = .next (u.sched 1 (.port p.toNat bound true)) ∧
        u = { s with core := { s.core with dets := u.core.dets } } ∧
        u.core.dets = s.core.dets.filter (fun d => !(walkTiles w).contains d.tile)) ∧
    ((walkCopy w).extractLsb' 228 16 = w.extractLsb' 228 16 ∧
      (walkCopy w).extractLsb' 0 108 = w.extractLsb' 0 108 ∧ (walkCopy w).kind = 2) ∧
    exec (.portsetClr g p) s = .next (s.sched 3 (.port p.toNat {} false)) ∧
    exec (.portget g h x p) s = .next (((s.sched 3 (.h h (if q.bound then q.walk else 0)))).sched 3 (.x x q.word)) ∧
    (q.bound = true →
      exec (.portadvStep g a p m) s = .next (s.sched 1 (.portStep p.toNat (s.core.x a + m.setWidth 64).toNat)) ∧
      exec (.portadvSet g a p) s = .next (s.sched 3 (.portSet p.toNat (s.core.x a)))) ∧
    (q.bound = false → exec (.portadvStep g a p m) s = .next (s.trap 0x06) ∧ exec (.portadvSet g a p) s = .next (s.trap 0x06)) ∧
    exec (.stgPut g x a) s = .next (s.sched 1 (.stg x (s.core.x a))) ∧
    exec (.stgGet g x a) s = .next (s.sched 1 (.x x (s.core.stg a))) ∧
    exec (.maput g j a) s = .next (s.sched 1 (.ma j ((s.core.x a).extractLsb' 0 32))) ∧
    (w.kind = 1 → k.kind ≠ 0 → k.own = 0 → (fmtOf k.fmt).width = 8 →
      ∃ u, exec (.patld g h r e n) s = .next u ∧ ∃ l : List Pend, l.length = n.toNat ∧
        u = { s with core := { s.core with flight := s.core.flight ++ l, iss := { s.core.iss with seq := s.core.iss.seq + n.toNat } } } ∧
        ∀ i : Nat, i < n.toNat → ∃ z ∈ l, z.due = s.cycle + 3 + i ∧
          z.w = .pattern (if s.core.r.patbank then 0 else 1) (e.toNat + i) (BitVec.ofNat 512 (packN 8 (s.core.tileRow t (r.toNat + i))))) ∧
    exec (.patsw g) s = .next (s.sched 1 .patSwitch)

/-- A port steps through its walk as the indices count, lowest level first: n steps from step k of a pass of `len` rows end at step
(k + n) modulo `len`, the port stays bound to the same walk, and WRAP is set once a pass has been completed; RESULT_VISIBLE applies it.
PORTADV.set loads the indices, each modulo its count, and WRAP, into the port as it then stands. An unbound port ignores both; binding a write port clears WP of the tiles its walk visits and their pending detections. -/
def Sys2Proof.Stmt.PortSteps : Prop :=
  (∀ (p : Port) (n : Nat), p.i0 < walkCnt p.walk 0 → p.i1 < walkCnt p.walk 1 → p.i2 < walkCnt p.walk 2 →
    let q := p.advance n
    q.walk = p.walk ∧ q.bound = p.bound ∧ q.lin = (p.lin + n) % walkLen p.walk ∧ q.i0 < walkCnt p.walk 0 ∧ q.i1 < walkCnt p.walk 1 ∧
    q.i2 < walkCnt p.walk 2 ∧ q.wrap = (p.wrap || decide (walkLen p.walk ≤ p.lin + n))) ∧
  (∀ (c : Core) (now k n : Nat), k < 12 →
    let d := c.applyWrite now (.portStep k n)
    (d.port k = if (c.port k).bound then (c.port k).advance n else c.port k) ∧ (∀ j : Nat, j ≠ k → d.port j = c.port j) ∧
    d = { c with ports := d.ports }) ∧
  (∀ (c : Core) (now k : Nat) (w : Word), k < 12 →
    let p := c.port k
    let d := c.applyWrite now (.portSet k w)
    let ix (l : Nat) : Nat := (w.extractLsb' (16 * l) 16).toNat % walkCnt p.walk l
    d.port k = (if p.bound then { p with i0 := ix 0, i1 := ix 1, i2 := ix 2, wrap := w.getLsbD 48 } else p) ∧
    (∀ j : Nat, j ≠ k → d.port j = c.port j) ∧ d = { c with ports := d.ports }) ∧
  (∀ (c : Core) (now k t : Nat) (p : Port), Sparse.wf {} c.tiles = true → 8 ≤ k → k < 12 → walkLen p.walk ≤ 1024 → t ∈ walkTiles p.walk →
    let d := c.applyWrite now (.port k p true)
    d.port k = p ∧ (d.tile t).wp = 0 ∧ (d.tile t).kind = (c.tile t).kind ∧ (∀ x ∈ d.dets, x.tile ≠ t) ∧ d.r = c.r ∧ d.sp = c.sp)

/-- The port, staging, MA and pattern operations complete: PORTSET binds a WALK, without its reserved fields, one cycle after issue, or
unbinds 3 cycles after; a write port's walk visits only tiles of the core, of which none need be promoted, and cancels their detections.
PORTGET returns the walk and the indices, or NULL and 0; PORTADV moves a bound port by X[b] + n steps, or to given indices, and raises
HANDLE on an unbound one (with TRAPINFO1 0 and no handle register: log 38). STG and MAPUT move X registers, 1 cycle after issue; PATLD
puts `n` rows of an 8-bit tile in flight to the bank that is inactive, entry j visible 3 + j cycles after issue; PATSW exchanges the
banks 1 cycle after issue. A port steps through its walk as the indices count, lowest level first: n steps from step k of a pass of
`len` rows end at step (k + n) modulo `len`, the port stays bound to the same walk, and WRAP is set once a pass has been completed;
RESULT_VISIBLE applies it. PORTADV.set loads the indices, each modulo its count, and WRAP, into the port as it then stands. An unbound
port ignores both; binding a write port clears WP of the tiles its walk visits and their pending detections. -/
def Obligations.PortAndPatternOperations : Prop :=
  Sys2Proof.Stmt.PortAndPatternOperations1 ∧ Sys2Proof.Stmt.PortSteps

/-! ### Objects and the token tree -/

/-- An object operation, at issue: sent once, with its operand handle, and held with nothing else changed; it stays held until its home
slice has answered, and then issues with the answer, a trap or results visible 3 cycles later. A handle of another kind, or beyond
the object table, raises HANDLE (at issue, before any round trip; that, and that the operand is read when the operation is sent, is the model's
reading, log 18). OBJECT_OP_HOME goes on in every state: with nothing due it changes nothing, an object check that is due
enters its object in the object cache and leaves the hold, and an OSTAT is answered with its word. -/
def Obligations.ObjectOperationsAtIssue : Prop :=
  (∀ s : State, s.core.hold.chk = none → s.nextObj = none → exec .objectOpHome s = .next s) ∧
  (∀ (s : State) (oid due : Nat), s.core.hold.chk = some (oid, due) → due ≤ s.cycle → s.nextObj = none →
    exec .objectOpHome s = .next { s with core := { s.core with
      ocache := (s.core.ocache ++ [oid]).drop (s.core.ocache.length - 63), hold := { s.core.hold with chk := none } } }) ∧
  (∀ (s : State) (op : ObjOp) (g : Guard) (d : XReg) (h : HReg) (k : BitVec 2), s.core.hold.chk = none → s.nextObj = some op →
    op.i = .ostat g d h k → s.core.r.prot = false →
    let done : ObjOp := { op with ans := some (none, 0, ((s.space s.core.task.asid).objs.get {} op.h.oid).word k.toNat, false) }
    let all := s.core.hold.obj.map (fun o => if o.pcv = op.pcv then done else o)
    exec .objectOpHome s = .next { s with core := { s.core with hold := { s.core.hold with obj := all } } }) ∧
  (∀ s : State, ∃ t, exec .objectOpHome s = .next t) ∧
  ∀ (s : State) (g : Guard) (hd h : HReg) (x a : XReg) (q : QReg) (prio : BitVec 4) (cow wr : Bool) (fmt : BitVec 5)
    (geom tier k : BitVec 2), s.core.guard g = true → s.core.r.prot = false → s.core.log = [] →
    let alloc : Instr := .oalloc g hd a q prio cow fmt geom tier wr
    let strong : List Instr := [.oref g hd h, .odrop g h, .oweak g hd h]
    let weak : List Instr := [.ounweak g h q, .oupg g hd h q]
    let any : List Instr := [.oprio g h q prio, .ostat g x h k]
    let w := s.core.h h
    let ok (l : List Nat) : Bool := l.contains w.kind && decide (w.oid < (s.space s.core.task.asid).osize)
    let sent (i : Instr) (w : Handle) (x : Word) : Prop := ∃ t op, exec i s = .next t ∧ t.core.iss.verdict = .held ∧
      t = { s with free := s.free + 1, core := { s.core with iss := t.core.iss, hold := { s.core.hold with obj := s.core.hold.obj ++ [op] } } } ∧
      op.i = i ∧ op.h = w ∧ op.x = x ∧ op.ans = none ∧ s.cycle ≤ op.due ∧ op.seq = s.core.iss.seq ∧ op.pcv = s.core.pairValue
    (s.core.sentObj = none →
      sent alloc 0 (s.core.x a) ∧
      (ok [3] = true → ∀ i ∈ strong, sent i w 0) ∧ (ok [4] = true → ∀ i ∈ weak, sent i w 0) ∧ (ok [3, 4] = true → ∀ i ∈ any, sent i w 0) ∧
      (ok [3] = false → ∀ i ∈ strong, exec i s = .next (s.trap 0x06 0 0 (h.setWidth 64))) ∧
      (ok [4] = false → ∀ i ∈ weak, exec i s = .next (s.trap 0x06 0 0 (h.setWidth 64))) ∧
      (ok [3, 4] = false → ∀ i ∈ any, exec i s = .next (s.trap 0x06 0 0 (h.setWidth 64)))) ∧
    (∀ op, s.core.sentObj = some op → op.ans = none → ∀ i ∈ alloc :: strong ++ weak ++ any, ∃ t, exec i s = .next t ∧ Held s t) ∧
    (∀ op trap v z b, s.core.sentObj = some op → op.ans = some (some trap, v, z, b) → ∀ i ∈ alloc :: strong ++ weak ++ any,
      exec i s = .next (s.trapSlot { trap with slot := s.core.iss.slot })) ∧
    (∀ op v z b, s.core.sentObj = some op → op.ans = some (none, v, z, b) →
      exec alloc s = .next ((s.sched 3 (.h hd v)).sched 3 (.q q b)) ∧
      exec (.oref g hd h) s = .next (s.sched 3 (.h hd v)) ∧ exec (.odrop g h) s = .next s ∧
      exec (.oweak g hd h) s = .next (s.sched 3 (.h hd v)) ∧ exec (.ounweak g h q) s = .next (s.sched 3 (.q q b)) ∧
      exec (.oupg g hd h q) s = .next ((s.sched 3 (.h hd v)).sched 3 (.q q b)) ∧
      exec (.oprio g h q prio) s = .next (s.sched 3 (.q q b)) ∧ exec (.ostat g x h k) s = .next (s.sched 3 (.x x z)))

/-- OBJECT_OP_HOME: the operation acts on its entry of the object table and is answered, with no other entry, no register and no byte of
memory changed: the counts of Table 9, RCSAT at a count's end, HANDLE for a generation that is gone, COND true for an operation on a
gone object; the last reference of a LIVE object leaves the entry FREE with GEN one higher; OUPG gives the entry a new use stamp; a copy-on-write
object's pages become read-only with its second strong reference. The
check of a load's object is remembered. -/
def Sys2Proof.Stmt.ObjectTableOperations : Prop :=
  (∀ (s : State) (op : ObjOp), s.core.hold.chk = none → s.nextObj = some op → s.core.r.prot = false →
    let asid := s.core.task.asid
    let oid := op.h.oid
    let o := (s.space asid).objs.get {} oid
    let gen := op.h.gen
    let live : Prop := gen = o.gen ∧ o.state = 1
    (∃ sp, (asid, sp) ∈ s.spaces) → Sparse.wf {} (s.space asid).objs = true →
    ∃ t, exec .objectOpHome s = .next t ∧ t.core.r = s.core.r ∧
      let after := (t.space asid).objs.get {} oid
      let answer (trap : Option Trap) (v : Handle) (z : Word) (b : Bool) : Prop := { op with ans := some (trap, v, z, b) } ∈ t.core.hold.obj
      let handle (h : HReg) : Prop := after = o ∧ answer (some { code := 0x06, info := #v[0, h.setWidth 64, 0, 0] }) 0 0 false
      let full : Prop := after = o ∧ answer (some { code := 0x07, info := #v[0, BitVec.ofNat 64 oid, 0, 0] }) 0 0 false
      ((∀ g hd a q p c f m r w, op.i ≠ .oalloc g hd a q p c f m r w) →
        SameBytes s t ∧ ∀ k : Nat, k ≠ oid → (t.space asid).objs.get {} k = (s.space asid).objs.get {} k) ∧
      (∀ g hd h, op.i = .oref g hd h →
        (gen ≠ o.gen ∨ o.strong = 0 → handle h) ∧ (gen = o.gen → 0xFFFF ≤ o.strong → full) ∧
        (gen = o.gen → o.strong ≠ 0 → o.strong < 0xFFFF → after = { o with strong := o.strong + 1, ro := o.ro || (o.cow && o.write) } ∧ answer none op.h 0 false)) ∧
      (∀ g h, op.i = .odrop g h →
        (gen ≠ o.gen → handle h) ∧ (gen = o.gen → o.strong = 0 → full) ∧
        (live → o.strong ≠ 0 → (1 < o.strong ∨ o.weak ≠ 0) → after = { o with strong := o.strong - 1 } ∧ answer none 0 0 false) ∧
        (live → o.strong = 1 → o.weak = 0 → after = { o with strong := 0, state := 0, gen := o.gen + 1 } ∧ answer none 0 0 false)) ∧
      (∀ g hd h, op.i = .oweak g hd h →
        (gen ≠ o.gen ∨ o.strong = 0 → handle h) ∧ (gen = o.gen → o.strong ≠ 0 → 0xFFFF ≤ o.weak → full) ∧
        (gen = o.gen → o.strong ≠ 0 → o.weak < 0xFFFF → after = { o with weak := o.weak + 1 } ∧ answer none (Handle.withKind op.h 4) 0 false)) ∧
      (∀ g h q, op.i = .ounweak g h q →
        (live → o.weak = 0 → full) ∧
        (live → o.weak ≠ 0 → (1 < o.weak ∨ o.strong ≠ 0) → after = { o with weak := o.weak - 1 } ∧ answer none 0 0 false) ∧
        (live → o.weak = 1 → o.strong = 0 → after = { o with weak := 0, state := 0, gen := o.gen + 1 } ∧ answer none 0 0 false) ∧
        (o.state = 2 → gen + 1 = o.gen → 1 < o.weak → after = { o with weak := o.weak - 1 } ∧ answer none 0 0 true) ∧
        (o.state = 2 → gen + 1 = o.gen → o.weak = 1 → after = { o with weak := 0, state := 0 } ∧ answer none 0 0 true) ∧
        (¬ live → ¬ (o.state = 2 ∧ gen + 1 = o.gen) → after = o ∧ answer none 0 0 true)) ∧
      (∀ g hd h q, op.i = .oupg g hd h q →
        (live → 0xFFFF ≤ o.strong → full) ∧
        (live → o.strong < 0xFFFF → t.ustamp = (s.ustamp + 1) % 2 ^ 32 ∧ 
          after = { o with strong := o.strong + 1, ustamp := t.ustamp, ro := o.ro || (o.cow && o.write && decide (o.strong ≠ 0)) } ∧
          answer none (Handle.withKind op.h 3) 0 false) ∧
        (¬ live → after = o ∧ answer none 0 0 true)) ∧
      (∀ g h q p, op.i = .oprio g h q p →
        (live → after = { o with prio := p.toNat } ∧ answer none 0 0 false) ∧
        (¬ live → op.h.kind = 3 → gen ≠ o.gen → handle h) ∧ (¬ live → ¬ (op.h.kind = 3 ∧ gen ≠ o.gen) → after = o ∧ answer none 0 0 true)) ∧
      (∀ g d h k, op.i = .ostat g d h k → after = o ∧ answer none 0 (o.word k.toNat) false)) ∧
  (∀ (s : State) (oid due : Nat), s.core.hold.chk = some (oid, due) → due ≤ s.cycle → s.nextObj = none →
    ∃ t, exec .objectOpHome s = .next t ∧ t.core.hold.chk = none ∧ oid ∈ t.core.ocache ∧ t.core.r = s.core.r ∧ SameBytes s t)

/-- OALLOC at its home slice: a size of 0 or above 2^40 answers NULL and true. With pages free it answers NULL and true only where the
table has no entry for it (`pickOid`) or, by the model's choice of log 18, the address space no run of pages (`spot`); else it takes that
entry, leaves it LIVE at that page with one strong reference, its GEN, the size in pages and the attributes asked for, answers its OBJS
handle and false, lowers the tier's free pages by the size and leaves every byte of the object zero. Without pages it waits for those
of destroyed objects whose markers are on their way (log 18), and with none of these, nor an object to destroy, it answers NULL and
true. -/
def Sys2Proof.Stmt.ObjectAllocation : Prop :=
  ∀ (s : State) (op : ObjOp) (g : Guard) (hd : HReg) (a : XReg) (q : QReg) (prio : BitVec 4) (cow wr : Bool) (fmt : BitVec 5)
    (geom tier : BitVec 2), s.core.hold.chk = none → s.nextObj = some op → op.i = .oalloc g hd a q prio cow fmt geom tier wr →
    s.core.r.prot = false → tier ≠ 3 →
    let asid := s.core.task.asid
    let n := op.x.toNat
    let pages := (n + 4095) / 4096
    let u : Nat := if geom.toNat = 2 ∧ (fmtOf fmt.toNat).width = 16 then 16 else 1
    (∃ sp, (asid, sp) ∈ s.spaces) → Sparse.wf {} (s.space asid).objs = true →
    ∃ t, exec .objectOpHome s = .next t ∧ t.core.r = s.core.r ∧
      let none' : Prop := { op with ans := some (none, 0, 0, true) } ∈ t.core.hold.obj
      (n = 0 ∨ 2 ^ 40 < n → none' ∧ t.spaces = s.spaces ∧ t.mem = s.mem ∧ t.freePages = s.freePages) ∧
      let entry := (s.space asid).pickOid s.draw.1
      let first := ((s.space asid).nextVa + 65535) / 65536 * 16 + s.draw.2.draw.1 % 2 ^ 16 * 16
      let place := (s.space asid).spot first ((pages + 15) / 16 * 16)
      (∀ l, n ≠ 0 → n ≤ 2 ^ 40 → pages ≤ s.freeBoth tier.toNat u → s.findFrames pages tier.toNat u = some l →
        (entry = none ∨ place = none → none') ∧
        (∀ oid size page, entry = some (oid, size) → place = some page →
          { op with ans := some (none, objHandle oid ((s.space asid).objs.get {} oid).gen, 0, false) } ∈ t.core.hold.obj ∧
          let o := (t.space asid).objs.get {} oid
          (oid < (s.space asid).osize → ((s.space asid).objs.get {} oid).state = 0 ∧ ((s.space asid).objs.get {} oid).gen < 0xFFFF) ∧
          o.state = 1 ∧ o.strong = 1 ∧ o.weak = 0 ∧ o.pages = pages ∧ o.base = page * 4096 ∧ o.prio = prio.toNat ∧ o.cow = cow ∧ o.fmt = fmt.toNat ∧
          o.geom = geom.toNat ∧ o.tier = tier.toNat ∧ o.write = wr ∧ o.gen = ((s.space asid).objs.get {} oid).gen ∧
          ((tier = 2 → s.freePages.toList.getD 5 0 = 0) → t.freeBoth tier.toNat 1 + pages = s.freeBoth tier.toNat 1) ∧
          ∀ r ∈ o.bytes l, ∀ a : Nat, r.1 ≤ a → a < r.1 + r.2 → t.readByte a = 0)) ∧
      (n ≠ 0 → n ≤ 2 ^ 40 → s.freeBoth tier.toNat u < pages ∨ s.findFrames pages tier.toNat u = none →
        ¬ (s.freeBoth tier.toNat u < pages ∧ pages ≤ s.freeSoon tier.toNat u) → s.eligible none tier.toNat = [] → none') ∧
      (n ≠ 0 → n ≤ 2 ^ 40 → s.freeBoth tier.toNat u < pages → pages ≤ s.freeSoon tier.toNat u →
        { op with due := s.cycle + 4, reclaims := true } ∈ t.core.hold.obj)

/-- OBJECT_OP_HOME: the operation acts on its entry of the object table and is answered, with no other entry, no register and no byte of
memory changed: the counts of Table 9, RCSAT at a count's end, HANDLE for a generation that is gone, COND true for an operation on a
gone object; the last reference of a LIVE object leaves the entry FREE with GEN one higher; OUPG gives the entry a new use stamp; a
copy-on-write object's pages become read-only with its second strong reference. The check of a load's object is remembered. OALLOC at
its home slice: a size of 0 or above 2^40 answers NULL and true. With pages free it answers NULL and true only where the table has no
entry for it (`pickOid`) or, by the model's choice of log 18, the address space no run of pages (`spot`); else it takes that entry,
leaves it LIVE at that page with one strong reference, its GEN, the size in pages and the attributes asked for, answers its OBJS handle
and false, lowers the tier's free pages by the size and leaves every byte of the object zero. Without pages it waits for those of
destroyed objects whose markers are on their way (log 18), and with none of these, nor an object to destroy, it answers NULL and true. -/
def Obligations.ObjectTable : Prop :=
  Sys2Proof.Stmt.ObjectTableOperations ∧ Sys2Proof.Stmt.ObjectAllocation

/-- The token-tree operations complete 3 cycles after issue: KTCLR empties the file; KTADD puts a node under X[b] in the first index past the
valid ones, with its slot and parameter bits, and its index in X[d]; KTSET writes a node; KTGET reads a node's word, its depth, the
number of valid nodes; KTANC, KTPOS and KTPRUNE write all 16 rows of a tile of their format: ancestor bits, positions, and the path to a
leaf with the rejected nodes, its length in X[d] and an empty file. A full file, a parent that is not valid or not below its child,
or a leaf that is not valid raises TREE with the node (KTADD with the index of the new node, also for a bad parent, and over the nodes that are
visible: log 39). -/
def Sys2Proof.Stmt.TreeOperations : Prop :=
  ∀ (s : State) (g : Guard) (ha : HReg) (d b c : XReg), s.core.guard g = true →
    let node (i : Nat) : Word := s.core.tree.get nodeReset i
    let valid (i : Nat) : Bool := (node i).getLsbD 63
    let i := (s.core.x b).toNat % 256
    let n := s.core.nextNode
    let w := s.core.x c &&& 0x80FFFFFFFFFFFFFF
    let p := w.toNat / 2 ^ 48 % 256
    let leafTree (s : State) (k : Nat) : Out := .next (s.trap 0x09 0 0 (BitVec.ofNat 64 k))
    let put (t : Nat) (els : List Nat) (x : Option (XReg × Word)) : Out :=
      .next (({ s with core := { s.core with dets := s.core.dets.filter (fun k => k.tile != t) } } : State).sched 3 (.rows t els x))
    exec (.ktclr g) s = .next (s.sched 3 .treeClear) ∧
    (n < 256 → (i = 255 ∨ (i < n ∧ valid i = true)) → exec (.ktadd g d b c) s =
      .next ((s.sched 3 (.node n (BitVec.ofNat 64 (2 ^ 63 + i * 2 ^ 48 + (s.core.x c).toNat % 2 ^ 48)))).sched 3 (.x d (BitVec.ofNat 64 n)))) ∧
    (n = 256 ∨ (i ≠ 255 ∧ (n ≤ i ∨ valid i = false)) → exec (.ktadd g d b c) s = leafTree s n) ∧
    (w.getLsbD 63 = true → (p = 255 ∨ (p < i ∧ valid p = true)) → exec (.ktset g b c) s = .next (s.sched 3 (.node i w))) ∧
    (w.getLsbD 63 = true → p ≠ 255 → (i ≤ p ∨ valid p = false) → exec (.ktset g b c) s = leafTree s i) ∧
    (w.getLsbD 63 = false → (i = 255 ∨ ∀ j ∈ s.core.nodes, (node j).toNat / 2 ^ 48 % 256 ≠ i) →
      exec (.ktset g b c) s = .next (s.sched 3 (.node i w))) ∧
    (w.getLsbD 63 = false → i ≠ 255 → (∃ j ∈ s.core.nodes, (node j).toNat / 2 ^ 48 % 256 = i) →
      exec (.ktset g b c) s = leafTree s i) ∧
    exec (.ktgetNode g d b) s = .next (s.schedX 3 d (node i)) ∧
    exec (.ktgetDepth g d b) s = .next (s.schedX 3 d (BitVec.ofNat 64 (s.core.depth i))) ∧
    exec (.ktgetNodes g d) s = .next (s.schedX 3 d (BitVec.ofNat 64 s.core.nodes.length)) ∧
    ((s.core.h ha).kind = 1 →
      let t := (s.core.h ha).tix
      let e := s.core.tile t
      e.kind ≠ 0 → e.own = 0 → s.core.mustPromote [t] = false →
      (e.fmt = Fmt.mask1.code → ∃ els, exec (.ktanc g ha b c) s = put t els none ∧ els.length = 1024 ∧
        ∀ r k : Nat, r < 16 → k < 64 → els.getD (64 * r + k) 0 =
          if s.core.anc (((s.core.x b).extractLsb' 4 4).toNat * 16 + r) (((s.core.x c).extractLsb' 6 2).toNat * 64 + k) then 1 else 0) ∧
      (e.fmt = Fmt.int32.code → ∃ els, exec (.ktpos g ha b) s = put t els none ∧ els.length = 1024 ∧
        ∀ k : Nat, k < 1024 → els.getD k 0 =
          if k < 256 then (if valid k then ((s.core.x b).toNat + s.core.depth k) % 2 ^ 32 else 0xFFFFFFFF) else 0) ∧
      (e.fmt = Fmt.int32.code → valid i = false → exec (.ktprune g d ha b c) s = leafTree s i) ∧
      (e.fmt = Fmt.int32.code → valid i = true →
        let path := s.core.treePath 256 i
        let gone := s.core.nodes.filter (fun j => !path.contains j)
        ∃ els, exec (.ktprune g d ha b c) s = put t els (some (d, BitVec.ofNat 64 path.length)) ∧ els.length = 1024 ∧
          (∀ k : Nat, k < 256 → els.getD (2 * k) 0 = (if k < path.length then (node (path.getD k 0)).toNat / 2 ^ 32 % 2 ^ 16 else 0xFFFFFFFF) ∧
            els.getD (2 * k + 1) 0 = (if k < path.length then ((s.core.x c).toNat + k) % 2 ^ 32 else 0xFFFFFFFF) ∧
            els.getD (512 + k) 0 = (if k < gone.length then (node (gone.getD k 0)).toNat / 2 ^ 32 % 2 ^ 16 else 0xFFFFFFFF) ∧
            els.getD (768 + k) 0 = 0)))

/-- Ancestors in the token tree, in a file whose valid nodes have valid parents below them: a node's own bit and its parent's bits, and
no bit for an invalid node; a root has depth 0 and a child one more than its parent; the path that KTPRUNE writes goes from the root
through the ancestors to the node. -/
def Sys2Proof.Stmt.TreeAncestors : Prop :=
  ∀ (c : Core), (∀ i : Nat, i < 256 → c.valid i = true → nodeParent (c.node i) = 255 ∨ (nodeParent (c.node i) < i ∧ c.valid (nodeParent (c.node i)) = true)) →
    ∀ i j : Nat, i < 256 → j < 256 →
      (c.valid i = false → c.anc i j = false ∧ c.depth i = 0) ∧
      (c.valid i = true →
        let p := nodeParent (c.node i)
        (p = 255 → c.anc i j = decide (j = i) ∧ c.depth i = 0 ∧ c.treePath 256 i = [i]) ∧
        (p ≠ 255 → c.anc i j = (decide (j = i) || c.anc p j) ∧ c.depth i = c.depth p + 1 ∧ c.treePath 256 i = c.treePath 256 p ++ [i]))

/-- The token-tree operations complete 3 cycles after issue: KTCLR empties the file; KTADD puts a node under X[b] in the first index past
the valid ones, with its slot and parameter bits, and its index in X[d]; KTSET writes a node; KTGET reads a node's word, its depth, the
number of valid nodes; KTANC, KTPOS and KTPRUNE write all 16 rows of a tile of their format: ancestor bits, positions, and the path to a
leaf with the rejected nodes, its length in X[d] and an empty file. A full file, a parent that is not valid or not below its child, or a
leaf that is not valid raises TREE with the node (KTADD with the index of the new node, also for a bad parent, and over the nodes that
are visible: log 39). Ancestors in the token tree, in a file whose valid nodes have valid parents below them: a node's own bit and its
parent's bits, and no bit for an invalid node; a root has depth 0 and a child one more than its parent; the path that KTPRUNE writes
goes from the root through the ancestors to the node. -/
def Obligations.TokenTree : Prop :=
  Sys2Proof.Stmt.TreeOperations ∧ Sys2Proof.Stmt.TreeAncestors

/-! ### The Windlass -/

/-- WLCFG, SETSEQ and WLTPL complete 1 cycle after issue: a configuration word, SEQLEN, or the range of a template, whose entries lie in
the dictionary, have LAST in the last and only there, and hold no operation that a template may not (else ENC with 1 or 2). WLSTAT
returns, 3 cycles after issue, a configuration word (of the captured copy for a captured level while a replay runs or is suspended),
a counter, a channel's offset, which is the sum over the captured levels of counter times increment where none is indirect, or the
position (that a level at or above D reads the stored words during a replay is the model's reading, log 24). WLSTOP in a replayed bundle ends the replay with its pass, and has no effect in the stream. -/
def Obligations.WindlassConfiguration : Prop :=
  ∀ (s : State) (g : Guard) (d a b : XReg) (lv : BitVec 3) (word : BitVec 4) (tpl : BitVec 2) (item : BitVec 5), s.core.guard g = true →
    let w := s.core.wl
    let start := ((s.core.x a).extractLsb' 0 10).toNat
    let len := ((s.core.x b).extractLsb' 0 11).toNat
    let read (k : Nat) : Word := if (w.active = true ∨ w.susp = true) ∧ lv.toNat < w.depth then w.cap.get 0 (lv.toNat * 16 + k) else w.cfg.get 0 (lv.toNat * 16 + k)
    let bad (k : Nat) : Bool := let e := s.core.dict.get 0 (start + k); let last := decide (k + 1 = len);
      e.getLsbD 8 != last || (last && !e.getLsbD 6) ||
        (e.getLsbD 0 && [0x40, 0x41, 0x42, 0x43, 0x44, 0x78, 0xB8, 0xB9, 0xBA, 0xBD].contains (e.extractLsb' 24 8).toNat)
    exec (.wlcfg g a lv word) s = .next (s.sched 1 (.wlWord lv.toNat word.toNat (s.core.x a))) ∧
    exec (.setseq g a) s = .next (s.sched 1 (.seqlen (s.core.x a))) ∧
    (len ≠ 0 → s.core.kern.n < start + len → exec (.wltpl g a b lv tpl) s = .next (s.trap 0x01 0 0 1)) ∧
    ((len = 0 ∨ start + len ≤ s.core.kern.n) → (∃ k, k < len ∧ bad k = true) → exec (.wltpl g a b lv tpl) s = .next (s.trap 0x01 0 0 2)) ∧
    ((len = 0 ∨ start + len ≤ s.core.kern.n) → (∀ k : Nat, k < len → bad k = false) → exec (.wltpl g a b lv tpl) s =
      .next (s.sched 1 (.wlWord lv.toNat (11 + tpl.toNat) (BitVec.ofNat 64 (len * 2 ^ 16 + start))))) ∧
    (item.toNat ≤ 13 → exec (.wlstat g d lv item) s = .next (s.schedX 3 d (read item.toNat))) ∧
    (item = 14 → exec (.wlstat g d lv item) s = .next (s.schedX 3 d (BitVec.ofNat 64 (w.count lv.toNat)))) ∧
    (item = 15 → exec (.wlstat g d lv item) s = .next (s.schedX 3 d (w.woff lv.toNat))) ∧
    (15 < item.toNat → exec (.wlstat g d lv item) s = .next (s.schedX 3 d w.position)) ∧
    ((∀ l : Nat, l < w.depth → (w.word l 0).getLsbD 8 = false) → ∀ ch : Nat,
      w.woff ch = (List.range w.depth).foldl (fun acc l => acc + BitVec.ofNat 64 (w.count l) * w.word l (3 + ch)) 0) ∧
    (w.active = true → s.core.iss.replay = true →
      exec (.wlstop g) s = .next { s with core := { s.core with wl := { w with stop := true } } }) ∧
    (w.active = false ∨ s.core.iss.replay = false → exec (.wlstop g) s = .next s)

/-- WLRUN starts a replay of levels 0 to `lv` from the configuration it captures, with WLACT set and the first replayed bundle 3 cycles
later, where every level has a body and at most one is indirect: the trip counts come from the word, an X register, SEQLEN in rows of 16,
or the number of valid nodes; the index tile of an indirect level is STORED or a symbol, the core's own and of the index format, and
passes to the Windlass 1 cycle later. It holds while a trip count's register is being loaded. A suspended replay is discarded first. -/
def Obligations.WindlassRun : Prop :=
  ∀ (s : State) (g : Guard) (lv : BitVec 3), s.core.guard g = true → lv.toNat < 6 →
    let cfg (l k : Nat) : Word := s.core.wl.cfg.get 0 (16 * l + k)
    let depth := lv.toNat + 1
    let inds := (List.range depth).filter (fun l => (cfg l 0).getLsbD 8)
    let bare : Prop := ∃ l, l < depth ∧ ((cfg l 12).extractLsb' 16 11) = 0
    let busy : Prop := ∃ l, l < depth ∧ (cfg l 0).extractLsb' 0 2 = 1 ∧ s.core.xBusy ((cfg l 0).extractLsb' 2 6) = true
    let trip (l : Nat) : Nat := (match ((cfg l 0).extractLsb' 0 2).toNat with
      | 0 => ((cfg l 0).extractLsb' 32 16).toNat
      | 1 => (s.core.x ((cfg l 0).extractLsb' 2 6)).toNat
      | 2 => (s.core.r.seqlen.toNat + 15) / 16
      | _ => s.core.nodes.length) % 2 ^ 32
    let len (k : Nat) : BitVec 11 := (cfg 0 (11 + k)).extractLsb' 16 11
    let at_ (t : State) (k : Nat) : Prop := t.core.wl.tpl = k ∧ t.core.wl.entry = ((cfg 0 (11 + k)).extractLsb' 0 10).toNat ∧ t.core.wl.fin = false
    let started (t : State) : Prop :=
      t.core.wl.active = true ∧ t.core.wl.susp = false ∧ t.core.wl.depth = depth ∧ t.core.wl.stop = false ∧
      t.core.wl.runIx = s.core.iss.pc ∧ t.core.wl.retIx = s.core.iss.next ∧ t.core.iss.ready = s.cycle + 3 ∧
      (∀ l : Nat, l < depth → t.core.wl.trips.toList.getD l 0 = trip l) ∧ (∀ l k : Nat, l < depth → k < 16 → t.core.wl.cap.get 0 (16 * l + k) = cfg l k) ∧
      t.core.wl.level = 0 ∧ t.core.wl.count 0 = 0 ∧ (len 0 ≠ 0 → at_ t 0) ∧ (len 0 = 0 → trip 0 ≠ 0 → at_ t 1) ∧
      (len 0 = 0 → trip 0 = 0 → len 2 ≠ 0 → at_ t 2) ∧ (len 0 = 0 → trip 0 = 0 → len 2 = 0 → t.core.wl.fin = true) ∧
      t.core.r.kstat.getLsbD 1 = true ∧ (∀ b : Nat, b ≠ 1 → t.core.r.kstat.getLsbD b = s.core.r.kstat.getLsbD b) ∧
      t.core.r = { s.core.r with kstat := t.core.r.kstat } ∧ SameBytes s t
    (s.core.wl.susp = true → exec (.wlrun g lv) s =
      exec (.wlrun g lv) { s with core := { s.core.dropItile with wl := { s.core.dropItile.wl with susp := false } } }) ∧
    (s.core.wl.susp = false → Sparse.wf 0 s.core.wl.cfg = true →
      (busy → ∃ t, exec (.wlrun g lv) s = .next t ∧ Held s t) ∧
      (¬ busy → 1 < inds.length → exec (.wlrun g lv) s = .next (s.trap 0x01 0 0 3)) ∧
      (¬ busy → inds.length ≤ 1 → bare → exec (.wlrun g lv) s = .next (s.trap 0x01 0 0 4)) ∧
      (¬ busy → inds = [] → ¬ bare → ∃ t, exec (.wlrun g lv) s = .next t ∧ t.core.wl.itile = none ∧ t.core.flight = s.core.flight ∧ started t) ∧
      (∀ l, ¬ busy → inds = [l] → ¬ bare →
        let t := ((cfg l 0).extractLsb' 10 12).toNat
        let e := s.core.tile t
        let f : Nat := if (cfg l 0).getLsbD 9 then Fmt.int64.code else Fmt.int32.code
        (e.kind = 0 → exec (.wlrun g lv) s = .next (s.trapTile t 2)) ∧ (e.kind ≠ 0 → e.own ≠ 0 → exec (.wlrun g lv) s = .next (s.trapTile t 3)) ∧
        (e.kind ≠ 0 → e.own = 0 → e.fmt ≠ f → exec (.wlrun g lv) s = .next (s.trapTile t 8)) ∧
        (e.kind ≠ 0 → e.own = 0 → e.fmt = f → ∃ u, exec (.wlrun g lv) s = .next u ∧ u.core.wl.itile = some t ∧
          u.core.flight.map (fun p => (p.due, p.w)) = s.core.flight.map (fun p => (p.due, p.w)) ++ [(s.cycle + 1, .grant t 10 none)] ∧
          started u)))

/-- The order of a replay, over templates with entries: entry by entry; after a prologue the body where the trip count is not 0, else the
epilogue; after a body of an outer level the prologue of the level within, its counter at 0; after one of the innermost level, and
after an epilogue within, the counter of the level one higher, and its body again while it is below the trip count, else its epilogue;
after the epilogue of level 0, and after any pass once WLSTOP has asked, the replay is finished. -/
def Sys2Proof.Stmt.ReplayNestOrder : Prop :=
  ∀ (w : Wl), w.depth ≤ 6 → w.level < w.depth → (∀ l k : Nat, l < w.depth → k < 3 → w.tplLen l k ≠ 0) →
    let q := w.advance
    let trips (l : Nat) : Nat := w.trips.toList.getD l 0
    let last : Prop := w.tplStart w.level w.tpl + w.tplLen w.level w.tpl ≤ w.entry + 1
    let at_ (l k : Nat) : Prop := q.level = l ∧ q.tpl = k ∧ q.entry = w.tplStart l k ∧ q.fin = w.fin
    let kept (l : Nat) : Prop := ∀ j : Nat, j ≠ l → q.count j = w.count j
    let counted (l : Nat) : Prop := q.count l = w.count l + 1 ∧ kept l ∧ (if w.count l + 1 < trips l then at_ l 1 else at_ l 2)
    (¬ last → q = { w with entry := w.entry + 1 }) ∧
    (last → w.stop = true → q = { w with fin := true }) ∧
    (last → w.stop = false →
      (w.tpl = 0 → (∀ j : Nat, q.count j = w.count j) ∧ (if w.count w.level < trips w.level then at_ w.level 1 else at_ w.level 2)) ∧
      (w.tpl = 1 → w.level + 1 < w.depth → at_ (w.level + 1) 0 ∧ q.count (w.level + 1) = 0 ∧ kept (w.level + 1)) ∧
      (w.tpl = 1 → w.level + 1 = w.depth → counted w.level) ∧
      (w.tpl = 2 → w.level = 0 → q = { w with fin := true }) ∧
      (w.tpl = 2 → w.level ≠ 0 → counted (w.level - 1)))

/-- WINDLASS_LOOKUP: 6 cycles after the bundle that looked it up, the element of ITILE is LV, as writes of the core from
before the grant leave it (10 R307). WINDLASS_REPLAY_END: a finished replay ends,
WLACT clears, the stream goes on after WLRUN, and ITILE is the core's again; no other register, and no byte of memory, changes. -/
def Sys2Proof.Stmt.WindlassLookupAndEnd : Prop :=
  (∀ (c : Core) (now l t : Nat), c.wl.active = true → c.wl.ind = some l → c.wl.itile = some t → c.wl.seen ≠ some (c.wl.count l) →
    c.wl.look = none →
    let d := c.wlLook now
    let i := c.wl.count l % 1024
    d.wl.lv = c.wl.lv ∧ d.wl.look = some (now + 6, BitVec.ofNat 64 ((c.rowAhead now t (i / 64)).tileElem t i)) ∧ d.r = c.r ∧ d.tiles = c.tiles ∧
    (c.rowBusy t (i / 64) = false → c.rowAhead now t (i / 64) = c)) ∧
  (∀ (s : State) (due : Nat) (v : Word), s.core.wl.look = some (due, v) → ∃ t, exec .windlassLookup s = .next t ∧
    (due ≤ s.cycle → t.core.wl.lv = v ∧ t.core.wl.look = none) ∧ (s.cycle < due → t = s) ∧
    t = { s with core := { s.core with wl := t.core.wl } }) ∧
  (∀ (s : State), Sparse.wf {} s.core.tiles = true → s.core.wl.active = true → s.core.wl.fin = true →
    ∃ t, exec .windlassReplayEnd s = .next t ∧ t.core.wl.active = false ∧
      t.core.wl.itile = none ∧ t.core.pc = s.core.wl.retIx ∧ t.core.r.kstat.getLsbD 1 = false ∧
      (∀ b : Nat, b ≠ 1 → t.core.r.kstat.getLsbD b = s.core.r.kstat.getLsbD b) ∧ t.core.r = { s.core.r with kstat := t.core.r.kstat } ∧
      (∀ k, s.core.wl.itile = some k → (t.core.tile k).own = 0) ∧ (∀ j : Nat, s.core.wl.itile ≠ some j → t.core.tile j = s.core.tile j) ∧
      (∀ p ∈ t.core.flight, p ∈ s.core.flight) ∧
      (∀ p ∈ s.core.flight, p ∈ t.core.flight ∨ ∃ k, s.core.wl.itile = some k ∧ p.w = .grant k 10 none) ∧ SameBytes s t)

/-- The order of a replay, over templates with entries: entry by entry; after a prologue the body where the trip count is not 0, else the
epilogue; after a body of an outer level the prologue of the level within, its counter at 0; after one of the innermost level, and after
an epilogue within, the counter of the level one higher, and its body again while it is below the trip count, else its epilogue; after
the epilogue of level 0, and after any pass once WLSTOP has asked, the replay is finished. WINDLASS_LOOKUP: 6 cycles after the bundle
that looked it up, the element of ITILE is LV, as writes of the core from before the grant leave it (10 R307). WINDLASS_REPLAY_END: a
finished replay ends, WLACT clears, the stream goes on after WLRUN, and ITILE is the core's again; no other register, and no byte of
memory, changes. -/
def Obligations.ReplayOrder : Prop :=
  Sys2Proof.Stmt.ReplayNestOrder ∧ Sys2Proof.Stmt.WindlassLookupAndEnd

/-! ### Vector operations -/

namespace Sys2Proof.Stmt

/-- The V operations but VSCALE, each as a function of its fields, the decimal ones last. -/
def vectorOps : List (VArgs → Instr) :=
  [.vadd, .vsub, .vmul, .vfma, .vfms, .vmin, .vmax, .vabs, .vneg, .vand, .vor, .vxor, .vnot, .vshl, .vshr, .vsar, .vcmp, .vsel, .vmsk,
   .vcvt, .vclamp, .vmov, .vsplat, .viota, .vexp, .vexpq, .vlog2, .vrcp, .vrsq, .vrefineRcp, .vrefineRsq, .vrrot, .vcrot, .vrbc, .vcbc,
   .vrred, .vcred, .vrscan, .vshuf, .dadd, .dsub, .dmul, .dfma, .dquant, .drnd, .dcmp, .dcvtTo, .dcvtFrom]

/-- A source code that can be read, `n` rows of elements of `w` bits: a bound read port whose rows lie in tiles of that width, X[xs], the
immediate, zeros, or the row at the partial-sum port. -/
def Readable (c : Core) (code n w : Nat) : Prop :=
  (code < 8 → (c.port code).bound = true ∧ ∀ p ∈ c.designate code n, (c.tile p.1).kind ≠ 0 ∧ (fmtOf (c.tile p.1).fmt).width = w) ∧
  (10 < code → n = 1 ∧ ∀ f r l m, c.mat.psRow = some (f, r, l, m) → l.length = 64)

/-- The elements of a source, row after row. -/
def elements (c : Core) (v : VArgs) (code n : Nat) (f : Fmt) (mask : Bool) : List Nat :=
  if code < 8 then (c.designate code n).flatMap (fun p => c.tileRow p.1 p.2)
  else if code = 8 then
    (if mask then (List.range (64 * n)).map (fun i => if (c.x v.xs).getLsbD (i % 64) then 1 else 0)
     else List.replicate (64 * n) (xsElem f (c.x v.xs)).1)
  else if code = 9 then List.replicate (64 * n) (immElem f v.imm.toInt)
  else if code = 10 then List.replicate (64 * n) 0
  else match c.mat.psRow with | some (_, _, l, _) => l | none => List.replicate 64 0

end Sys2Proof.Stmt

/-- A V operation whose ports can be used reads everything at issue and completes: its results, computed from the elements of its sources
under RM, DRM or its own rounding field, are put in flight to become visible passes - 1 + L cycles later, at the rows its write port
designates, or at the table entry where the table resolves it, or nowhere; each port it pops or pushes moves on by its rows, detections
of the tiles it names are cancelled, and no register, tile or byte of memory changes. -/
def Sys2Proof.Stmt.VectorOperationsIssue : Prop :=
  ∀ (s : State) (v : VArgs) (mk : VArgs → Instr) (n : VInfo), mk ∈ vectorOps → s.core.guard v.g = true → (mk v).vInfo = some n → n.v = v →
    let c := s.core
    let k := n.rows
    let codes := [v.sa.toNat, v.sb.toNat, v.sc.toNat]
    let els (j : Nat) : List Nat := elements c v (codes.getD j 0) k n.sf (decide (j + 1 = n.mask))
    let rows := c.designate (8 + v.dw.toNat) k
    let t := (rows.headD (0, 0)).1
    let table := resolveOf (mk v) n ((List.range n.n).map (fun j => (c.source v (codes.getD j 0) k n.sf (decide (j + 1 = n.mask))).sym))
    (∀ j : Nat, j < n.n → Readable c (codes.getD j 0) k (if j + 1 = n.mask then 1 else n.sf.width)) →
    (v.dw.toNat < 4 → (c.port (8 + v.dw.toNat)).bound = true ∧ ∀ p ∈ rows, (c.tile p.1).kind ≠ 0 ∧ (fmtOf (c.tile p.1).fmt).width = n.rf.width ∧
      (c.tile p.1).rpc = 0 ∧ (mk v = .vexpq v → (c.tile p.1).fmt = Fmt.e4m3.code)) →
    ∃ (u : State) (op : VecOp), exec (mk v) s = .next u ∧
      u.core.flight = c.flight ++ [{ due := s.cycle + (n.passes - 1 + n.lat), seq := c.iss.seq, slot := c.iss.slot, w := .vec op }] ∧
      op.i = mk v ∧ op.from_ = 0 ∧ op.ops.length = 64 * k ∧
      (∀ e : Nat, e < 64 * k → op.ops.getD e (0, 0, 0) =
        (if 0 < n.n then (els 0).getD e 0 else 0, if 1 < n.n then (els 1).getD e 0 else 0, if 2 < n.n then (els 2).getD e 0 else 0)) ∧
      op.res = vecResults (mk v) (Rnd.ofField v.rnd.toNat (if n.dec then c.r.drm else c.r.rm)) op.aux op.ops ∧
      (4 ≤ v.dw.toNat → op.dest = .discard) ∧
      (v.dw.toNat < 4 → (table = none ∨ wholeTile rows = false → op.dest = .rows rows) ∧
        (∀ y, table = some y → wholeTile rows = true → op.dest = if y.fits (c.tile t) then .sym t y else .rows rows)) ∧
      (∀ p : Nat, p < 12 → u.core.port p = if (p < 8 ∧ p ∈ codes.take n.n) ∨ (8 ≤ p ∧ p = 8 + v.dw.toNat) then (c.port p).advance k else c.port p) ∧
      (∀ d ∈ u.core.dets, d ∈ c.dets) ∧
      u = { s with core := { c with flight := u.core.flight, ports := u.core.ports, dets := u.core.dets, iss := { c.iss with seq := c.iss.seq + 1 } } }

/-- Where a V operation cannot use a port: an unbound one raises HANDLE; a row of a FREE tile raises TILE 2, of another width TILE 8, the
sources first in order, then the destination. Stated of the first source and of the
destination. That an unbound port's HANDLE has TRAPINFO1 0 is the model's reading (log 38). -/
def Sys2Proof.Stmt.VectorPortTraps : Prop :=
  ∀ (s : State) (v : VArgs) (mk : VArgs → Instr) (n : VInfo), mk ∈ vectorOps → s.core.guard v.g = true → (mk v).vInfo = some n → n.v = v →
    let c := s.core
    let codes := [v.sa.toNat, v.sb.toNat, v.sc.toNat]
    let w (j : Nat) : Nat := if j + 1 = n.mask then 1 else n.sf.width
    let bad (p w : Nat) (u : State) : Prop :=
      ((c.port p).bound = false → u = s.trap 0x06) ∧
      ((c.port p).bound = true → ∀ l x r, c.designate p n.rows = l ++ x :: r →
        (∀ y ∈ l, (c.tile y.1).kind ≠ 0 ∧ (fmtOf (c.tile y.1).fmt).width = w) →
        ((c.tile x.1).kind = 0 → u = s.trapTile x.1 2) ∧
        ((c.tile x.1).kind ≠ 0 → (fmtOf (c.tile x.1).fmt).width ≠ w → u = s.trapTile x.1 8))
    ∃ u, exec (mk v) s = .next u ∧
      (0 < n.n → v.sa.toNat < 8 → bad v.sa.toNat (w 0) u) ∧
      ((∀ j : Nat, j < n.n → Readable c (codes.getD j 0) n.rows (w j)) → v.dw.toNat < 4 → bad (8 + v.dw.toNat) n.rf.width u)

/-- The latencies and passes of the V operations: L of Table 12 by operation and format, and passes a row times 16 in whole-tile
form. -/
def Sys2Proof.Stmt.VectorLatencies : Prop :=
  ∀ (v : VArgs) (n : VInfo), let wide : Bool := decide ((fmtOf v.fmt.toNat).width = 64)
    (∀ i ∈ [Instr.vadd v, .vsub v, .vmin v, .vmax v, .vabs v, .vneg v, .vand v, .vor v, .vxor v, .vnot v, .vshl v, .vshr v, .vsar v, .vcmp v, .vsel v,
        .vmsk v, .vclamp v, .vmov v, .vsplat v, .viota v], i.vInfo = some n → n.lat = 3 ∧ n.p = (if wide then 4 else 1)) ∧
    (∀ i ∈ [Instr.vmul v, .vfma v, .vfms v], i.vInfo = some n → n.lat = (if wide then 7 else 5) ∧ n.p = (if wide then 4 else 1)) ∧
    ((Instr.vcvt v).vInfo = some n → n.lat = 4) ∧
    (∀ e ∈ [(Instr.vexp v, 8, 1), (.vlog2 v, 8, 1), (.vexpq v, 10, 1), (.vrcp v, 6, 1), (.vrsq v, 6, 1), (.vrefineRcp v, 5, 1),
        (.vrefineRsq v, 5, 1), (.vrrot v, 2, 1), (.vrbc v, 2, 1), (.vrred v, 6, 1), (.vrscan v, 6, 1), (.vcrot v, 20, 1), (.vcbc v, 20, 1),
        (.vcred v, 20, 1), (.vshuf v, 3, 1), (.dadd v, 12, 8), (.dsub v, 12, 8), (.dmul v, 20, 32), (.dfma v, 24, 32), (.dquant v, 10, 8),
        (.drnd v, 10, 8), (.dcmp v, 6, 8), (.dcvtTo v, 12, 8), (.dcvtFrom v, 12, 8)],
      e.1.vInfo = some n → n.lat = e.2.1 ∧ n.p = e.2.2) ∧
    (∀ i : Instr, i.vInfo = some n → n.passes = n.p * if n.v.t then 16 else 1)

/-- A V operation whose ports can be used reads everything at issue and completes: its results, computed from the elements of its sources
under RM, DRM or its own rounding field, are put in flight to become visible passes - 1 + L cycles later, at the rows its write port
designates, or at the table entry where the table resolves it, or nowhere; each port it pops or pushes moves on by its rows, detections
of the tiles it names are cancelled, and no register, tile or byte of memory changes. Where a V operation cannot use a port: an unbound
one raises HANDLE; a row of a FREE tile raises TILE 2, of another width TILE 8, the sources first in order, then the destination. Stated
of the first source and of the destination. That an unbound port's HANDLE has TRAPINFO1 0 is the model's reading (log 38). The latencies
and passes of the V operations: L of Table 12 by operation and format, and passes a row times 16 in whole-tile form. -/
def Obligations.VectorOperations : Prop :=
  Sys2Proof.Stmt.VectorOperationsIssue ∧ Sys2Proof.Stmt.VectorPortTraps ∧ Sys2Proof.Stmt.VectorLatencies

/-- The results, element by element in row-major order, of operands a, b, c: the element-wise operations by their function of a format
(for integers the exact result wrapped, or clamped where the operation saturates); the row operations from the row the element lies in,
the column operations from its column; reductions by the balanced tree, the scan by its prefix. -/
def Obligations.VectorResultValues : Prop :=
  ∀ (v : VArgs) (r : Rnd) (aux k : Nat) (ops : List (Nat × Nat × Nat)) (e : Nat), ops.length = 64 * k → e < 64 * k →
    let o := ops.getD e (0, 0, 0)
    let a := o.1
    let b := o.2.1
    let c := o.2.2
    let f := fmtOf v.fmt.toNat
    let res (i : Instr) : Res := (vecResults i r aux ops).getD e (0, 0)
    let at_ (row col : Nat) : Nat := (ops.getD (64 * row + col) (0, 0, 0)).1
    let row := e / 64
    let col := e % 64
    let put (i : Int) : Res := if v.sat then (if f.intMax < i then (wrapN f.width f.intMax, fISAT)
      else if i < f.intMin then (wrapN f.width f.intMin, fISAT) else (wrapN f.width i, 0)) else (wrapN f.width i, 0)
    (f.isInt = true →
      let x := f.intVal a
      let y := f.intVal b
      let z := f.intVal c
      res (.vadd v) = put (x + y) ∧ res (.vsub v) = put (x - y) ∧ res (.vmul v) = put (x * y) ∧ res (.vfma v) = put (x * y + z) ∧
      res (.vfms v) = put (x * y - z) ∧ res (.vabs v) = put x.natAbs ∧ res (.vneg v) = put (-x) ∧
      res (.vmin v) = (if x < y then a else b, 0) ∧ res (.vmax v) = (if x < y then b else a, 0)) ∧
    (f.isInt = false →
      res (.vadd v) = f.add r a b ∧ res (.vsub v) = f.sub r a b ∧ res (.vmul v) = f.mul r a b ∧ res (.vfma v) = f.fma r a b c ∧
      res (.vfms v) = f.fms r a b c ∧ res (.vabs v) = (a % 2 ^ (f.width - 1), 0) ∧ res (.vneg v) = (a ^^^ 2 ^ (f.width - 1), 0) ∧
      res (.vmin v) = f.minmax false a b ∧ res (.vmax v) = f.minmax true a b) ∧
    res (.vand v) = (a &&& b, 0) ∧ res (.vor v) = (a ||| b, 0) ∧ res (.vxor v) = (a ^^^ b, 0) ∧ res (.vnot v) = (a ^^^ (2 ^ f.width - 1), 0) ∧
    res (.vshl v) = (shiftElem f 0 a b, 0) ∧ res (.vshr v) = (shiftElem f 1 a b, 0) ∧ res (.vsar v) = (shiftElem f 2 a b, 0) ∧
    res (.vcmp v) = cmpElem f v.imm.toNat a b ∧ res (.vclamp v) = clampElem f a b c ∧
    res (.vmsk v) = (if (b % 2 = 1) = (v.imm.toNat / 4 % 2 = 1) then fillElem f (v.imm.toNat % 4) else a, 0) ∧
    res (.vsel v) = (if c % 2 = 1 then a else b, 0) ∧ res (.vmov v) = (a, 0) ∧
    res (.vcvt v) = cvtElem (fmtOf (v.imm.toNat % 32)) f (if f.isFp8 then .rne else r) v.sat a ∧
    res (.vexp v) = vexp f a ∧ res (.vlog2 v) = vlog2 f a ∧ res (.vrcp v) = rcpRsq f false a ∧ res (.vrsq v) = rcpRsq f true a ∧
    res (.vrefineRcp v) = vrefine f r false a b ∧ res (.vrefineRsq v) = vrefine f r true a b ∧
    res (.vsplat v) = (at_ row (aux % 64), 0) ∧ res (.vrbc v) = (at_ row (aux % 64), 0) ∧ res (.vrrot v) = (at_ row ((col + aux) % 64), 0) ∧
    res (.viota v) = (wrapN f.width (aux + v.imm.toInt * (64 * row + col : Nat)), 0) ∧
    res (.vexpq v) = vexpqElem f a (ops.getD (64 * row) (0, 0, 0)).2.1 ∧
    (let q := itemN 8 aux col; res (.vshuf v) =
      (if 128 ≤ q then 0 else if q < 64 then at_ row q else (ops.getD (64 * row + (q - 64)) (0, 0, 0)).2.1, 0)) ∧
    res (.vrred v) = treeReduce (combine v r) 6 ((List.range 64).map (fun j => (at_ row j, 0))) ∧
    (col = 0 → res (.vrscan v) = (a, 0)) ∧
    (0 < col → res (.vrscan v) = combine v r (((vecResults (.vrscan v) r aux ops).getD (e - 1) (0, 0)).1, 0) (a, 0)) ∧
    (k = 16 → res (.vcrot v) = (at_ ((row + aux) % 16) col, 0) ∧ res (.vcbc v) = (at_ (aux % 16) col, 0) ∧
      res (.vcred v) = treeReduce (combine v r) 4 ((List.range 16).map (fun j => (at_ j col, 0)))) ∧
    res (.dadd v) = decAdd r a b ∧ res (.dsub v) = decSub r a b ∧ res (.dmul v) = decMul r a b ∧ res (.dfma v) = decFma r a b c ∧
    res (.dquant v) = decQuant r a b ∧ res (.drnd v) = decRnd r a ∧
    res (.dcmp v) = (let q := decCmp v.imm.toNat a b; (if q.1 then 1 else 0, q.2)) ∧
    res (.dcvtTo v) = (if f = .int64 then decOfInt r a else decOfBin r a) ∧ res (.dcvtFrom v) = (if f = .int64 then decIntOf r a else decBinOf r a)

/-- A V operation's results land at their visible cycle: where one is due and no element raises an enabled exception, a row it wrote whole
reads as its results, in a STORED tile of the core, the tile's write position rises or the pass completes, its flags become sticky in
FPSTAT or DECSTAT, and no other register changes but VEXPQ's sum; of another tile only EXC may change, where the tile has repeaters. Where an element raises an enabled decimal or FP64 exception, DECX or F64X
is taken with its operands, its place and its exceptions; the elements before it are written, to the row or nowhere, with their flags
alone sticky; that element and those after it, the row's write position and every other row of the tile stay as they were, and the
remainder is kept for the return. Stated of one row; the results of a whole tile are 16 of them. -/
def Obligations.VectorResultsLand : Prop :=
  ∀ (s : State) (p : Pend) (op : VecOp) (n : VInfo), s.core.flight.filter (fun q => decide (q.due ≤ s.cycle)) = [p] → p.w = .vec op →
    op.i.vInfo = some n → op.from_ = 0 → op.skip = [] → op.sum = none →
    let en := s.core.r.enables op.trapCode
    let fl := orFlags op.res ||| op.read
    let sticky (r : Arch) : Arch := if n.dec then { r with decstat := r.decstat ||| (fl &&& 0x1F).setWidth 64 }
      else { r with fpstat := r.fpstat ||| (fl &&& 0x7F).setWidth 64 }
    ((∀ x ∈ op.res, offends en x.2 = false) →
      (op.dest = .discard → ∃ t, exec .resultVisible s = .next t ∧ t.core.r = sticky s.core.r ∧ t.core.tiles = s.core.tiles ∧
        t.core.sp = s.core.sp ∧ SameBytes s t) ∧
      (∀ i row, op.dest = .rows [(i, row)] → op.res.length = 64 → row < 16 → (s.core.tile i).kind = 1 → (s.core.tile i).own = 0 →
        (∀ x ∈ op.res, x.1 < 2 ^ (fmtOf (s.core.tile i).fmt).width) → Sparse.wf 0 s.core.sp = true → Sparse.wf {} s.core.tiles = true →
        ∃ t, exec .resultVisible s = .next t ∧ t.core.r = sticky s.core.r ∧ t.core.tileRow i row = op.res.map (·.1) ∧
          (t.core.tile i).wp = (if (s.core.tile i).wp + 1 < 16 then (s.core.tile i).wp + 1 else 0) ∧
          (∀ j : Nat, j ≠ i → ∃ b, t.core.tile j = { s.core.tile j with exc := b }) ∧
          ((s.core.tile i).rpc = 0 → ∀ j : Nat, j ≠ i → t.core.tile j = s.core.tile j) ∧ SameBytes s t)) ∧
    (∀ (k h : Nat), Handles s.core h → s.core.task.phase = .running → k < op.res.length →
      offends en (op.res.getD k (0, 0)).2 = true → (∀ j : Nat, j < k → offends en (op.res.getD j (0, 0)).2 = false) →
      let part := orFlags (op.res.take k) ||| (if 0 < k then op.read else 0)
      let before : Arch := if n.dec then { s.core.r with decstat := s.core.r.decstat ||| (part &&& 0x1F).setWidth 64 }
        else { s.core.r with fpstat := s.core.r.fpstat ||| (part &&& 0x7F).setWidth 64 }
      let Traps (t : State) (row tix : Nat) : Prop := ∃ trap : Trap, trap.code = op.trapCode ∧ trap.slot = p.slot ∧ trap.addr = 0 ∧
        trap.info[0] = trapInfo0 (xflOf (raised en (op.res.getD k (0, 0)).2)) n.v.fmt.toNat (k % 64) row tix ∧
        trap.info[1] = BitVec.ofNat 64 (op.ops.getD k (0, 0, 0)).1 ∧ trap.info[2] = BitVec.ofNat 64 (op.ops.getD k (0, 0, 0)).2.1 ∧
        trap.info[3] = BitVec.ofNat 64 (op.ops.getD k (0, 0, 0)).2.2 ∧
        t.core.r.tcause = BitVec.ofNat 64 (p.slot % 16 * 256 + op.trapCode) ∧ t.core.r.tinfo = trap.info ∧ t.core.r.inh = true ∧
        t.core.r.fpstat = before.fpstat ∧ t.core.r.decstat = before.decstat ∧ t.core.r.x = s.core.r.x ∧ t.core.r.q = s.core.r.q ∧ t.core.r.h = s.core.r.h ∧
        t.core.pc = BitVec.ofNat 47 (s.core.kern.text + h) ∧ (∃ q, t.core.resume = some q ∧ q.w = .vec { op with from_ := k }) ∧ SameBytes s t
      (op.dest = .discard → ∃ t, exec .resultVisible s = .next t ∧ Traps t 0 0 ∧ t.core.tiles = s.core.tiles ∧ t.core.sp = s.core.sp) ∧
      (∀ i row, op.dest = .rows [(i, row)] → op.res.length = 64 → row < 16 → (s.core.tile i).kind = 1 → (s.core.tile i).own = 0 →
        (∀ x ∈ op.res, x.1 < 2 ^ (fmtOf (s.core.tile i).fmt).width) → Sparse.wf 0 s.core.sp = true → Sparse.wf {} s.core.tiles = true →
        ∃ t, exec .resultVisible s = .next t ∧ Traps t row i ∧
          t.core.tileRow i row = (op.res.take k).map (·.1) ++ (s.core.tileRow i row).drop k ∧
          (∀ r : Nat, r < 16 → r ≠ row → t.core.tileRow i r = s.core.tileRow i r) ∧ (t.core.tile i).wp = (s.core.tile i).wp ∧
          ((s.core.tile i).rpc = 0 → ∀ j : Nat, j ≠ i → t.core.tile j = s.core.tile j)))

/-! ### The matrix unit -/

/-- The M-slot operations: while a fault of the matrix unit is pending, each reports it as a trap of slot 3 and has no other effect. Else MCLAIM
claims slots none of which is claimed, and MREL releases claimed ones, 1 cycle after issue (TILE 4 or 2 with the slot otherwise); MWAIT
holds while more than K routines, or a tagged one, are queued; MCALL of a routine that the core knows, with room in its queue, slots
that are claimed, formats that are no reserved codes (ENC otherwise, the model's choice, log 21) and output tiles that are the core's and of
their formats, enters the queue with the call values, and its tiles and
slots pass to the unit 1 cycle later. -/
def Sys2Proof.Stmt.MatrixOperationsIssue : Prop :=
  ∀ (s : State) (g : Guard) (rix : BitVec 10) (ovm : BitVec 8) (ov : BitVec 48) (tag : Bool) (o : BitVec 6) (cnt : BitVec 4) (k : BitVec 2)
    (w : Bool), s.core.guard g = true → Plain s →
    let m := s.core.mat
    let claimed (j : Nat) : Bool := (s.core.omd.get {} j).clm
    let slots := (List.range (cnt.toNat + 1)).map (fun j => o.toNat + j)
    (∀ code what reason bit at_, m.fault = some (code, what, reason, bit, at_) →
      ∀ i ∈ [Instr.mcall g rix ovm ov tag, .mclaim g o cnt, .mrel g o cnt, .mwait g k w], exec i s = .next (s.trapSlot
        { code := code, slot := 3, addr := 0, info := #v[BitVec.ofNat 64 what, BitVec.ofNat 64 reason, BitVec.ofNat 64 at_, BitVec.ofNat 64 (2 ^ 63 + bit)] })) ∧
    (m.fault = none →
      ((∀ j ∈ slots, claimed j = false) → exec (.mclaim g o cnt) s = .next (s.sched 1 (.claim o.toNat (cnt.toNat + 1)))) ∧
      (∀ l j r, slots = l ++ j :: r → (∀ x ∈ l, claimed x = false) → claimed j = true →
        exec (.mclaim g o cnt) s = .next (s.trap 0x05 0 (BitVec.ofNat 64 (j % 4096)) 4 0 1)) ∧
      ((∀ j ∈ slots, claimed j = true) → exec (.mrel g o cnt) s = .next (s.sched 1 (.release o.toNat (cnt.toNat + 1)))) ∧
      (∀ l j r, slots = l ++ j :: r → (∀ x ∈ l, claimed x = true) → claimed j = false →
        exec (.mrel g o cnt) s = .next (s.trap 0x05 0 (BitVec.ofNat 64 (j % 4096)) 2 0 1)) ∧
      (m.ended.1 ≠ s.cycle →
        (m.queue.length ≤ k.toNat → exec (.mwait g k false) s = .next s) ∧
        (k.toNat < m.queue.length → ∃ t, exec (.mwait g k false) s = .next t ∧ Held s t) ∧
        ((∀ q ∈ m.queue, q.tag = false) → exec (.mwait g k true) s = .next s) ∧
        ((∃ q ∈ m.queue, q.tag = true) → ∃ t, exec (.mwait g k true) s = .next t ∧ Held s t)) ∧
      (s.core.routine rix.toNat = none → exec (.mcall g rix ovm ov tag) s = .next (s.trap 0x01)) ∧
      (∀ r, s.core.routine rix.toNat = some r →
        let ma := s.core.callMa ovm ov
        let ss := r.slots ma
        let outs := r.tiles rix.toNat ma
        let known : Prop := ∀ j ∈ r.outMas, (Fmt.ofCode (maOfmt (ma.toList.getD j 0))).isSome = true
        (¬ known → exec (.mcall g rix ovm ov tag) s = .next (s.trap 0x01)) ∧
        (known → m.queue.length < 4 → (∀ j ∈ ss, j < 64 ∧ claimed j = true) → s.core.badOut outs = none → s.core.mustPromote (sortN (outs.map (·.1))) = false →
        ∃ t, exec (.mcall g rix ovm ov tag) s = .next t ∧
          t.core.mat = { m with queue := m.queue ++ [{ rix := rix.toNat, ma := ma, tag := tag, tiles := sortN (outs.map (·.1)), slots := sortN ss, issued := s.cycle, seq := s.core.iss.seq }] } ∧
          t.core.flight.map (fun p => (p.due, p.w)) = s.core.flight.map (fun p => (p.due, p.w)) ++
            (sortN (outs.map (·.1))).map (fun x => (s.cycle + 1, .grant x 9 none)) ++ (sortN ss).map (fun x => (s.cycle + 1, .slotOwn x)) ∧
          t.core.r = s.core.r ∧ t.core.tiles = s.core.tiles ∧ t.core.iss.verdict = s.core.iss.verdict ∧ SameBytes s t)) ∧
      (∀ r, s.core.routine rix.toNat = some r → m.queue.length < 4 → (∀ j ∈ r.outMas, (Fmt.ofCode (maOfmt ((s.core.callMa ovm ov).toList.getD j 0))).isSome = true) → (∀ j ∈ r.slots (s.core.callMa ovm ov), j < 64 ∧ claimed j = true) →
        ∀ t why, s.core.badOut (r.tiles rix.toNat (s.core.callMa ovm ov)) = some (t, why) →
          exec (.mcall g rix ovm ov tag) s = .next (s.trapTile t why)))

/-- VSCALE: the row at the partial-sum port, if it has the operation's format, is scaled element by element by powers of two from an 8-bit
row or the immediate; with another format, or outside every scale window, SCALEMISS rises by 1; in the window of a skipped block, which has no
row, nothing happens. Exponents of a source that reads zero count as 0 (sb = 10 is the model's reading, log 22). -/
def Sys2Proof.Stmt.ScaleAtThePort : Prop :=
  ∀ (s : State) (v : VArgs), s.core.guard v.g = true →
    (8 ≤ v.sb.toNat ∨ ((s.core.port v.sb.toNat).bound = true ∧
      ∀ p ∈ s.core.designate v.sb.toNat 1, (s.core.tile p.1).kind ≠ 0 ∧ (fmtOf (s.core.tile p.1).fmt).width = 8)) → (v.sb = 9 ∨ v.sb = 10 ∨ v.sb.toNat < 8) →
    let m := s.core.mat
    let exps : List Nat := if v.sb.toNat < 8 then (s.core.designate v.sb.toNat 1).flatMap (fun p => s.core.tileRow p.1 p.2)
      else if v.sb = 9 then List.replicate 64 (v.imm.toNat % 256) else List.replicate 64 0
    let inside : Prop := ∃ w ∈ m.windows, w.1 ≤ s.cycle ∧ s.cycle < w.2
    ∃ t, exec (.vscale v) s = .next t ∧ t.core.tiles = s.core.tiles ∧ t.core.r.x = s.core.r.x ∧ SameBytes s t ∧
      (m.psRow = none → t.core.mat = m ∧ (inside → t.core.r.scalemiss = s.core.r.scalemiss) ∧ (¬ inside → t.core.r.scalemiss = s.core.r.scalemiss + 1)) ∧
      (∀ f row els mask, m.psRow = some (f, row, els, mask) →
        (f ≠ v.fmt.toNat → t.core.mat = m ∧ t.core.r.scalemiss = s.core.r.scalemiss + 1) ∧
        (f = v.fmt.toNat →
          let out := (els.zip exps).map (fun x => if fmtOf f = .int32 then scaleInt32 x.1 (sgn 8 x.2) else Fmt.fp32.scale2 x.1 (sgn 8 x.2))
          t.core.mat = { m with psRow := some (f, row, out.map (·.1), mask) } ∧
          (inside → t.core.r.scalemiss = s.core.r.scalemiss) ∧ (¬ inside → t.core.r.scalemiss = s.core.r.scalemiss + 1) ∧
          t.core.r.fpstat = s.core.r.fpstat ||| (orFlags out &&& 0x7F).setWidth 64))

/-- The M-slot operations: while a fault of the matrix unit is pending, each reports it as a trap of slot 3 and has no other effect. Else
MCLAIM claims slots none of which is claimed, and MREL releases claimed ones, 1 cycle after issue (TILE 4 or 2 with the slot otherwise);
MWAIT holds while more than K routines, or a tagged one, are queued; MCALL of a routine that the core knows, with room in its queue,
slots that are claimed, formats that are no reserved codes (ENC otherwise, the model's choice, log 21) and output tiles that are the
core's and of their formats, enters the queue with the call values, and its tiles and slots pass to the unit 1 cycle later. VSCALE: the
row at the partial-sum port, if it has the operation's format, is scaled element by element by powers of two from an 8-bit row or the
immediate; with another format, or outside every scale window, SCALEMISS rises by 1; in the window of a skipped block, which has no row,
nothing happens. Exponents of a source that reads zero count as 0 (sb = 10 is the model's reading, log 22). -/
def Obligations.MatrixOperations : Prop :=
  Sys2Proof.Stmt.MatrixOperationsIssue ∧ Sys2Proof.Stmt.ScaleAtThePort

/-- The micro-words of the running routine, where the sequencer stands at one: MLDA and MLDB latch slots of the routine; MMAC hands the
latches over as a block once the array is free; MPS sets the port mode; MIFZ jumps where the next block would be skipped; MLOOP counts
a loop and jumps back; MOUT, MCLR, MSCL and MSIG queue on the output path; MEND ends the routine once all is idle. Each goes on to the
next word or its target. Addresses are base + offset + unit times (s0 times L0 + s1 times L1). With no word due nothing changes; no register
and no byte of memory changes. That MMAC's fault on another accumulator type is judged as earlier words leave the type, whether or not the block
skips, is log 51's; what the words of a library routine cost is log 20's. -/
def Obligations.MicroWords : Prop :=
  ∀ (s : State) (ma : BitVec 3) (off : BitVec 6) (s0 s1 : BitVec 4) (mode : BitVec 3) (z on j fromma clr sat : Bool) (acc cnt : BitVec 2)
    (target : BitVec 11) (count : BitVec 16) (mask : BitVec 4) (e : BitVec 8) (ofmt : BitVec 5),
    let m := s.core.mat
    let lda : Instr := .mlda ma off s0 s1
    let ldb : Instr := .mldb mode ma off s0 s1
    let mac : Instr := .mmac mode z acc
    let out : Instr := .mout acc cnt ma off s0 s1 clr fromma ofmt sat
    let all : List Instr := [.mend, lda, ldb, mac, .mps on, out, .mclr mask, .mloop j fromma ma target count, .mifz target, .mscl mask e fromma ma,
      .msig ma off s0 s1]
    ((m.call = none ∨ s.cycle < m.seqAt) → ∀ i ∈ all, exec i s = .next s) ∧
    (∀ k : Call, m.call = some k → m.seqAt ≤ s.cycle →
      let v : BitVec 32 := k.ma.toList.getD ma.toNat 0
      let addr (base unit md : Nat) : Nat := (((base : Int) + off.toNat + unit * (s0.toInt * m.l0 + s1.toInt * m.l1)) % (md : Int)).toNat
      let sl := addr (v.toNat % 64) 1 64
      let n := modeN mode.toNat
      let sb := addr (v.toNat % 64) n 64
      let tile := addr (v.toNat % 4096) 1 4096
      let word (t : BitVec 11) : Nat := s.core.wordOf k t
      let after (i : Instr) (q : Mat) : Prop := exec i s =
        .next { s with core := { s.core with mat := { q with seqAt := s.cycle + microCost k.rix i } } }
      let queued (i : Instr) (o : OutOp) : Prop := after i { m with outq := m.outq ++ [o], outAt := max m.outAt (s.cycle + 1), upc := m.upc + 1 }
      let a := m.nextA.getD Latch.empty
      let b := fillB mode.toNat m.nextB
      let x := m.accOf k.rix acc
      let suits : Prop := a.suits (modeA mode.toNat) = true ∧ (∀ l ∈ b, l.suits (modeB mode.toNat) = true) ∧ b.length = n ∧
        x % modeC mode.toNat = 0 ∧ m.clash mode.toNat x = false ∧ (m.psMode = true → mode.toNat < 3)
      let wait : Prop := s.cycle < m.arrayFree ∨ (m.psMode = true ∧ s.cycle < m.portFree)
      let keep : Bool := fromma && v.getLsbD 18 && k.rix != 11
      let trips := m.loopCount k.rix fromma ma count
      let held : State := { s with core := { s.core with mat := { m with seqAt := s.cycle + 1 } } }
      let c := ((if j then m.l1 else m.l0) + 1) % 65536
      (sl ∈ k.slots → s.core.badWords = [] → after lda { m with nextA := some (s.core.latch sl), upc := m.upc + 1 }) ∧
      ((∀ i : Nat, i < n → sb + i ∈ k.slots ∧ sb + i < 64) → s.core.badWords = [] →
        after ldb { m with nextB := (List.range n).map (fun i => s.core.latch (sb + i)), upc := m.upc + 1 }) ∧
      (sl ∉ k.slots → ∃ t, exec lda s = .next t ∧ t.core.mat.running = false ∧ t.core.mat.queue = [] ∧
        t.core.mat.fault = some (0x05, sl, 2, 1, s.core.microAddr k.rix m.upc) ∧ t.core.r = s.core.r ∧ SameBytes s t) ∧
      (suits → wait → exec mac s = .next held) ∧
      (suits → ¬ wait → after mac { m.hand s.cycle mode.toNat z (blockSkips s.core.r.relaxed a b) x a b with upc := m.upc + 1 }) ∧
      (¬ suits → ∃ t, exec mac s = .next t ∧ t.core.mat.running = false ∧ t.core.mat.queue = [] ∧
        t.core.mat.fault = some (0x05, x, 8, 0, s.core.microAddr k.rix m.upc) ∧ t.core.r = s.core.r ∧ SameBytes s t) ∧
      after (.mps on) { m with psMode := on, upc := m.upc + 1 } ∧
      after (.mifz target) { m with upc := if blockSkips s.core.r.relaxed a (if m.nextB.isEmpty then [Latch.empty] else m.nextB) then word target else m.upc + 1 } ∧
      (c < trips → after (.mloop j fromma ma target count) { m with l0 := if j then m.l0 else c, l1 := if j then c else m.l1, upc := word target }) ∧
      (trips ≤ c → after (.mloop j fromma ma target count) { m with l0 := if j then m.l0 else 0, l1 := if j then 0 else m.l1, upc := m.upc + 1 }) ∧
      (keep = false → queued out (.out x (cnt.toNat + 1) tile (if fromma then maExp v else 0) false (if fromma then v.getLsbD 17 else sat)
        (if fromma then (v.extractLsb' 12 5).toNat else ofmt.toNat) clr m.upc)) ∧
      (keep = true → after out { m with upc := m.upc + 1 }) ∧
      queued (.mclr mask) (.clear mask.toNat) ∧
      queued (.mscl mask e fromma ma) (.scale mask.toNat (if fromma then (v.extractLsb' 0 8).toInt else e.toInt)) ∧
      queued (.msig ma off s0 s1) (.sig tile m.upc) ∧
      (m.idle s.cycle = false → exec .mend s = .next held) ∧
      (m.idle s.cycle = true → ∃ t, exec .mend s = .next t ∧ t.core.mat.running = false ∧ t.core.mat.queue = m.queue.drop 1 ∧
        t.core.mat.acc = m.acc ∧ t.core.r = s.core.r ∧ SameBytes s t ∧
        (Sparse.wf {} s.core.tiles = true → ∀ y ∈ k.tiles, (s.core.tile y).own = 9 → (t.core.tile y).own = 0)))

/-- The engines of the matrix unit: ROUTINE_START lets the first queued routine begin at the word after its header with both loop counters 0,
once it may; ARRAY_BLOCK_UPDATE steps the due block's sums into its accumulators, leaving an element whose column forms no product, and
every other accumulator, as it was, and a skipped block nothing; PSUM_ROW_PRESENT presents the due block's next row, and accumulates the
row presented before; OUTPUT_ROW_WRITE writes one converted row of an accumulator to a tile of the routine, once no write of the core from before the grant
is left for the row;
OUTPUT_PATH_OPERATION empties, scales one row of each masked accumulator, or hands back. MSCL scales one row each cycle (the model's choice, log 21). With nothing due nothing changes. -/
def Obligations.MatrixEngines : Prop :=
  ∀ (s : State),
    let m := s.core.mat
    (s.core.mayStart s.cycle = false → exec .routineStart s = .next s) ∧
    (s.core.mayStart s.cycle = true → exec .routineStart s =
      .next { s with core := { s.core with mat := { m with running := true, start := s.cycle, upc := 1, seqAt := s.cycle, l0 := 0, l1 := 0 } } }) ∧
    (m.dueBlock s.cycle false = none → exec .arrayBlockUpdate s = .next s) ∧
    (∀ k, m.dueBlock s.cycle false = some k → m.updateWaits k = false → s.core.badWords = [] → Sparse.wf 0 m.acc = true →
      k.acc + modeC k.mode ≤ 4 → ∃ t, exec .arrayBlockUpdate s = .next t ∧ t.core.mat.blocks = putBlock false [] m.blocks ∧ t.core.tiles = s.core.tiles ∧
        t.core.r = { s.core.r with fpstat := t.core.r.fpstat } ∧ SameBytes s t ∧
        (k.skip = true → t.core.mat.acc = m.acc ∧ t.core.r = s.core.r) ∧
        (k.skip = false → ∀ a r col : Nat, a < 4 → r < 16 → col < 64 →
          let ix := a * 1024 + 64 * r + col
          let old := m.acc.get 0 ix
          t.core.mat.acc.get 0 ix =
            if k.acc ≤ a ∧ a < k.acc + modeC k.mode then
              (if modeInt k.mode then (match (k.rowI (a - k.acc) r).getD col none with | some v => BitVec.ofNat 32 (accI old.toNat v).1 | none => old)
               else (match (k.rowF (a - k.acc) r).getD col none with | some v => BitVec.ofNat 32 (accF old.toNat v).1 | none => old))
            else old)) ∧
    (m.psRow = none → m.dueBlock s.cycle true = none → exec .psumRowPresent s = .next s) ∧
    (∀ k, m.psRow = none → m.dueBlock s.cycle true = some k → m.updateWaits k = false → k.skip = false →
      ∃ t, exec .psumRowPresent s = .next t ∧ t.core.mat.psRow = some k.present.1 ∧ t.core.mat.psAt = s.cycle ∧ t.core.mat.acc = m.acc ∧
        t.core.tiles = s.core.tiles ∧ SameBytes s t ∧
        t.core.r = { s.core.r with fpstat := s.core.r.fpstat ||| (k.present.2 &&& 0x7F).setWidth 64 }) ∧
    (∀ f row els mask, m.psRow = some (f, row, els, mask) → m.dueBlock s.cycle true = none → Sparse.wf 0 m.acc = true → els.length = 64 → mask.length = 64 →
      row < 64 → ∃ t, exec .psumRowPresent s = .next t ∧ t.core.mat.psRow = none ∧ t.core.tiles = s.core.tiles ∧ SameBytes s t ∧
        ∀ i : Nat, i < 4096 →
          let old := m.acc.get 0 i
          let el := els.getD (i % 64) 0
          t.core.mat.acc.get 0 i =
            if i / 64 = row ∧ mask.getD (i % 64) false = true then
              BitVec.ofNat 32 (if f = Fmt.fp32.code then Fmt.fp32.add .rne old.toNat el else accI old.toNat (sgn 32 el)).1
            else old) ∧
    ((∀ acc cnt t e keep sat f clr ua, m.outReady s.cycle ≠ some (.out acc cnt t e keep sat f clr ua)) → exec .outputRowWrite s = .next s) ∧
    (∀ acc cnt tile e keep sat f clr ua k, m.outReady s.cycle = some (.out acc cnt tile e keep sat f clr ua) → m.call = some k →
      let a := (acc + m.outRow / 16) % 4
      let t := (tile + m.outRow / 16) % 4096
      let row := m.outRow % 16
      let l := (List.range 64).map (fun i => outElem (m.types.toList.getD a 0) f sat e (m.acc.get 0 (a * 1024 + 64 * row + i)).toNat)
      (s.core.tile t).kind = 1 → (s.core.tile t).fmt = f → t ∈ k.tiles → (Fmt.ofCode f).isSome = true → outSuits (m.types.toList.getD a 0) f = true →
      Sparse.wf 0 s.core.sp = true → Sparse.wf {} s.core.tiles = true → (∀ x ∈ l, x.1 < 2 ^ (fmtOf f).width) →
      (s.core.rowBusy t row = true →
        exec .outputRowWrite s = .next { s with core := { s.core with mat := { m with outAt := s.cycle + 1 } } }) ∧
      (s.core.rowBusy t row = false → ∃ u, exec .outputRowWrite s = .next u ∧ u.core.tileRow t row = l.map (·.1) ∧
        (∀ j : Nat, j ≠ t → ∃ b, u.core.tile j = { s.core.tile j with exc := b }) ∧
        ((s.core.tile t).rpc = 0 → ∀ j : Nat, j ≠ t → u.core.tile j = s.core.tile j) ∧
        u.core.r = { s.core.r with fpstat := s.core.r.fpstat ||| (orFlags l &&& 0x7F).setWidth 64 } ∧ SameBytes s u ∧
        (m.outRow + 1 = 16 * cnt → u.core.mat.outq = m.outq.drop 1) ∧ (m.outRow + 1 ≠ 16 * cnt → u.core.mat.outRow = m.outRow + 1))) ∧
    (∀ mask, m.outReady s.cycle = some (.clear mask) → Sparse.wf 0 m.acc = true → ∃ t, exec .outputPathOperation s = .next t ∧ t.core.mat.outq = m.outq.drop 1 ∧
      (∀ i : Nat, i < 4096 → t.core.mat.acc.get 0 i = if mask.testBit (i / 1024) then 0 else m.acc.get 0 i) ∧ t.core.r = s.core.r ∧ t.core.tiles = s.core.tiles ∧ SameBytes s t) ∧
    (∀ mask e, m.outReady s.cycle = some (.scale mask e) → Sparse.wf 0 m.acc = true → ∃ t, exec .outputPathOperation s = .next t ∧
      (m.outRow = 15 → t.core.mat.outq = m.outq.drop 1) ∧ (m.outRow ≠ 15 → t.core.mat.outq = m.outq ∧ t.core.mat.outRow = m.outRow + 1) ∧
      (∀ i : Nat, i < 4096 → let v := m.acc.get 0 i; let ty := m.types.toList.getD (i / 1024) 0;
        t.core.mat.acc.get 0 i = if mask.testBit (i / 1024) ∧ i % 1024 / 64 = m.outRow ∧ v ≠ 0 then
          (if ty = 2 then BitVec.ofNat 32 (scaleInt32 v.toNat e).1 else if ty = 1 then BitVec.ofNat 32 (Fmt.fp32.scale2 v.toNat e).1 else v) else v) ∧
      t.core.tiles = s.core.tiles ∧ SameBytes s t) ∧
    (∀ y ua, m.outReady s.cycle = some (.sig y ua) → Sparse.wf {} s.core.tiles = true → ∃ t, exec .outputPathOperation s = .next t ∧ t.core.mat.outq = m.outq.drop 1 ∧
      (∀ k, m.call = some k → y ∈ k.tiles → (s.core.tile y).own = 9 → (t.core.tile y).own = 0) ∧ t.core.r = s.core.r ∧ SameBytes s t)

/-! ### Pumps -/

namespace Sys2Proof.Stmt

/-- A side's object check passes: no VIEW, or a VIEW whose object the core has checked and finds LIVE, strongly held where the handle is
strong, and, to be written, not shared by copy-on-write. -/
def Usable (s : State) (x : Side) (write : Bool) : Prop :=
  ∀ h, x.view = some h → (h.vfmt = 31 ∨ (Fmt.ofCode h.vfmt).isSome = true) ∧ s.oidOk h.oid = true ∧ s.core.ocache.contains h.oid = true ∧
    h.gen = (s.objEntry h.oid).gen ∧ (s.objEntry h.oid).state = 1 ∧ (h.str = true → (s.objEntry h.oid).strong ≠ 0) ∧
    (write = true → (s.objEntry h.oid).shared = false)

/-- A side is a weak VIEW whose object is gone, as the core has checked. -/
def Lost (s : State) (x : Side) : Prop :=
  ∃ h, x.view = some h ∧ (h.vfmt = 31 ∨ (Fmt.ofCode h.vfmt).isSome = true) ∧ s.oidOk h.oid = true ∧ s.core.ocache.contains h.oid = true ∧ h.str = false ∧
    ¬ (h.gen = (s.objEntry h.oid).gen ∧ (s.objEntry h.oid).state = 1)

/-- A side's format: its own; or none, where it touches no page that is known; or that of the page at `va`, which is mapped and in the
core's translation cache. -/
def FmtKnown (s : State) (ch : Nat) (x : Side) (va : Option Nat) (f : Option Nat) : Prop :=
  match x.fmt, va with
  | some v, _ => f = some v
  | none, none => f = none
  | none, some a => ∃ l b e, s.reach s.core.task.asid (some (s.cid * 16 + ch)) a 1 false (some s.core.iss.seq) = .ok l b e ∧ s.core.tlb.contains (a / 4096) = true ∧ f = some (pteFmt e)

/-- The formats of a command suit it (09 R273, R277). -/
def FormatsSuit (a : PumpAsk) (f d : Nat) : Prop :=
  (a.dst.isMem = true → a.p.cv = true → a.p.cfmt = d) ∧ (a.indexed = true → a.p.cv = false ∧ f = d) ∧
  (f = d ∨ cvtOk (fmtOf f) (fmtOf d) = true) ∧ (a.src.isSlot = true → (fmtOf f).width ≠ 64) ∧ (a.dst.isSlot = true → (fmtOf d).width ≠ 64)

/-- The unit and the regions of a command are good (09 R276, R277). -/
def RegionsHold (a : PumpAsk) (f d : Nat) : Prop :=
  (a.indexed = true → a.u % 64 = 0 ∧ 64 ≤ a.u ∧ a.u ≤ 2 ^ 20) ∧
  (a.op ≠ 1 → a.src.regionOk (if a.op = 2 then a.streamBytes else a.n * rowBytes f) false = true) ∧
  (a.op ≠ 2 → ¬ (a.op = 1 ∧ a.mode = 1) → a.dst.regionOk (if a.op = 1 then a.streamBytes else a.n * rowBytes d) true = true)

/-- PREDUCE's own conditions (09 R278). -/
def ReduceOk (s : State) (a : PumpAsk) (d : Nat) : Prop :=
  a.op = 3 →
    let f := fmtOf d
    let runs := a.dst.e.runs 0 (a.n * rowBytes f.code)
    let code : Nat := if f = .fp32 then 0 else if f = .fp64 then 1 else 2
    fldN a.s3 16 2 ≠ 3 ∧ f ∈ [Fmt.int32, .int64, .bf16, .fp32, .fp64] ∧
    (f.isBin = true → firstOther runs s.core.ranges code = none ∧
      (s.core.r.det = true → fldN a.s3 16 2 = 0 → firstFree runs s.core.ranges code = none))

/-- A tile that neither the core has given away nor another engine's command names. -/
def Unheld (c : Core) (ch t : Nat) : Prop :=
  ((c.tile t).own = 0 ∨ ((c.tile t).own = ch + 1 ∧ (c.chan ch).queue.any (fun j => j.tiles.contains t) = true)) ∧
  (∀ i : Nat, i < 8 → i ≠ ch → (c.chan i).queue.any (fun j => j.tiles.contains t) = false) ∧
  c.mat.queue.any (fun j => j.tiles.contains t) = false ∧ c.wl.itile ≠ some t

/-- A P command has been accepted: it stands last in its channel's queue, the tiles it names pass to the channel at issue + 1, those it
writes with its format, and Q[GQ] tells at issue + 3 whether its object is gone. -/
def Accepted (s t : State) (p : PArgs) (q : PumpCmd → Prop) : Prop :=
  ∃ k : PumpCmd, q k ∧ (t.core.chan p.ch.toNat).queue = (s.core.chan p.ch.toNat).queue ++ [k] ∧ k.seq = s.core.iss.seq ∧ k.issued = s.cycle ∧
    k.cls = p.cls.toNat ∧ k.sat = p.sat ∧ k.marker = none ∧ k.fin = false ∧ k.begun = false ∧
    (∀ i : Nat, i ≠ p.ch.toNat → t.core.chan i = s.core.chan i) ∧
    t.core.flight.map (fun x => (x.due, x.w)) = s.core.flight.map (fun x => (x.due, x.w)) ++
      k.tiles.map (fun x => (s.cycle + 1, .grant x (p.ch.toNat + 1) (if k.wtiles.contains x then some k.fd else none))) ++ [(s.cycle + 3, .q p.gq k.gone)] ∧
    t.core.r = s.core.r ∧ t.core.tiles = s.core.tiles ∧ t.core.iss.verdict = s.core.iss.verdict ∧ SameBytes s t

/-- The P commands with an effect, with their numbers. -/
def pumpOps : List ((PArgs → Instr) × Nat) :=
  [(.pcopy, 0), (.pgatherList, 1), (.pgatherPairs, 1), (.pscatter, 2), (.preduce, 3), (.pbcast, 4), (.pfill, 5)]

end Sys2Proof.Stmt

/-- PCOPY, PGATHER by list and by pairs, PSCATTER, PREDUCE, PBCAST and PFILL complete, the command accepted, where the channel has no
pending fault and room, the endpoints are of kinds the command takes, their objects and formats are known and good, the regions hold the
bytes and ascend, list tiles are INT32, tiles allocated and of the format's width, slots claimed, and nothing else holds the tiles. A
weak VIEW whose object is gone, at the source or at the destination, makes the command one without effect, that names no tile; into tiles or slots
it will advance the pointer by its rows. A command of no rows touches no page, and no
format that only a page would give is asked for. PFILL's source is a symbol. -/
def Obligations.PumpCommandsAccepted : Prop :=
  ∀ (s : State) (p : PArgs) (mk : PArgs → Instr) (op : Nat) (x y : Side), (mk, op) ∈ pumpOps → s.core.guard p.g = true → Plain s →
    let c := s.core
    let ch := p.ch.toNat
    let mode := fldN (c.staged p 3) 28 2
    let woff : Word := if c.iss.replay then c.wl.woff ch else 0
    (c.chan ch).fault = none → (c.chan ch).full s.cycle = false →
    (op = 1 → mode ≤ 1 ∧ (mode = 1 → p.dk ≠ 1)) → (op = 2 → mode = 0) →
    s.sideOf p.sk p.hs (c.staged p 0) woff (op != 1) (op != 5) = some x →
    s.sideOf p.dk p.hd (c.staged p 1) woff (!decide (op = 1 ∧ mode = 1) && op != 2 && op != 3) true = some y →
    (Usable s x false ∨ Lost s x) → (Usable s y true ∨ Lost s y) →
    (Lost s x ∨ Lost s y → (op = 5 → ∀ t r, x.e = .tile t r → 2 ≤ (c.tile t).kind ∧ (c.tile t).kind ≤ 4) →
      let page (q : Side) : Option Nat := if op = 1 ∨ op = 2 ∨ q.isMem = false ∨ fldN (c.staged p 3) 0 16 = 0 then none else some q.first
      (¬ Lost s x → ∃ fs, FmtKnown s ch x (page x) fs) → (¬ Lost s y → ∃ fd, FmtKnown s ch y (page y) fd) →
      ∃ t, exec (mk p) s = .next t ∧ Accepted s t p (fun k => k.op = op ∧ k.gone = true ∧ k.tiles = [] ∧ k.wtiles = [] ∧ k.slots = [] ∧
        k.nr = fldN (c.staged p 3) 0 16 ∧ k.copies = (if op = 4 then fldN (c.staged p 2) 0 16 else 1) ∧
        (op ≠ 1 → op ≠ 2 → y.isMem = false → k.count = k.nr * k.copies))) ∧
    (¬ Lost s x → ¬ Lost s y → ∀ z : Side, (op ≠ 5 → z = x) →
      (op = 5 → (∀ t r, x.e = .tile t r → 2 ≤ (c.tile t).kind ∧ (c.tile t).kind ≤ 4 ∧ z = { x with e := .sym (c.tile t), fmt := some (c.tile t).fmt }) ∧
        ((∀ t r, x.e ≠ .tile t r) → z = x)) →
      let a : PumpAsk := { op := op, p := p, s0 := c.staged p 0, s1 := c.staged p 1, s2 := c.staged p 2, s3 := c.staged p 3, src := z, dst := y }
      let unit := if a.indexed then c.firstUnit ch a.itile a.n (a.mode == 1) else none
      let at_ (q : Side) (k : Nat) : Nat := wrapN 64 ((q.first : Int) + k * a.stride)
      let va (q : Side) (listed : Bool) (k : Option Nat) : Option Nat := if !q.isMem || a.n == 0 then none else if listed then k.map (at_ q) else some q.first
      ∀ fs fd : Option Nat,
        FmtKnown s ch z (va z (a.op == 1) (unit.map (·.1))) fs →
        FmtKnown s ch y (va y (a.op == 2 || a.mode == 1) (unit.map (fun q => if a.op = 1 then q.2 else q.1))) fd →
        let fs' := if y.isMem then fs else if p.cv then fs else fs.orElse (fun _ => if a.indexed then y.fmt else none)
        let fd' := if y.isMem then fd else if p.cv then some p.cfmt else fs'
        let bare : Prop := a.n = 0 ∧ ((z.isMem = true ∧ fs = none) ∨ (y.isMem = true ∧ fd = none))
        let f := ((if bare then fs' else fs'.orElse (fun _ => fd'))).getD 0
        let d := ((if bare then fd' else fd'.orElse (fun _ => fs'))).getD 0
        let b := (if bare then { a with fs := fs', fd := fd' } else { a with fs := some f, fd := some d } : PumpAsk).shape
        let rows := if b.indexed then ceilDiv b.streamBytes (rowBytes d) else b.n
        let lists := if b.indexed then sortN (tab (max 1 (ceilDiv (if b.mode = 1 then 2 * b.n else b.n) 1024)) (fun i => wrapN 12 (b.itile + i))) else []
        let srcs := if op = 5 then [] else b.src.tiles rows 1 0
        let dsts := b.dst.tiles rows b.copies b.dist
        let slots := b.dst.slots rows b.copies b.dist
        (¬ bare → FormatsSuit b f d ∧ RegionsHold b f d ∧ ReduceOk s b d) →
        (bare → (a.indexed = true → a.u % 64 = 0 ∧ 64 ≤ a.u ∧ a.u ≤ 2 ^ 20) ∧
          (op = 3 → fldN a.s3 16 2 ≠ 3 ∧ ∀ v, fd' = some v → fmtOf v ∈ [Fmt.int32, .int64, .bf16, .fp32, .fp64])) →
        (∀ t ∈ lists, (c.tile t).kind ≠ 0 ∧ (c.tile t).fmt = Fmt.int32.code) → (∀ t ∈ srcs, (c.tile t).kind ≠ 0) →
        (∀ o ∈ b.src.slots rows 1 0 ++ slots, o < 64 ∧ (c.omd.get {} o).clm = true) →
        (∀ t ∈ dsts, (c.tile t).kind ≠ 0 ∧ (fmtOf (c.tile t).fmt).width = (fmtOf d).width) →
        (∀ t ∈ sortN (lists ++ srcs ++ dsts), Unheld c ch t) → c.mustPromote dsts = false →
        ∃ t, exec (mk p) s = .next t ∧ Accepted s t p (fun k => k.op = op ∧ k.src = b.src.e ∧ k.dst = b.dst.e ∧ k.fs = f ∧ k.fd = d ∧ k.nr = b.n ∧
          k.copies = b.copies ∧ k.dist = b.dist ∧ k.mode = b.mode ∧ k.itile = b.itile ∧ k.gone = false ∧ k.tiles = sortN (lists ++ srcs ++ dsts) ∧
          k.wtiles = dsts ∧ k.slots = slots))

/-- What a P command meets first: a pending fault of its channel is reported as a trap, by PWAIT too; a full queue holds the bundle. A
handle of a wrong kind raises HANDLE. PINVM needs no endpoint: its marker of the pages of a byte range enters the queue. -/
def Obligations.PumpReportsAndMarkers : Prop :=
  ∀ (s : State) (p : PArgs) (mk : PArgs → Instr) (op : Nat) (g : Guard) (a : XReg) (imm : BitVec 32), (mk, op) ∈ (.pinvm, 6) :: pumpOps →
    s.core.guard p.g = true → s.core.guard g = true → Plain s →
    let c := s.core
    let h := c.chan p.ch.toNat
    let woff : Word := if c.iss.replay then c.wl.woff p.ch.toNat else 0
    (∀ f, h.fault = some f →
      let trap : Trap := { code := f.code, slot := c.iss.slot, addr := f.addr, info := #v[0, BitVec.ofNat 64 f.reason, BitVec.ofNat 64 f.op, BitVec.ofNat 64 (2 ^ 62 + p.ch.toNat)] }
      exec (mk p) s = .next (s.trapSlot trap) ∧ exec (.pwait g p.ch a imm) s = .next (s.trapSlot trap)) ∧
    (h.fault = none → h.full s.cycle = true → ∃ t, exec (mk p) s = .next t ∧ Held s t) ∧
    (h.fault = none → h.full s.cycle = false →
      (op < 6 → op ≠ 1 → op ≠ 2 → s.sideOf p.sk p.hs (c.staged p 0) woff true (op != 5) = none → exec (mk p) s = .next (s.trap 0x06 0 0 (p.hs.setWidth 64))) ∧
      (op < 6 → op ≠ 1 → op ≠ 2 → (s.sideOf p.sk p.hs (c.staged p 0) woff true (op != 5)).isSome = true →
        s.sideOf p.dk p.hd (c.staged p 1) woff (op != 3) true = none → exec (mk p) s = .next (s.trap 0x06 0 0 (p.hd.setWidth 64))) ∧
      (∃ t, exec (.pinvm p) s = .next t ∧
        let lo := (c.staged p 0 + woff).toNat
        let n := (c.staged p 1).toNat
        t = { s with core := { c with chans := t.core.chans, iss := { c.iss with seq := c.iss.seq + 1 } } } ∧
        (∀ i : Nat, i ≠ p.ch.toNat → t.core.chan i = c.chan i) ∧
        ∃ k, (t.core.chan p.ch.toNat).queue = h.queue ++ [k] ∧ k.marker = some (lo / 4096, if n = 0 then 0 else (lo + n + 4095) / 4096 - lo / 4096, []) ∧
          k.issued = s.cycle ∧ k.seq = c.iss.seq))

namespace Sys2Proof.Stmt

/-- A command at the head of a channel that moves now: begun, neither gone nor another's, with rows or entries to move. -/
def Moves (s : State) (n : Nat) (k : PumpCmd) : Prop :=
  s.core.head n = some k ∧ s.core.pumpReady s.cycle n = true ∧ k.begun = true ∧ k.gone = false ∧ k.follow = false ∧ k.nr ≠ 0 ∧ k.copies ≠ 0

/-- The command `q`, with bytes in hand, writes a free number of units of them, at least one, in the state `s` but for free values drawn; with
all written it goes on as `next` says, and otherwise comes again or has met a fault. -/
def WritesOn (s t : State) (n : Nat) (q : PumpCmd) (next : PumpCmd → PumpCmd) : Prop :=
  ∃ m d : Nat, 1 ≤ m ∧
    let r := ({ s with free := s.free + d } : State).pumpStore n m q
    t = { r.1 with core := r.1.core.setHead n (match r.2.2 with | .done => next r.2.1 | .wait => r.2.1.again s.cycle | .bad => r.2.1) }

/-- The elements of row `i` of a command's source: of a tile, that no write of the core is on its way to; of a symbol; or of memory, all of
whose bytes the command has got. -/
def RowSource (s : State) (k : PumpCmd) (i : Nat) (els : List Nat) : Prop :=
  (∃ t0 r0, k.src = .tile t0 r0 ∧ let a := (wrapN 12 (t0 + (r0 + i) / 16 : Nat), (r0 + i) % 16)
    s.core.rowBusy a.1 a.2 = false ∧ els = s.core.tileRow a.1 a.2) ∨
  (∃ e, k.src = .sym e ∧ els = e.symRow (i % 16)) ∨
  (k.src.isMem = true ∧ k.got.length = rowBytes k.fs ∧ els = bytesEls k.fs k.got)

/-- The row that the command has in hand, with the flags of its conversion: the one there; or the next row of its source, converted; or for a
later copy the row kept. -/
def RowInHand (s : State) (k : PumpCmd) (hand : List Nat) (fls : List Flags) : Prop :=
  (k.hand ≠ [] ∧ hand = k.hand ∧ fls = k.fls) ∨
  (k.hand = [] ∧ k.pos < k.nr ∧ ∃ els, RowSource s k k.pos els ∧ hand = (k.convert els).1 ∧ fls = (k.convert els).2) ∨
  (k.hand = [] ∧ k.nr ≤ k.pos ∧ hand = k.rows.getD (k.pos % k.nr) [] ∧ fls = k.fls)

/-- Elements of a row in hand go into row `r` of tile `x`, from where the command stands up to a free place; no other row of the scratchpad's tiles
changes but in EXC, and nothing in memory. -/
def RowPart (s t : State) (k : PumpCmd) (x r : Nat) (hand : List Nat) (e : Nat) : Prop :=
  k.part < e ∧ e ≤ 64 ∧
  (∀ i : Nat, i < 64 → (t.core.tileRow x r).getD i 0 = if k.part ≤ i ∧ i < e then hand.getD i 0 else (s.core.tileRow x r).getD i 0) ∧
  (∀ q : Nat, q ≠ x → ∃ v, t.core.tile q = { s.core.tile q with exc := v }) ∧ ((s.core.tile x).rpc = 0 → ∀ q : Nat, q ≠ x → t.core.tile q = s.core.tile q) ∧
  t.core.r = s.core.r ∧ SameBytes s t

/-- A tile that takes a row in hand: STORED in the command's format. -/
def Takes (s : State) (k : PumpCmd) (x : Nat) (hand : List Nat) : Prop :=
  (s.core.tile x).kind = 1 ∧ (s.core.tile x).fmt = k.fd ∧ (∀ v ∈ hand, v < 2 ^ (fmtOf k.fd).width) ∧ hand.length = 64 ∧
  Sparse.wf 0 s.core.sp = true ∧ Sparse.wf {} s.core.tiles = true

/-- The bytes of unit `x` of a list: zeros for an absent index, else all its bytes, which the command has got. -/
def UnitBytes (k : PumpCmd) (x : Nat) (bs : List Byte) : Prop :=
  (x = noIndex ∧ bs = List.replicate k.src.unitLen 0) ∨ (x ≠ noIndex ∧ k.got.length = k.src.unitLen ∧ bs = k.got)

end Sys2Proof.Stmt

/-- PUMP_COMMAND_START and WPTR_ADVANCE complete in every state: nothing happens until the head is ready; a gone command, or one of no rows,
advances its pointer as counted and finishes. A row of a PCOPY, PBCAST or PFILL into a tile, from a tile, a symbol or memory, converted where the
formats differ, is written element by element, a free number at a time (log 49), with the flags of their conversion; the last of them
raises the pointer by 1 in the next cycle and lets the next row move once its bytes have passed at 128 a cycle. Into memory, also of a
PREDUCE, its bytes are the ones in hand, written unit by unit. PBCAST reads its source once, while copy 0 is written (log 23). An
advance that is due adds to the pointer modulo 2^64. No register but the pointer, and no byte of memory that is not written, changes; of
another tile only EXC may, where the tile has repeaters. -/
def Sys2Proof.Stmt.PumpMovesRows1 : Prop :=
  (∀ (s : State) (ch : BitVec 3), s.core.head ch.toNat = none → exec (.pumpCommandStart ch) s = .next s) ∧
  (∀ (s : State) (ch : BitVec 3) (k : PumpCmd), Plain s → s.core.head ch.toNat = some k →
    let n := ch.toNat
    (s.core.pumpReady s.cycle n = false → exec (.pumpCommandStart ch) s = .next s) ∧
    (s.core.pumpReady s.cycle n = true → k.begun = false → (k.gone = true ∨ k.nr = 0 ∨ k.copies = 0) →
      exec (.pumpCommandStart ch) s = .next { s with core := s.core.setHead n { k with begun := true, ready := s.cycle } }) ∧
    (s.core.pumpReady s.cycle n = true → k.begun = true → k.gone = true → ∃ t, exec (.pumpCommandStart ch) s = .next t ∧
      t.core.head n = some { k with fin := true, ready := s.cycle + 1 } ∧ (k.count ≠ 0 → (t.core.chan n).adv = (s.core.chan n).adv ++ [(s.cycle + 1, k.count)]) ∧
      t.core.r = s.core.r ∧ t.core.tiles = s.core.tiles ∧ SameBytes s t)) ∧
  (∀ (s : State) (ch : BitVec 3) (k : PumpCmd), Plain s → Moves s ch.toNat k → k.op ≠ 1 → k.op ≠ 2 → k.pos < k.nr * k.copies → s.core.badWords = [] →
    let n := ch.toNat
    let cost := max 1 ((max (8 * (fmtOf k.fs).width) (8 * (fmtOf k.fd).width) + 127) / 128)
    (k.buf ≠ [] → ∃ t, exec (.pumpCommandStart ch) s = .next t ∧ WritesOn s t n k (fun q => q.nextRow s.cycle)) ∧
    (∀ hand fls, k.buf = [] → RowInHand s k hand fls →
      (k.dst.isMem = true → k.hand = [] → ∃ t q, exec (.pumpCommandStart ch) s = .next t ∧ WritesOn s t n q (fun q => q.nextRow s.cycle) ∧
        q = { k with buf := elsBytes k.fd hand, out := 0, fls := fls, got := q.got, rows := q.rows }) ∧
      (∀ t1 r1, k.dst = .tile t1 r1 → k.part < 64 →
        let y : Int := r1 + (k.pos / k.nr : Nat) * k.dist + (k.pos % k.nr : Nat)
        let x := wrapN 12 (t1 + y / 16)
        let r := (y % 16).toNat
        (k.hand = [] → s.core.rowBusy x r = false) → Takes s k x hand →
        ∃ t j e, exec (.pumpCommandStart ch) s = .next t ∧ RowPart s t k x r hand e ∧ t.core.head n = some j ∧
          j.flags = k.flags ||| ((fls.drop k.part).take (e - k.part)).foldl (· ||| ·) 0 ∧
          (e < 64 → j.pos = k.pos ∧ j.hand = hand ∧ j.part = e ∧ j.fin = false ∧ s.cycle < j.ready ∧ (t.core.chan n).adv = (s.core.chan n).adv) ∧
          (e = 64 → j.pos = k.pos + 1 ∧ j.hand = [] ∧ j.part = 0 ∧ (t.core.chan n).adv = (s.core.chan n).adv ++ [(s.cycle + 1, 1)] ∧
            (j.fin = decide (k.pos + 1 = k.nr * k.copies)) ∧ (j.fin = false → j.ready = s.cycle + cost))))) ∧
  (∀ (s : State) (ch : BitVec 3), ∃ t, exec (.wptrAdvance ch) s = .next t ∧
    let h := s.core.chan ch.toNat
    t.core.wptr ch.toNat = (s.core.wptr ch.toNat + ((h.adv.filter (fun a => decide (a.1 ≤ s.cycle))).map (·.2)).sum) % 2 ^ 64 ∧
    (∀ i : Nat, i ≠ ch.toNat → t.core.wptr i = s.core.wptr i) ∧ (t.core.chan ch.toNat).adv = h.adv.filter (fun a => decide (s.cycle < a.1)) ∧
    (t.core.chan ch.toNat).queue = h.queue ∧ t.core.r = { s.core.r with wptr := t.core.r.wptr } ∧ t.core.tiles = s.core.tiles ∧ SameBytes s t)

/-- PGATHER and PSCATTER, unit by unit of the index list. PGATHER's units, zeros for an absent index, go to memory, or, stated of a unit as long
as a row, into the rows of a tile; in pair mode all units are read before one is written, in the list's order, and a pair with an absent index moves
nothing. PSCATTER writes the bytes of its rows or of memory to the unit that the list names, and nothing for an
absent index. -/
def Sys2Proof.Stmt.PumpMovesUnits : Prop :=
  ∀ (s : State) (ch : BitVec 3) (k : PumpCmd), Plain s → Moves s ch.toNat k → s.core.badWords = [] →
    let n := ch.toNat
    let u := k.src.unitLen
    let x := k.list.getD k.pos 0
    let same (t : State) : Prop := t.core.r = s.core.r ∧ t.core.tiles = s.core.tiles ∧ SameBytes s t ∧ (t.core.chan n).adv = (s.core.chan n).adv
    (k.op = 1 → k.mode = 0 → k.pos < k.nr →
      (k.dst.isMem = true → k.buf ≠ [] → ∃ t, exec (.pumpCommandStart ch) s = .next t ∧ WritesOn s t n k (fun q => q.nextUnit s.cycle)) ∧
      (∀ bs, k.dst.isMem = true → k.buf = [] → k.hand = [] → UnitBytes k x bs → ∃ t q, exec (.pumpCommandStart ch) s = .next t ∧
        WritesOn s t n q (fun q => q.nextUnit s.cycle) ∧ q = { k with buf := bs, out := 0, got := q.got }) ∧
      (∀ t1 r1 bs, k.dst = .tile t1 r1 → k.buf = [] → u = rowBytes k.fd → k.part < 64 →
        (k.hand = [] → UnitBytes k x bs ∧ k.unitSpan.any (fun y => s.core.rowBusy y.1 y.2) = false) →
        let hand := if k.hand = [] then bytesEls k.fd bs else k.hand
        let y := wrapN 12 (t1 + (r1 + k.out) / 16 : Nat)
        let r := (r1 + k.out) % 16
        Takes s k y hand → ∃ t j e, exec (.pumpCommandStart ch) s = .next t ∧ RowPart s t k y r hand e ∧ t.core.head n = some j ∧
          (e < 64 → j.pos = k.pos ∧ j.out = k.out ∧ j.hand = hand ∧ j.part = e ∧ j.fin = false ∧ (t.core.chan n).adv = (s.core.chan n).adv) ∧
          (e = 64 → j.pos = k.pos + 1 ∧ j.out = k.out + 1 ∧ j.hand = [] ∧ j.part = 0 ∧ (t.core.chan n).adv = (s.core.chan n).adv ++ [(s.cycle + 1, 1)] ∧
            j.fin = decide (k.pos + 1 = k.nr)))) ∧
    (k.op = 1 → k.mode = 1 →
      (k.pos < k.nr →
        let a := k.list.getD (2 * k.pos) 0
        let b := k.list.getD (2 * k.pos + 1) 0
        (a = noIndex ∨ b = noIndex ∨ k.got.length = u) → ∃ t j, exec (.pumpCommandStart ch) s = .next t ∧ same t ∧ t.core.head n = some j ∧ j.pos = k.pos + 1 ∧
          j.units = k.units ++ (if a = noIndex ∨ b = noIndex then [] else [(b, k.got)]) ∧ j.fin = (decide (k.pos + 1 = k.nr) && j.units.isEmpty) ∧
          (k.pos + 1 = k.nr → ∀ v l, j.units = v :: l → j.buf = v.2)) ∧
      (k.nr ≤ k.pos → ∃ t, exec (.pumpCommandStart ch) s = .next t ∧ WritesOn s t n k (fun q =>
        let l := q.units.drop 1
        let q : PumpCmd := { q with units := l, out := 0, buf := (l.headD (0, [])).2, ready := s.cycle + moveCycles q.dst.unitLen }
        if l.isEmpty then q.finish s.cycle else q))) ∧
    (k.op = 2 → k.pos < k.nr →
      let next (q : PumpCmd) : PumpCmd :=
        let q : PumpCmd := { q with pos := q.pos + 1, out := 0, buf := [], ready := s.cycle + moveCycles q.dst.unitLen }
        if q.pos = q.nr then q.finish s.cycle else q
      (k.buf ≠ [] → ∃ t, exec (.pumpCommandStart ch) s = .next t ∧ WritesOn s t n k next) ∧
      (k.buf = [] → x = noIndex → ∃ t, exec (.pumpCommandStart ch) s = .next t ∧ same t ∧ t.core.head n = some (next k)) ∧
      (∀ bs, k.buf = [] → x ≠ noIndex → (k.src.isMem = true ∧ k.got.length = k.dst.unitLen ∧ bs = k.got) ∨
          (k.src.isMem = false ∧ (∀ r : Nat, s.core.sideBusy k.src (k.src.rowAt 0 r) = false) ∧ bs = s.core.rowBytesOf k k.pos k.dst.unitLen) →
        ∃ t q, exec (.pumpCommandStart ch) s = .next t ∧ WritesOn s t n q next ∧ q = { k with buf := bs, out := 0, got := q.got }))

/-- The units of memory that a command reads and writes. Reading adds the bytes of one to what the command has
got. Writing puts the next bytes in hand, up to 8 that lie in one aligned run, at the address that the destination's shape gives, and
raises the pointer by 1 where the command writes no more to their granule. PREDUCE combines an element instead: integer sums wrap, maxima and
minima are signed, floating sums are rounded to nearest-even, with their flags, outside a reserved range, and exact within
one of the job's. No other byte of memory, and no register, changes. Stated of units in one piece, whose page is mapped and in the translation
cache, and that no earlier access keeps waiting. -/
def Sys2Proof.Stmt.PumpMemoryUnits : Prop :=
  (∀ (s : State) (ch : BitVec 3) (unit : Option Nat) (m : Nat) (k : PumpCmd) (va n : Nat) (t : List (Nat × Nat)) (l : List (Nat × Nat)) (e : BitVec 128),
    let c := ch.toNat
    (s.core.pumpWaits s.whereIs c k false va n = true → s.pumpRead c unit (m + 1) k ((va, n) :: t) = (s, k, .wait)) ∧
    (s.core.pumpWaits s.whereIs c k false va n = false → s.pumpMeet c k false va n false unit = .ok l e → s.badWord l = none → (s.translate (va / 4096)).1 = 0 →
      ∃ s' k', s.pumpRead c unit (m + 1) k ((va, n) :: t) = s'.pumpRead c unit m k' t ∧ k' = { k with got := k'.got, pfs := k'.pfs } ∧
        (k.pre = [] → k'.got = k.got ++ s.readPieces l) ∧ SameBytes s s' ∧ s'.core.r = s.core.r ∧ s'.core.tiles = s.core.tiles)) ∧
  (∀ (s : State) (ch : BitVec 3) (m : Nat) (k : PumpCmd) (p : Nat) (e : BitVec 128), Plain s → Memory.wf s.mem = true → k.buf ≠ [] →
    let c := ch.toNat
    let va := k.dstAt.1
    let w := (fmtOf k.fd).width
    let n := min (min k.dstAt.2 k.buf.length) (if k.op = 3 then w / 8 else 8 - va % 8)
    let v := leNat (k.buf.take n)
    let old := leNat ((List.range n).map (fun i => s.readByte (p + i)))
    let int (x : Nat) : Int := (BitVec.ofNat w x).toInt
    let puts (s' : State) (x : Nat) : Prop := ∀ a : Nat, s'.readByte a = if p ≤ a ∧ a < p + n then BitVec.ofNat 8 (x / 256 ^ (a - p)) else s.readByte a
    (s.core.pumpWaits s.whereIs c k true va n = true → s.pumpStore c (m + 1) k = (s, k, .wait)) ∧
    (s.core.pumpWaits s.whereIs c k true va n = false → s.pumpMeet c k true va n true k.dstUnit = .ok [(p, n)] e → s.unc = [] → (s.translate (va / 4096)).1 = 0 →
      ∃ s' k', s.pumpStore c (m + 1) k = s'.pumpStore c m k' ∧ k' = { k with buf := k.buf.drop n, out := k.out + n, flags := k'.flags, pfd := k'.pfd } ∧
        s'.core.r = s.core.r ∧ s'.core.tiles = s.core.tiles ∧
        (s'.core.chan c).adv = (s.core.chan c).adv ++ (if k'.writesAgain (va / 128) = true then [] else [(s.cycle + 1, 1)]) ∧
        (k.op ≠ 3 → puts s' v ∧ k'.flags = k.flags ||| k.raised (8 * k.out / w) (8 * (k.out + n) / w)) ∧
        (k.op = 3 → n = w / 8 → (fmtOf k.fd = .int32 ∨ fmtOf k.fd = .int64) → ∃ x, puts s' x ∧ x < 2 ^ w ∧ (k.comb = 0 → x = (old + v) % 2 ^ w) ∧
          (k.comb = 1 → int x = max (int old) (int v)) ∧ (k.comb = 2 → int x = min (int old) (int v))) ∧
        (∀ f : Nat, k.op = 3 → n = w / 8 → f < 3 → fmtOf k.fd = accFmt f →
          let hit := s.accs.find? (fun a => a.job == s.core.task.job && a.va == va && a.fmt == f)
          let sum := (accFmt f).add .rne old v
          let best := (accFmt f).minmax (decide (k.comb = 1)) old v
          (k.comb = 0 → hit = none → puts s' sum.1 ∧ k'.flags = k.flags ||| sum.2 ||| k.raised (8 * k.out / w) (8 * (k.out + n) / w)) ∧
          (∀ a, k.comb = 0 → hit = some a → SameBytes s s' ∧ s'.accs = s.accs.map (fun b => if b = a then b.add ((accFmt f).decode v) else b)) ∧
          (k.comb ≠ 0 → puts s' best.1 ∧ k'.flags = k.flags ||| best.2 ||| k.raised (8 * k.out / w) (8 * (k.out + n) / w)))))

/-- PUMP_COMMAND_START and WPTR_ADVANCE complete in every state: nothing happens until the head is ready; a gone command, or one of no rows,
advances its pointer as counted and finishes. A row of a PCOPY, PBCAST or PFILL into a tile, from a tile, a symbol or memory, converted
where the formats differ, is written element by element, a free number at a time (log 49), with the flags of their conversion; the last
of them raises the pointer by 1 in the next cycle and lets the next row move once its bytes have passed at 128 a cycle. Into memory,
also of a PREDUCE, its bytes are the ones in hand, written unit by unit. PBCAST reads its source once, while copy 0 is written (log 23).
An advance that is due adds to the pointer modulo 2^64. No register but the pointer, and no byte of memory that is not written, changes;
of another tile only EXC may, where the tile has repeaters. PGATHER and PSCATTER, unit by unit of the index list. PGATHER's units, zeros
for an absent index, go to memory, or, stated of a unit as long as a row, into the rows of a tile; in pair mode all units are read
before one is written, in the list's order, and a pair with an absent index moves nothing. PSCATTER writes the bytes of its rows or of
memory to the unit that the list names, and nothing for an absent index. The units of memory that a command reads and writes. Reading
adds the bytes of one to what the command has got. Writing puts the next bytes in hand, up to 8 that lie in one aligned run, at the
address that the destination's shape gives, and raises the pointer by 1 where the command writes no more to their granule. PREDUCE
combines an element instead: integer sums wrap, maxima and minima are signed, floating sums are rounded to nearest-even, with their
flags, outside a reserved range, and exact within one of the job's. No other byte of memory, and no register, changes. Stated of units
in one piece, whose page is mapped and in the translation cache, and that no earlier access keeps waiting. -/
def Obligations.PumpMovesRows : Prop :=
  Sys2Proof.Stmt.PumpMovesRows1 ∧ Sys2Proof.Stmt.PumpMovesUnits ∧ Sys2Proof.Stmt.PumpMemoryUnits

/-- The end of a command: PUMP_COMMAND_COMPLETE takes a finished command with no advance outstanding from the queue, makes its flags sticky and
gives its tiles back to the core unless a later command of the channel names them; PUMP_FAULT of a command that met a fault empties the
queue, keeps the fault and gives back every tile; a marker at the head, of a PINVM once every earlier access of the core is performed, drops its pages from the translation cache and leaves the queue 4
cycles later; the page of a held command enters the cache when its walk ends. Before that PUMP_COMMAND_START lets a gone command begin,
and WPTR_ADVANCE adds an advance that is due. With nothing due nothing changes; no general register and no
byte of memory changes. That a PINVM's marker waits for every earlier access of the core is the model's reading (log 23). -/
def Obligations.PumpCommandsEnd : Prop :=
  (∀ (s : State) (ch : BitVec 3) (k : PumpCmd), Plain s → s.core.head ch.toNat = some k → s.core.pumpReady s.cycle ch.toNat = true →
    k.begun = false → k.gone = true →
    exec (.pumpCommandStart ch) s = .next { s with core := s.core.setHead ch.toNat { k with begun := true, ready := s.cycle } }) ∧
  (∀ (s : State) (ch : BitVec 3) (n : Nat), (s.core.chan ch.toNat).adv = [(s.cycle, n)] →
    exec (.wptrAdvance ch) s = .next { s with core := { s.core with
      chans := s.core.chans.setIfInBounds ch.toNat { s.core.chan ch.toNat with adv := [] },
      r := { s.core.r with wptr := s.core.r.wptr.setIfInBounds ch.toNat ((s.core.wptr ch.toNat + n) % 2 ^ 64) } } }) ∧
  ∀ (s : State) (ch : BitVec 3), Plain s → Sparse.wf {} s.core.tiles = true →
    let n := ch.toNat
    let q := (s.core.chan n).queue
    let due (k : PumpCmd) : Prop := k.fin = true ∧ k.marker = none ∧ k.ready ≤ s.cycle ∧ (s.core.chan n).adv = []
    (q = [] → exec (.pumpCommandComplete ch) s = .next s ∧ exec (.pumpFault ch) s = .next s ∧ exec (.markerAtHead ch) s = .next s ∧
      exec (.markerComplete ch) s = .next s) ∧
    (∀ k l, q = k :: l →
      (¬ due k → exec (.pumpCommandComplete ch) s = .next s) ∧
      (due k → ∃ t, exec (.pumpCommandComplete ch) s = .next t ∧ (t.core.chan n).queue.length = l.length ∧ (t.core.chan n).last = s.cycle ∧
        t.core.r = { s.core.r with fpstat := s.core.r.fpstat ||| (k.flags &&& 0x7F).setWidth 64 } ∧
        (∀ x ∈ k.tiles, (s.core.tile x).own = n + 1 → (t.core.tile x).own = if l.any (fun j => j.tiles.contains x) then n + 1 else 0) ∧ SameBytes s t) ∧
      (k.bad = none → exec (.pumpFault ch) s = .next s) ∧
      (∀ f, k.bad = some f → ∃ t, exec (.pumpFault ch) s = .next t ∧ (t.core.chan n).queue = [] ∧ (t.core.chan n).fault = some f ∧ (t.core.chan n).flags = k.flags ∧
        t.core.r = s.core.r ∧ (∀ j ∈ q, ∀ x ∈ j.tiles, (s.core.tile x).own = n + 1 → (t.core.tile x).own = 0) ∧ SameBytes s t) ∧
      (∀ page cnt ids, k.marker = some (page, cnt, ids) →
        (k.begun = false → k.issued < s.cycle → ids = [] → s.core.quietBefore k.seq 0xFFFF = false → exec (.markerAtHead ch) s = .next s) ∧
        (k.begun = false → k.issued < s.cycle → (ids ≠ [] ∨ s.core.quietBefore k.seq 0xFFFF = true) → ∃ t, exec (.markerAtHead ch) s = .next t ∧ t.core.head n = some { k with begun := true, ready := s.cycle + 4 } ∧
          t.core.tlb = s.core.tlb.filter (fun p => !decide (page ≤ p ∧ p < page + cnt)) ∧ t.core.r = s.core.r ∧ SameBytes s t) ∧
        (k.begun = true → exec (.markerAtHead ch) s = .next s) ∧
        (k.begun = true → k.ready ≤ s.cycle → ∃ t, exec (.markerComplete ch) s = .next t ∧ (t.core.chan n).queue = l ∧ t.core.r = s.core.r ∧ SameBytes s t) ∧
        (k.begun = false → exec (.markerComplete ch) s = .next s))) ∧
    (s.core.hold.walk = none → exec .pageWalkEnd s = .next s) ∧
    (∀ page d, s.core.hold.walk = some (page, d) → (s.cycle < d → exec .pageWalkEnd s = .next s) ∧
      (d ≤ s.cycle → ∃ t, exec .pageWalkEnd s = .next t ∧ t.core.hold.walk = none ∧ (page ∉ s.core.tlb → page ∈ t.core.tlb) ∧ t.core.r = s.core.r ∧ SameBytes s t))

/-! ### Mappings, launches, binding, pre-emption -/

/-- Shogiwald's changes of an entry: FAULT_SETTLE and TRANSLATION_CHANGE write the entry where the walk for the address meets it, with W
clear on a page of a shared COW object, and no other entry of the table but the pointers that reach it. A settlement takes the faults on its
pages away. A change that does more than grant, and one that sets W in a page of a COW object (R352), keeps the entry that was valid before it, with one marker for every core of the space, and is
not made while a reserved target lies on its pages. No register and no byte of memory changes. -/
def Sys2Proof.Stmt.EntryChanges : Prop :=
  ∀ (s : State) (asid : BitVec 16) (va : BitVec 48) (level : BitVec 2) (pte : BitVec 128),
    let a := asid.toNat
    let v := va.toNat
    let lv := level.toNat + 1
    let sp := s.space a
    let k := sp.keyFor lv v
    let old := sp.standing lv v
    let e := sp.cowMask pte
    let page := levelPage lv v
    let n := levelPages lv
    let inside (f : FaultRec) : Prop := f.asid = a ∧ page ≤ f.va / 4096 ∧ f.va / 4096 < page + n
    let written (t : State) : Prop := (t.space a).entry none k = e ∧ (∀ i, i ≠ k → (t.space a).entry none i = (sp.linkTo v lv).entry none i) ∧
      t.core.r = s.core.r ∧ SameBytes s t
    let settled (t : State) : Prop := ∀ f, f ∈ t.faults ↔ f ∈ s.faults ∧ ¬ inside f
    let kept (t : State) : Prop := ∃ ch ∈ (t.space a).changes, ch.olds = [(k, 1, old)] ∧ ch.page = page ∧ ch.n = n
    (∃ x, (a, x) ∈ s.spaces) → (∀ u ∈ s.unc, u.2 ≠ 64) →
    (∀ b : Nat, e.getLsbD b = (pte.getLsbD b && !(decide (b = 3) && pteLeaf pte && pteObjv pte && (sp.objs.get {} (pteOid pte)).cow &&
      decide (1 < (sp.objs.get {} (pteOid pte)).strong)))) ∧
    let frees : Prop := pteV old = true ∧ pteLeaf old = true ∧ pteObjv old = true ∧ pteW old = false ∧ pteW e = true ∧ (sp.objs.get {} (pteOid old)).cow = true
    (grants old e = true → ¬ frees → ∃ t, exec (.faultSettle asid va level pte) s = .next t ∧ written t ∧ settled t ∧ (t.space a).changes = sp.changes) ∧
    (grants old e = false → s.reserved a page n = true →
      exec (.faultSettle asid va level pte) s = .next s ∧ exec (.translationChange asid va level pte) s = .next s) ∧
    ((grants old e = true ∧ frees) ∨ (grants old e = false ∧ s.reserved a page n = false) →
      ∃ t, exec (.faultSettle asid va level pte) s = .next t ∧ written t ∧ settled t ∧ (s.coresIn a ≠ [] → kept t)) ∧
    (grants old e = true ∨ s.reserved a page n = false → ∃ t, exec (.translationChange asid va level pte) s = .next t ∧ written t ∧
      t.faults = s.faults ∧ (pteV old = true → s.coresIn a ≠ [] → kept t) ∧ (pteV old = false → (t.space a).changes = sp.changes))

/-- FAULT_DECLARE answers the faults that are recorded on the page, of whatever size: each access they serve is told, in its core, that the page
is invalid; a store that waits in the sump waits for its report; and the page's faults are gone. A page of a COW object with W clear is declared
a COW while STRONG is above 1, whatever is asked (log 13, DEDUCED from R352), unless a walk for it meets an uncorrectable word; with STRONG 1 its
entry gets W by a change, and the faults are settled. With no such fault, or asked for a COW on another page, nothing changes. -/
def Sys2Proof.Stmt.FaultDeclarations : Prop :=
  ∀ (s : State) (asid : BitVec 16) (va : BitVec 48) (cow : Bool),
    let a := asid.toNat
    let v := va.toNat
    let page := v / 4096
    let sp := s.space a
    let on (f : FaultRec) : Bool := f.asid == a && sp.onePage f.va v
    let told (t : State) (c : Bool) (f : FaultRec) : Prop := ∀ w ∈ f.who, let k := s.coreAt w.1
      ((∃ m, w.2 = some m ∧ ∃ e ∈ k.sump, e.seq = m) → ∀ e ∈ (t.coreAt w.1).sump, some e.seq = w.2 → e.bad.isSome = true) ∧
      ((∀ m, w.2 = some m → ∀ e ∈ k.sump, e.seq ≠ m) → (page, c, w.2) ∈ (t.coreAt w.1).declared)
    let declares (c : Bool) : Prop :=
      ((∀ f ∈ s.faults, on f = false) → exec (.faultDeclare asid va cow) s = .next s) ∧
      ∃ t, exec (.faultDeclare asid va cow) s = .next t ∧ (∀ f ∈ s.faults, on f = true → told t c f) ∧ (∀ g, g ∈ t.faults ↔ g ∈ s.faults ∧ on g = false) ∧
        t.spaces = s.spaces ∧ t.core.r = s.core.r ∧ SameBytes s t
    (sp.leaf none v = none ∨ (∃ e bits, sp.leaf none v = some (e, bits) ∧
        (pteObjv e = false ∨ pteW e = true ∨ (sp.objs.get {} (pteOid e)).cow = false)) →
      (cow = false → declares false) ∧ (cow = true → exec (.faultDeclare asid va cow) s = .next s)) ∧
    (∀ e bits, sp.leaf none v = some (e, bits) → pteObjv e = true → pteW e = false → (sp.objs.get {} (pteOid e)).cow = true →
      (cow = false → (s.walkWord a none page).isSome = true → declares false) ∧
      (cow = true ∨ s.walkWord a none page = none → 1 < (sp.objs.get {} (pteOid e)).strong → declares true) ∧
      (cow = true ∨ s.walkWord a none page = none → (sp.objs.get {} (pteOid e)).strong ≤ 1 → (∃ x, (a, x) ∈ s.spaces) → (∀ u ∈ s.unc, u.2 ≠ 64) →
        ∃ t, exec (.faultDeclare asid va cow) s = .next t ∧ (∀ f ∈ t.faults, f ∈ s.faults ∧ (f.asid = a → f.va / 4096 ≠ page)) ∧
          t.core.r = s.core.r ∧ SameBytes s t ∧
          (bits = 12 → (t.space a).entry none (sp.keyFor 4 (page * 4096)) = setFld (sp.standing 4 (page * 4096)) 3 1#1 ∧
            (s.coresIn a ≠ [] → ∃ ch ∈ (t.space a).changes, ch.page = page ∧ ch.n = 1))))

/-- The steps of a page's move: W cleared in its entries, with the old leaf remembered; its bytes copied and every other byte left; the new
leaf written in every entry, with FRAME and TIER changed and W as the COW rule has it; the faults on the page settled; or, once its object is
FREE or GONE, the move given up and the new frame's pages free. A page that moves already, or holds a reserved target, begins no move. The
late promotion of a layer counts in its job. The copy waits for the markers of the first step (R355, R347), and the new leaf for the copy and
for the release of targets reserved in the page (R357). -/
def Sys2Proof.Stmt.PageMoves : Prop :=
  ∀ (s : State) (asid : BitVec 16) (va : BitVec 48) (frame : BitVec 40) (tier : BitVec 2),
    let a := asid.toNat
    let v := va.toNat
    let sp := s.space a
    let mv (k : BitVec 3) : Out := exec (.pageMigration asid va frame tier k) s
    let run (t : State) (key n : Nat) (e : BitVec 128) : Prop := ∀ i < n, (t.space a).entry none (key + i) = setFld e 12 (BitVec.ofNat 40 (pteFrame e + i))
    let gone (m : Move) (t : State) : Prop := (t.space a).moving = sp.moving.filter (fun x => x.va != m.va)
    let free (t : State) (l : List (Nat × Nat)) : Prop := t.freePages = l.foldl (fun x p => addAt x p.1 p.2) s.freePages
    (∃ x, (a, x) ∈ s.spaces) →
    (sp.leaf none v = none → mv 0 = .next s) ∧
    (∀ e bits, sp.leaf none v = some (e, bits) →
      let v0 := v / 2 ^ bits * 2 ^ bits
      let n := 2 ^ (bits - 12)
      let key := sp.keyFor (if bits = 21 then 3 else 4) v0
      ((sp.moveOf v).isSome = true ∨ s.reserved a (v0 / 4096) n = true → mv 0 = .next s) ∧
      (sp.moveOf v = none → s.reserved a (v0 / 4096) n = false → ∃ t m, mv 0 = .next t ∧ (t.space a).moveOf v = some m ∧
        m = { va := v0, key := key, n := n, leaf := sp.entry none key, frame := frame.toNat, tier := tier.toNat, chg := s.nextChange } ∧
        run t key (if bits = 16 then 16 else 1) (setFld (sp.entry none key) 3 0#1) ∧ t.core.r = s.core.r ∧ SameBytes s t)) ∧
    (∀ m, sp.moveOf v = some m → sp.mayCopy m = false → mv 1 = .next s) ∧
    (∀ m, sp.moveOf v = some m → sp.mayCopy m = true → Memory.wf s.mem = true → s.unc = [] →
      let src := frameBase (pteTier m.leaf) (pteFrame m.leaf)
      let dst := frameBase m.tier m.frame
      let len := m.n * 4096
      ∃ t, mv 1 = .next t ∧ (t.space a).ptes = sp.ptes ∧ (∀ x ∈ (t.space a).moving, x.va = m.va → x.copied = true) ∧ t.core.r = s.core.r ∧
        ∀ b : Nat, t.readByte b = if dst ≤ b ∧ b < dst + len then s.readByte (src + (b - dst)) else s.readByte b) ∧
    (∀ m, sp.moveOf v = some m → sp.moveDead m = false → m.copied = false ∨ s.reserved a (m.va / 4096) m.n = true → mv 2 = .next s ∧ mv 5 = .next s) ∧
    (∀ m, sp.moveOf v = some m → sp.moveDead m = false → m.copied = true → s.reserved a (m.va / 4096) m.n = false →
      let e := sp.cowMask (setFld (setFld m.leaf 12 (BitVec.ofNat 40 m.frame)) 7 (BitVec.ofNat 2 m.tier))
      (∃ t, mv 2 = .next t ∧ gone m t ∧ run t m.key (if m.n = 16 then 16 else 1) e ∧ t.core.r = s.core.r ∧ SameBytes s t) ∧
      mv 4 = .next s ∧
      (∃ t, mv 5 = .next t ∧ gone m t ∧ run t m.key (if m.n = 16 then 16 else 1) e ∧ t.core.r = s.core.r ∧
        ∀ j, s.job (frame.toNat % 2 ^ 32) = some j → j.asid = a → t.job (frame.toNat % 2 ^ 32) = some { j with latepromo := j.latepromo + 1 })) ∧
    (∀ m, sp.moveOf v = some m → sp.moveDead m = true → ∀ k ∈ [2#3, 4#3, 5#3], ∃ t, mv k = .next t ∧ gone m t ∧ free t [(freeIx m.tier m.frame, m.n)] ∧
      (t.space a).ptes = sp.ptes ∧ t.core.r = s.core.r ∧ SameBytes s t) ∧
    (sp.moveOf v = none → ∀ k ∈ [1#3, 2#3, 4#3, 5#3], mv k = .next s) ∧
    (sp.leaf none v = none → mv 3 = .next s) ∧
    (∀ e bits, sp.leaf none v = some (e, bits) → ∃ t, mv 3 = .next t ∧ (∀ f, f ∈ t.faults ↔ f ∈ s.faults ∧ ¬ (f.asid = a ∧ f.va / 2 ^ bits = v / 2 ^ bits)) ∧
      t.spaces = s.spaces ∧ t.core.r = s.core.r ∧ SameBytes s t)

/-- DRAIN_RECLAIM destroys the one object that it may take, which has pages of the die's tier, while the tier's free pages are below the mark, and
comes again 200 cycles later (one victim at a time: log 33); at the mark, or with nothing to take, it stops. -/
def Sys2Proof.Stmt.Reclaim : Prop :=
  ∀ (s : State) (die : BitVec 1) (tier : BitVec 2),
    let k := 3 * die.toNat + tier.toNat
    let lo := s.freeLo.toList.getD k 0
    let hi := max lo (s.freeHi.toList.getD k 0)
    let free := s.freePages.toList.getD k 0
    let others := s.drains.filter (fun x => x.2 != (die.toNat, tier.toNat))
    ((lo = 0 ∨ hi ≤ free ∨ s.eligible (some die.toNat) tier.toNat = []) → exec (.drainReclaim die tier) s = .next { s with drains := others }) ∧
    (∀ a oid o, lo ≠ 0 → free < hi → s.eligible (some die.toNat) tier.toNat = [(a, oid, o)] → (s.space a).objs.get {} oid = o →
      Sparse.wf {} (s.space a).objs = true → ∃ t, exec (.drainReclaim die tier) s = .next t ∧ (s.cycle + 200, die.toNat, tier.toNat) ∈ t.drains ∧
        (t.space a).objs.get {} oid = { o with state := 2, gen := o.gen + 1 } ∧ t.core.r = s.core.r ∧ SameBytes s t)

/-- Shogiwald's changes of an entry: FAULT_SETTLE and TRANSLATION_CHANGE write the entry where the walk for the address meets it, with W
clear on a page of a shared COW object, and no other entry of the table but the pointers that reach it. A settlement takes the faults on
its pages away. A change that does more than grant, and one that sets W in a page of a COW object (R352), keeps the entry that was valid
before it, with one marker for every core of the space, and is not made while a reserved target lies on its pages. No register and no
byte of memory changes. FAULT_DECLARE answers the faults that are recorded on the page, of whatever size: each access they serve is
told, in its core, that the page is invalid; a store that waits in the sump waits for its report; and the page's faults are gone. A page
of a COW object with W clear is declared a COW while STRONG is above 1, whatever is asked (log 13, DEDUCED from R352), unless a walk for
it meets an uncorrectable word; with STRONG 1 its entry gets W by a change, and the faults are settled. With no such fault, or asked for
a COW on another page, nothing changes. The steps of a page's move: W cleared in its entries, with the old leaf remembered; its bytes
copied and every other byte left; the new leaf written in every entry, with FRAME and TIER changed and W as the COW rule has it; the
faults on the page settled; or, once its object is FREE or GONE, the move given up and the new frame's pages free. A page that moves
already, or holds a reserved target, begins no move. The late promotion of a layer counts in its job. The copy waits for the markers of
the first step (R355, R347), and the new leaf for the copy and for the release of targets reserved in the page (R357). DRAIN_RECLAIM
destroys the one object that it may take, which has pages of the die's tier, while the tier's free pages are below the mark, and comes
again 200 cycles later (one victim at a time: log 33); at the mark, or with nothing to take, it stops. -/
def Obligations.TranslationChanges : Prop :=
  Sys2Proof.Stmt.EntryChanges ∧ Sys2Proof.Stmt.FaultDeclarations ∧ Sys2Proof.Stmt.PageMoves ∧ Sys2Proof.Stmt.Reclaim

/-- LAUNCH_RECORD_TAKEN: the next record of a valid host queue is read, its STATUS word written, with REASON or the job's number, and the
queue's tail rises by 1; a record that nothing refuses becomes a job with the record's fields, its number the next in order of acceptance (log 29). An empty or stopped queue is left alone. A
record that a job posted leaves its list. -/
def Obligations.LaunchRecordTaken : Prop :=
  ∀ (s : State) (q : BitVec 32),
    let k := q.toNat % 64
    let l := s.host.queues.get {} k
    let ready : Prop := l.cfg.getLsbD 63 = true ∧ l.cfg.getLsbD 62 = false ∧ l.tail ≠ l.head
    let o := l.base.toNat + 64 * (l.tail.toNat % 2 ^ (l.cfg.extractLsb' 0 16).toNat)
    let b : List Byte := (List.range 8).flatMap (fun i => leBytes 8 (s.host.bar2.get 0 (o / 8 + i)).toNat)
    let asid := (l.cfg.extractLsb' 20 16).toNat
    let why := s.launchReason asid b (l.cfg.extractLsb' 16 3).toNat (l.cfg.getLsbD 19)
    (¬ ready → exec (.launchRecordTaken true q) s = .next s) ∧
    (ready → s.host.old = [] → ∃ t, exec (.launchRecordTaken true q) s = .next t ∧
      (t.host.queues.get {} k) = { l with tail := l.tail + 1 } ∧ t.host.jseq = s.host.jseq + 1 ∧
      t.host.bar2.get 0 (o / 8) = BitVec.ofNat 64 (if why = 0 then s.jobs.length * 2 ^ 32 + 1 else why * 256 + 2) ∧
      (why ≠ 0 → t.jobs = s.jobs ∧ t.mem = s.mem) ∧
      (why = 0 → t.jobs = s.jobs ++ [(s.jobs.length, jobOf asid b (some k) (some s.host.jseq))]) ∧ t.core.r = s.core.r) ∧
    (∀ j, s.job q.toNat = some j → j.posted = [] → exec (.launchRecordTaken false q) s = .next s) ∧
    (s.job q.toNat = none → exec (.launchRecordTaken false q) s = .next s) ∧
    (∀ j va cls r c, s.job q.toNat = some j → j.posted = (va, cls) :: r → s.readVa j.asid va 64 = some c →
      let why := s.launchReason j.asid c cls false
      ∃ t, exec (.launchRecordTaken false q) s = .next t ∧ t.host.jseq = s.host.jseq + 1 ∧
        (why = 0 → t.jobs.length = s.jobs.length + 1) ∧ (why ≠ 0 → t.jobs.length = s.jobs.length) ∧ t.core.r = s.core.r)

/-- Dispatch: BIND_RECORD_READY makes a record READY unless one stands READY, RUNNING or HALTING there, or the job's wells or the saved task do
not suit, the fields that dispatch writes as they were and every other bit as written; DISPATCH_BIND of a record whose cores are free makes
it RUNNING and starts its task on them, at the kernel's entry, with X1 TASK, X2 ARGVA, X3 NTASKS, every other X register 0, KSTAT from the
record, and the first bundle 3000 cycles later at the earliest; else it asks the lower tasks on those cores to halt. PREEMPT_WRITE asks a
RUNNING record's cores to halt within 64 or 256 cycles; BIND_RECORD_END ends a READY or SAVED record, and asks the cores of a RUNNING
one to stop at their next bundle boundary. That a record in a well the job does not allow, or of a saved task of another GSIZE or kind, is left
alone is log 42's choice, and that GPOS follows the cores' numbers log 29's. -/
def Obligations.DispatchAndBinding : Prop :=
  ∀ (s : State) (die : BitVec 1) (ix : BitVec 8) (rec : BitVec 512),
    let d := die.toNat
    let k := ix.toNat
    let r := s.record d k
    let st := recState r
    let own (b : Nat) : Prop := b = 33 ∨ (264 ≤ b ∧ b < 320) ∨ (384 ≤ b ∧ b < 400) ∨ (448 ≤ b ∧ b < 512)
    let refused : Prop := s.wellAllowed d rec = false ∨ (st = 4 ∧ (recGsize rec ≠ recGsize r ∨ recProt rec ≠ recProt r))
    let reach := if d = 0 then 64 else 256
    let asked (c c' : Core) (far : Nat) : Prop := ∃ n, c'.task.preempt = some n ∧ (∀ m, c.task.preempt = some m → n = m) ∧
      (c.task.preempt = none → s.cycle < n ∧ n ≤ s.cycle + far)
    ((st = 1 ∨ st = 2 ∨ st = 3 ∨ 8 ≤ st) ∨ refused → exec (.bindRecordReady die ix rec) s = .next s) ∧
    ((st = 0 ∨ st = 4 ∨ st = 5 ∨ st = 6 ∨ st = 7) → ¬ refused → ∃ t, exec (.bindRecordReady die ix rec) s = .next t ∧ recState (t.record d k) = 1 ∧
      (∀ b : Nat, 4 ≤ b → (t.record d k).getLsbD b = if own b then r.getLsbD b else rec.getLsbD b) ∧ t.core = s.core ∧ SameBytes s t) ∧
    (∀ kd, s.bindable d k = true → s.kernelOf r = some kd → recRes r = false → recProt r = false →
      ∃ t, exec (.dispatchBind die ix) s = .next t ∧ recState (t.record d k) = 2 ∧ SameBytes s t ∧
        ∀ g i : Nat, (recCores d r)[g]? = some i →
          let c := t.coreAt i
          c.task.phase = .starting ∧ c.task.gpos = g ∧ c.task.job = recJob r ∧ c.task.task = recTask r ∧ c.task.asid = recAsid r ∧
          c.pc = BitVec.ofNat 47 (kd.text + kd.entry) ∧ c.x 1 = BitVec.ofNat 64 (recTask r) ∧ c.x 2 = BitVec.ofNat 64 (recArg r) ∧
          c.x 3 = BitVec.ofNat 64 (recNtasks r) ∧ (∀ j : XReg, 3 < j.toNat → c.x j = 0) ∧ c.tiles = [] ∧ c.sp = [] ∧ c.flight = [] ∧
          c.r.kstat = kstatOf r false kd.skip ∧ c.r.excmask = BitVec.ofNat 64 kd.excmask &&& 0x1F1F ∧ c.r.l1cfg = kd.l1cfg ∧
          c.r.freegr = 16384 - 1024 * kd.l1cfg ∧ s.cycle + 3000 ≤ c.iss.ready) ∧
    (s.bindable d k = false → s.victimsOf d k = [] → exec (.dispatchBind die ix) s = .next s) ∧
    (∀ w, s.bindable d k = false → s.victimsOf d k = [w] → recState (s.record d w) = 2 → ∃ t, exec (.dispatchBind die ix) s = .next t ∧ recState (t.record d w) = 3 ∧
      recPreempt (t.record d w) = true ∧ SameBytes s t ∧
      ∀ i ∈ recCores d (s.record d w), asked (s.coreAt i) (t.coreAt i) 64 ∧ (t.coreAt i).r = (s.coreAt i).r) ∧
    (st ≠ 2 → exec (.preemptWrite die ix) s = .next s) ∧
    (st = 2 → recDet r = false → ∃ t, exec (.preemptWrite die ix) s = .next t ∧ recState (t.record d k) = 3 ∧ recPreempt (t.record d k) = true ∧
      SameBytes s t ∧ ∀ i ∈ recCores d r, asked (s.coreAt i) (t.coreAt i) reach ∧ (t.coreAt i).r = (s.coreAt i).r) ∧
    ((st = 0 ∨ 5 ≤ st) → exec (.bindRecordEnd die ix) s = .next s) ∧
    ((st = 1 ∨ st = 4) → ∃ t, exec (.bindRecordEnd die ix) s = .next t ∧ recState (t.record d k) = 7 ∧ fldN (t.record d k) 264 8 = 0xF0) ∧
    ((st = 2 ∨ st = 3) → ∃ t, exec (.bindRecordEnd die ix) s = .next t ∧ SameBytes s t ∧ ∀ i ∈ recCores d r,
      let c := s.coreAt i
      (t.coreAt i).task.ended = true ∧ (t.coreAt i).r = c.r ∧ ((∃ x, c.task.phase = .saving x) → (t.coreAt i).task.phase = .killed) ∧
      (c.task.phase = .starting ∨ c.task.phase = .running → asked c (t.coreAt i) reach))

/-- Halting, saving and ending: the request that arrives makes a running task halt; a quiescent core's context is written in 5120 cycles (the model's reading of R399 and R400, log 28), and then
the record of a task of one core is SAVED, with RES set, and the core free; HALT_COMPLETE makes the record of a task of one core
DONE with the pc of HALT, or FAILED with the cause and the pc of the trap, or ENDED where Shogiwald ended it; a stroke ends at its length. With nothing due nothing
changes. -/
def Obligations.HaltSaveAndEnd : Prop :=
  ∀ (s : State),
    let t := s.core.task
    (t.preempt = none → exec .preemptArrival s = .next s) ∧
    (∀ d, t.preempt = some d →
      (s.cycle < d → exec .preemptArrival s = .next s) ∧
      (d ≤ s.cycle → exec .preemptArrival s = .next { s with core := { s.core with task :=
        if t.phase = .starting ∨ t.phase = .running then { t with preempt := none, phase := .halting t.requested, haltSeq := s.core.iss.seq, haltAt := s.cycle }
        else { t with preempt := none } } })) ∧
    ((∀ x, t.phase ≠ .saving x) → exec .contextSave s = .next s) ∧
    (∀ x, t.phase = .saving x → t.saveAt = none → exec .contextSave s = .next (if s.core.quiescent then
      { s with core := { s.core with task := { t with saveAt := some (s.cycle + 5120) } } } else s)) ∧
    (∀ x d, t.phase = .saving x → t.saveAt = some d → (s.cycle < d → exec .contextSave s = .next s) ∧
      (d ≤ s.cycle → s.taskCores = [s.cid] → ∃ u, exec .contextSave s = .next u ∧ recState (u.record t.die t.recIx) = 4 ∧
        recRes (u.record t.die t.recIx) = true ∧ recPreempt (u.record t.die t.recIx) = false ∧ u.core.task.phase = .idle ∧
        ∃ e ∈ u.saves, e.1 = (t.asid, recCtx (s.record t.die t.recIx)) ∧ e.2.r = s.core.r ∧ e.2.pc = s.core.pc ∧ e.2.ports = s.core.ports)) ∧
    (s.taskOver = false → exec .haltComplete s = .next s) ∧
    (∀ f cause pc dbl, s.taskOver = true → s.taskCores = [s.cid] → t.phase = .ending f cause pc dbl → t.ended = false →
      (f = false → s.core.lateCause = none) → cause < 256 →
      ∃ u, exec .haltComplete s = .next u ∧ (f = false → u.core.task.phase = .idle) ∧
        let r := u.record t.die t.recIx
        recState r = (if f then 6 else 5) ∧ fldN r 264 8 = (if f then cause else 0) ∧ fldN r 273 47 = pc.toNat ∧ r.getLsbD 272 = (f && dbl)) ∧
    (s.taskOver = true → s.taskCores = [s.cid] → t.ended = true → ∃ u, exec .haltComplete s = .next u ∧
      recState (u.record t.die t.recIx) = 7 ∧ fldN (u.record t.die t.recIx) 264 8 = 0xF0) ∧
    exec .strokeBoundary s = .next (if s.stklen ≤ s.strokePos then { s with stroke := s.stroke + 1, strokePos := s.strokePos - s.stklen } else s)

/-! ### The host -/

namespace Sys2Proof.Stmt

/-- A mailbox command that was accepted as the next of the journal has ended with a result: MBXSTAT holds it, with the command's
sequence number and BUSY 0. -/
def Responded (s t : State) (result : Nat) : Prop :=
  t.host.mbxstat = BitVec.ofNat 64 (s.host.jseq % 2 ^ 48 * 2 ^ 16 + result * 2 ^ 8)

/-- The command's journal entry: its opcode, its result as CAUSE, its sequence number, and a state; JSEQ has risen by 1. -/
def Journalled (s t : State) (op result st : Nat) : Prop :=
  t.host.jseq = s.host.jseq + 1 ∧
  let e := t.host.journal.get 0 (s.host.jseq % 65536)
  (e.extractLsb' 0 3).toNat = st ∧ (e.extractLsb' 16 48).toNat = s.host.jseq % 2 ^ 48 ∧ (e.extractLsb' 96 8).toNat = result ∧
  (e.extractLsb' 104 8).toNat = op ∧ (e.extractLsb' 112 8).toNat = 0

/-- A refused command: BUSY 0, result 1, nothing journalled, and nothing but the mailbox registers changed. -/
def Refused (s t : State) : Prop :=
  t.host.mbxstat.getLsbD 0 = false ∧ (t.host.mbxstat.extractLsb' 8 8).toNat = 1 ∧
  t = { s with free := t.free, host := { s.host with mbxcmd := t.host.mbxcmd, mbxrsp := t.host.mbxrsp, mbxstat := t.host.mbxstat } }

/-- Nothing but the host function's registers and the free counter has changed. -/
def HostOnly (s t : State) : Prop := t = { s with free := t.free, host := t.host }

end Sys2Proof.Stmt

/-- The mailbox: while READY is 0 a command has no effect, while BUSY is 1 its doorbell is discarded. Else ASCREATE makes an empty space with
an unused ASID, which MBXRSP holds; ASDESTROY releases a space, and is refused while a job runs in it; LOAD leaves what the loader
gives, or fails with nothing changed; QCREATE makes a queue VALID with both counts 0, and is refused on a VALID one; QDESTROY ends its
validity; ATTEST leaves a report with the nonce, the measurements and the serial (its layout is log 35's); JOBEND of a job without records ends every task, and fails for one that is not there
or is done. Each answers with its result and is journalled as DONE or FAILED; a refused one is not journalled. What QCREATE refuses, where the answers stand, that
QDESTROY keeps the counts, and the journal's treatment of a refusal are the model's choices (log 35). -/
def Sys2Proof.Stmt.MailboxCommands1 : Prop :=
  ∀ (s : State) (asid dst attr : BitVec 16) (va len : BitVec 48) (kind : BitVec 8) (bus : BitVec 52) (q : BitVec 6) (log : BitVec 5) (cls : BitVec 3)
    (res : Bool) (base : BitVec 26) (nonce : BitVec 256) (job : BitVec 32) (drive : BitVec 1) (lba : BitVec 64) (oid page cnt : BitVec 32),
    let ready := s.host.status.getLsbD 0
    let busy := s.host.mbxstat.getLsbD 0
    let a := asid.toNat
    let l := s.host.queues.get {} q.toNat
    let n := log.toNat
    let running : Prop := ∃ e ∈ s.jobs, e.2.asid = a ∧ e.2.done = false
    let all : List Instr := [.ascreate, .asdestroy asid, .load asid va len dst, .map kind asid va len bus attr, .qcreate q log cls res asid base,
      .qdestroy q, .drvread drive lba asid oid page cnt, .drvwrite drive lba asid oid page cnt, .attest nonce, .jobend job]
    (ready = false → ∀ i ∈ all, exec i s = .next s) ∧
    (ready = true → busy = true → ∀ i ∈ all, ∃ c, exec i s = .next { s with host := { s.host with mbxcmd := c } }) ∧
    (ready = true → busy = false →
      (s.spaces.length < 65536 → ∃ t k, exec .ascreate s = .next t ∧ Responded s t 0 ∧ Journalled s t 1 0 3 ∧ k < 65536 ∧ (∀ e ∈ s.spaces, e.1 ≠ k) ∧
        t.spaces = s.spaces ++ [(k, ({ } : Space))] ∧ t.host.mbxrsp.extractLsb' 0 16 = BitVec.ofNat 16 k ∧ t.core = s.core ∧ SameBytes s t) ∧
      (running → ∃ t, exec (.asdestroy asid) s = .next t ∧ Refused s t) ∧
      (¬ running → (∃ x, (a, x) ∈ s.spaces) → ∃ t, exec (.asdestroy asid) s = .next t ∧ Responded s t 0 ∧ Journalled s t 2 0 3 ∧
        t.spaces = s.spaces.filter (fun e => e.1 != a) ∧ (∀ f ∈ t.faults, f.asid ≠ a) ∧ t.core = s.core ∧ SameBytes s t) ∧
      (¬ running → (∀ e ∈ s.spaces, e.1 ≠ a) → ∃ t, exec (.asdestroy asid) s = .next t ∧ Responded s t 2 ∧ Journalled s t 2 2 4 ∧ HostOnly s t) ∧
      (∃ t u, exec (.load asid va len dst) s = .next t ∧ HostOnly s u ∧
        let file := if s.hasSpace dst.toNat = true then s.readVa a va.toNat len.toNat else none
        (file = none → Responded s t 2 ∧ Journalled s t 3 2 4 ∧ HostOnly s t) ∧
        (∀ b, file = some b → u.loadTof dst.toNat b = none → Responded s t 2 ∧ Journalled s t 3 2 4 ∧ HostOnly s t) ∧
        (∀ b v, file = some b → u.loadTof dst.toNat b = some v → Responded s t 0 ∧ t.spaces = v.spaces ∧ t.mem = v.mem ∧ t.core = v.core)) ∧
      (let fits : Prop := 4 ≤ n ∧ n ≤ 16 ∧ base.toNat % 64 = 0 ∧ base.toNat + 64 * 2 ^ n ≤ 0x03E00000 ∧ (res = true → s.jobs = []) ∧ ∃ x, (a, x) ∈ s.spaces;
        (¬ (l.cfg.getLsbD 63 = false ∧ fits) → ∃ t, exec (.qcreate q log cls res asid base) s = .next t ∧ Refused s t) ∧
        (l.cfg.getLsbD 63 = false → fits → ∃ t, exec (.qcreate q log cls res asid base) s = .next t ∧ Responded s t 0 ∧ Journalled s t 5 0 3 ∧ HostOnly s t ∧
          let m := t.host.queues.get {} q.toNat
          m.base = base.setWidth 64 ∧ m.head = 0 ∧ m.tail = 0 ∧ m.cfg.getLsbD 63 = true ∧ m.cfg.getLsbD 62 = false ∧ m.cfg.extractLsb' 20 16 = asid ∧
          m.cfg.getLsbD 19 = res ∧ m.cfg.extractLsb' 16 3 = cls ∧ (m.cfg.extractLsb' 0 16).toNat = n ∧
          (∀ k : Nat, k ≠ q.toNat → t.host.queues.get {} k = s.host.queues.get {} k))) ∧
      (l.cfg.getLsbD 63 = false → ∃ t, exec (.qdestroy q) s = .next t ∧ Refused s t) ∧
      (l.cfg.getLsbD 63 = true → Sparse.wf {} s.host.queues = true → ∃ t, exec (.qdestroy q) s = .next t ∧ Responded s t 0 ∧ Journalled s t 6 0 3 ∧ HostOnly s t ∧
        let m := t.host.queues.get {} q.toNat
        m.cfg.getLsbD 63 = false ∧ m.head = l.head ∧ m.tail = l.tail ∧ (∀ k : Nat, k ≠ q.toNat → t.host.queues.get {} k = s.host.queues.get {} k)) ∧
      (Memory.wf s.mem = true → ∃ t, exec (.attest nonce) s = .next t ∧ Responded s t 0 ∧ Journalled s t 9 0 3 ∧ t.core = s.core ∧
        let p := s.nextFrame * 4096
        t.nextFrame = s.nextFrame + 2 ∧ t.host.mbxrsp.extractLsb' 0 64 = BitVec.ofNat 64 p ∧
        (∀ k : Nat, k < 32 → t.readByte (p + k) = nonce.extractLsb' (8 * k) 8) ∧
        (∀ m k : Nat, m < 3 → k < 64 → t.readByte (p + 32 + 64 * m + k) = BitVec.ofNat 8 (Config.measurement m / 2 ^ (8 * k))) ∧
        (∀ k : Nat, k < 16 → t.readByte (p + 224 + k) = BitVec.ofNat 8 (Config.serial / 2 ^ (8 * k))) ∧
        (∀ b : Nat, ¬ (p ≤ b ∧ b < p + 8192) → t.readByte b = s.readByte b)) ∧
      ((s.job job.toNat = none ∨ ∃ x, s.job job.toNat = some x ∧ x.done = true) → ∃ t, exec (.jobend job) s = .next t ∧ Responded s t 2 ∧ Journalled s t 10 2 4 ∧ HostOnly s t) ∧
      (∀ x, s.job job.toNat = some x → x.done = false → s.recordsOf job.toNat = [] → ∃ t y, exec (.jobend job) s = .next t ∧ Responded s t 0 ∧
        t.job job.toNat = some y ∧ (∀ k : Nat, k < x.ntasks → k ∈ y.ended)))

/-- MAP, an accepted command on whole pages of a space: kind 0 makes a deferred page's entry valid and leaves a valid one; kind 1 maps host
pages, each by a valid leaf of tier 2 with the bus page and the attributes; kind 2 puts the BAR4 window onto the range; kind 3 supplies host
pages to the host tier, whose free count rises by them. A range that does not begin at a page, or leaves the space, host pages that are
supplied already, and an unknown kind are refused; kind 1 fails where a page that it would unmap holds a reserved target. The kinds and
the attributes' bits are the model's choice (log 33). Stated of one page for kinds 0 and 1. -/
def Sys2Proof.Stmt.MappingCommand : Prop :=
  ∀ (s : State) (asid attr : BitVec 16) (va len : BitVec 48) (kind : BitVec 8) (bus : BitVec 52),
    s.host.status.getLsbD 0 = true → s.host.mbxstat.getLsbD 0 = false → (∀ u ∈ s.unc, u.2 ≠ 64) →
    let a := asid.toNat
    let v := va.toNat
    let key := (s.space a).keyFor 4 v
    let n := (len.toNat + 4095) / 4096
    let page := bus.toNat / 4096
    let fresh : Prop := bus.toNat % 4096 = 0 ∧ ∀ r ∈ s.host.bus, page + n ≤ r.1 ∨ r.1 + r.2 ≤ page
    let good : Prop := kind.toNat ≤ 3 ∧
      (kind ≠ 3 → (∃ x, (a, x) ∈ s.spaces) ∧ v % 4096 = 0 ∧ v + len.toNat ≤ 2 ^ 48) ∧
      (kind = 1 → fresh ∧ (Fmt.ofCode (attr.toNat % 32)).isSome = true ∧ attr.toNat / 32 % 4 ≤ 1) ∧
      (kind = 3 → fresh ∧ bus.toNat + len.toNat ≤ 2 ^ 52 ∧ ∀ p, page ≤ p → p < page + n → p ∉ s.hostUsed)
    let held : Prop := kind = 1 ∧ ∃ k, k < n ∧ s.holdsPage a (v / 4096 + k) (page + k) attr.toNat = true
    let go : Out := exec (.map kind asid va len bus attr) s
    (¬ good → ∃ t, go = .next t ∧ Refused s t) ∧
    (good → held → ∃ t, go = .next t ∧ Responded s t 2 ∧ Journalled s t 4 2 4 ∧ HostOnly s t) ∧
    (good → ¬ held → ∃ t, go = .next t ∧ Responded s t 0 ∧ Journalled s t 4 0 3 ∧ t.core.r = s.core.r ∧ SameBytes s t ∧
      (kind = 3 → HostOnly { s with freePages := t.freePages } t ∧ t.host.bus = s.host.bus ++ [(page, n)] ∧
        ∀ i : Nat, t.freePages.toList.getD i 0 = s.freePages.toList.getD i 0 + if i = 2 then n else 0) ∧
      (kind = 2 → HostOnly s t ∧ t.host.bar4 = some (a, v, len.toNat)) ∧
      (kind ≠ 2 → t.host.bar4 = s.host.bar4) ∧
      (len = 4096 → kind = 0 →
        (∀ e, (s.space a).ptes.find key = some e → pteV e = false → ∃ e', (t.space a).ptes.find key = some e' ∧ pteV e' = true ∧
          ∀ b : Nat, b ≠ 0 → e'.getLsbD b = e.getLsbD b) ∧
        (∀ e, (s.space a).ptes.find key = some e → pteV e = true → HostOnly s t) ∧ ((s.space a).ptes.find key = none → HostOnly s t)) ∧
      (len = 4096 → kind = 1 → ∃ e, (t.space a).entry none key = e ∧ pteV e = true ∧ pteLeaf e = true ∧ pteTier e = 2 ∧
        pteFrame e = bus.toNat / 4096 ∧ pteFmt e = attr.toNat % 32 ∧ pteGeom e = attr.toNat / 32 % 4 ∧ pteW e = attr.getLsbD 7))

/-- The mailbox: while READY is 0 a command has no effect, while BUSY is 1 its doorbell is discarded. Else ASCREATE makes an empty space
with an unused ASID, which MBXRSP holds; ASDESTROY releases a space, and is refused while a job runs in it; LOAD leaves what the loader
gives, or fails with nothing changed; QCREATE makes a queue VALID with both counts 0, and is refused on a VALID one; QDESTROY ends its
validity; ATTEST leaves a report with the nonce, the measurements and the serial (its layout is log 35's); JOBEND of a job without
records ends every task, and fails for one that is not there or is done. Each answers with its result and is journalled as DONE or
FAILED; a refused one is not journalled. What QCREATE refuses, where the answers stand, that QDESTROY keeps the counts, and the
journal's treatment of a refusal are the model's choices (log 35). MAP, an accepted command on whole pages of a space: kind 0 makes a
deferred page's entry valid and leaves a valid one; kind 1 maps host pages, each by a valid leaf of tier 2 with the bus page and the
attributes; kind 2 puts the BAR4 window onto the range; kind 3 supplies host pages to the host tier, whose free count rises by them. A
range that does not begin at a page, or leaves the space, host pages that are supplied already, and an unknown kind are refused; kind 1
fails where a page that it would unmap holds a reserved target. The kinds and the attributes' bits are the model's choice (log 33).
Stated of one page for kinds 0 and 1. -/
def Obligations.MailboxCommands : Prop :=
  Sys2Proof.Stmt.MailboxCommands1 ∧ Sys2Proof.Stmt.MappingCommand

/-- The drives and the doorbell. DRVREAD and DRVWRITE of pages of a LIVE object leave the command waiting, BUSY, as ACCEPTED, and of other
pages are refused; DRIVE_COMPLETION of a read writes the drive's bytes to the pages and no other byte and ends the command, as FAILED
after an error, when the extent's bytes are free; of a write it only ends it. MBXDB with 1 runs the command that MBXCMD holds; an unknown
opcode, or a byte of 1 to 7 that is not 0, is refused; any other value is ignored. A read that finds a page not mapped ends as FAILED (log
35); at which bytes of MBXCMD the operands stand, and how wide they are, is presumed (log 10). -/
def Obligations.DrivesAndDoorbell : Prop :=
  (∀ (s : State) (drive : BitVec 1) (lba : BitVec 64) (asid : BitVec 16) (oid page cnt : BitVec 32),
    s.host.status.getLsbD 0 = true → s.host.mbxstat.getLsbD 0 = false →
    let o := (s.space asid.toNat).objs.get ({} : Obj) oid.toNat
    let good : Prop := o.state = 1 ∧ page.toNat + cnt.toNat ≤ o.pages
    ∀ x ∈ [(true, 7, Instr.drvread drive lba asid oid page cnt), (false, 8, .drvwrite drive lba asid oid page cnt)],
      (¬ good → ∃ t, exec x.2.2 s = .next t ∧ Refused s t) ∧
      (good → ∃ t, exec x.2.2 s = .next t ∧ HostOnly s t ∧ Journalled s t x.2.1 0 0 ∧ t.host.mbxstat.getLsbD 0 = true ∧
        t.host.drive = some (x.1, s.host.jseq, asid.toNat, oid.toNat, page.toNat, cnt.toNat))) ∧
  (∀ (s : State) (ok : Bool) (data : List (BitVec 8)), s.host.drive = none → exec (.driveCompletion ok data) s = .next s) ∧
  (∀ (s : State) (ok : Bool) (data : List (BitVec 8)) (rd : Bool) (seq asid oid page cnt p : Nat), s.host.drive = some (rd, seq, asid, oid, page, cnt) →
    Memory.wf s.mem = true → s.unc = [] →
    let e := s.host.journal.get 0 (seq % 65536)
    let va := ((s.space asid).objs.get ({} : Obj) oid).base + page * 4096
    let x := (s.space asid).xlat none va (cnt * 4096) false
    let good : Bool := ok && (!rd || match x with | .ok _ _ _ => true | .fault _ => false)
    ∃ t, exec (.driveCompletion ok data) s = .next t ∧ t.host.drive = none ∧ t.core = s.core ∧
      t.host.mbxstat = BitVec.ofNat 64 (seq % 2 ^ 48 * 2 ^ 16 + (if good then 0 else 2) * 2 ^ 8) ∧
      (e.extractLsb' 16 48 = BitVec.ofNat 48 seq → ((t.host.journal.get 0 (seq % 65536)).extractLsb' 0 3).toNat = if good then 3 else 4) ∧
      (rd = false → SameBytes s t) ∧
      (rd = true → cnt = 1 → va % 4096 = 0 → ∀ b q, x = .ok [(p, 4096)] b q → (s.space asid).copyOf va 4096 = [] →
        (∀ b : Nat, ¬ (p ≤ b ∧ b < p + 4096) → t.readByte b = s.readByte b) ∧
        (ok = true → ∀ k : Nat, k < 4096 → k < data.length → t.readByte (p + k) = data.getD k 0))) ∧
  (∀ (s : State) (v : BitVec 64),
    let c := s.host.mbxcmd
    let on : Prop := v = 1 ∧ s.host.status.getLsbD 0 = true ∧ s.host.mbxstat.getLsbD 0 = false
    let f (o n : Nat) : Nat := (c.extractLsb' (8 * o) (8 * n)).toNat
    let b (w o n : Nat) : BitVec w := BitVec.ofNat w (f o n)
    (¬ on → exec (.mbxdb v) s = .next s) ∧
    (on → (f 1 7 ≠ 0 ∨ f 0 1 = 0 ∨ 10 < f 0 1) → ∃ t, exec (.mbxdb v) s = .next t ∧ Refused s t) ∧
    (on → f 1 7 = 0 →
      (f 0 1 = 1 → exec (.mbxdb v) s = exec .ascreate s) ∧ (f 0 1 = 2 → exec (.mbxdb v) s = exec (.asdestroy (b 16 8 2)) s) ∧
      (f 0 1 = 3 → exec (.mbxdb v) s = exec (.load (b 16 8 2) (b 48 10 6) (b 48 16 6) (b 16 22 2)) s) ∧
      (f 0 1 = 4 → f 23 7 < 2 ^ 52 → exec (.mbxdb v) s = exec (.map (b 8 8 1) (b 16 9 2) (b 48 11 6) (b 48 17 6) (b 52 23 7) (b 16 30 2)) s) ∧
      (f 0 1 = 5 → f 8 1 < 64 → f 9 1 < 32 → f 10 1 < 8 → f 11 1 < 2 → f 14 4 < 2 ^ 26 →
        exec (.mbxdb v) s = exec (.qcreate (b 6 8 1) (b 5 9 1) (b 3 10 1) (f 11 1 == 1) (b 16 12 2) (b 26 14 4)) s) ∧
      (f 0 1 = 6 → f 8 1 < 64 → exec (.mbxdb v) s = exec (.qdestroy (b 6 8 1)) s) ∧
      (f 0 1 = 7 → f 8 1 < 2 → exec (.mbxdb v) s = exec (.drvread (b 1 8 1) (b 64 9 8) (b 16 17 2) (b 32 19 4) (b 32 23 4) (b 32 27 4)) s) ∧
      (f 0 1 = 8 → f 8 1 < 2 → exec (.mbxdb v) s = exec (.drvwrite (b 1 8 1) (b 64 9 8) (b 16 17 2) (b 32 19 4) (b 32 23 4) (b 32 27 4)) s) ∧
      (f 0 1 = 9 → exec (.mbxdb v) s = exec (.attest (b 256 8 32)) s) ∧ (f 0 1 = 10 → exec (.mbxdb v) s = exec (.jobend (b 32 8 4)) s)))

/-- What the host writes and reads of itself: in BAR0 the registers of 20 Table 2, zero at other offsets, where it writes a word of
MBXCMD, while READY, the doorbell and QHEAD, and nothing else; QHEAD, which sets ERR where the count is below the tail or more
than the ring above it; a word of BAR2 below the journal, remembered as it was where it lies in a published record; eight bytes of
device memory through the window, to a range that is mapped and, for a write, writable (log 35), else all ones are read and nothing is
written. -/
def Obligations.HostAccesses : Prop :=
  ∀ (s : State),
    let ready := s.host.status.getLsbD 0
    (∀ (off : BitVec 16) (v : BitVec 64),
      let o := off.toNat
      let at_ : Prop := 0x1000 ≤ o ∧ o < 0x1040 ∧ o % 8 = 0
      (o = 0x1040 → exec (.barRegisterWrite off v) s = exec (.mbxdb v) s) ∧
      (∀ q : BitVec 6, o = 0x2010 + 32 * q.toNat → exec (.barRegisterWrite off v) s = exec (.qhead q v) s) ∧
      (ready = false ∨ ¬ (at_ ∨ o = 0x1040 ∨ ∃ q : BitVec 6, o = 0x2010 + 32 * q.toNat) → exec (.barRegisterWrite off v) s = .next s) ∧
      (s.bar0Read 0 = s.host.status ∧ s.bar0Read 8 = BitVec.ofNat 64 s.host.jseq ∧ s.bar0Read 0x10C0 = s.host.mbxstat ∧ s.bar0Read 0x1040 = 0) ∧
      (∀ k : Nat, k < 8 → s.bar0Read (0x1000 + 8 * k) = s.host.mbxcmd.extractLsb' (64 * k) 64 ∧ s.bar0Read (0x1080 + 8 * k) = s.host.mbxrsp.extractLsb' (64 * k) 64) ∧
      (∀ q : Nat, q < 64 → let l := s.host.queues.get {} q
        s.bar0Read (0x2000 + 32 * q) = l.base ∧ s.bar0Read (0x2008 + 32 * q) = l.cfg ∧ s.bar0Read (0x2010 + 32 * q) = l.head ∧ s.bar0Read (0x2018 + 32 * q) = l.tail) ∧
      (∀ k : Nat, 8 < k → ¬ (0x1000 ≤ k ∧ k < 0x1040) → ¬ (0x1080 ≤ k ∧ k ≤ 0x10C0) → ¬ (0x2000 ≤ k ∧ k < 0x2800) → s.bar0Read k = 0) ∧
      (ready = true → at_ → ∃ c : BitVec 512, exec (.barRegisterWrite off v) s = .next { s with host := { s.host with mbxcmd := c } } ∧
        ∀ k : Nat, k < 8 → c.extractLsb' (64 * k) 64 = if 0x1000 + 8 * k = off.toNat then v else s.host.mbxcmd.extractLsb' (64 * k) 64)) ∧
    (∀ (q : BitVec 6) (v : BitVec 64), Sparse.wf {} s.host.queues = true →
      let l := s.host.queues.get {} q.toNat
      let bad : Prop := l.cfg.getLsbD 63 = true ∧ 2 ^ (l.cfg.extractLsb' 0 16).toNat < (v - l.tail).toNat
      (ready = false → exec (.qhead q v) s = .next s) ∧
      (ready = true → ∃ t, exec (.qhead q v) s = .next t ∧ HostOnly s t ∧
        let m := t.host.queues.get {} q.toNat
        m.head = v ∧ m.tail = l.tail ∧ m.base = l.base ∧ (m.cfg.getLsbD 62 = true ↔ bad ∨ l.cfg.getLsbD 62 = true) ∧
        (∀ b : Nat, b ≠ 62 → m.cfg.getLsbD b = l.cfg.getLsbD b) ∧ (∀ k : Nat, k ≠ q.toNat → t.host.queues.get {} k = s.host.queues.get {} k))) ∧
    (∀ (off : BitVec 26) (v : BitVec 64), Sparse.wf 0 s.host.bar2 = true →
      let k := off.toNat / 8
      (0x03E00000 ≤ off.toNat → exec (.launchRingWrite off v) s = .next s) ∧
      (off.toNat < 0x03E00000 → ∃ t, exec (.launchRingWrite off v) s = .next t ∧ HostOnly s t ∧
        (∀ j : Nat, t.host.bar2.get 0 j = if j = k then v else s.host.bar2.get 0 j) ∧ t.host.queues = s.host.queues ∧
        (s.published k = true → (k, s.host.bar2.get 0 k) ∈ t.host.old) ∧
        (s.published k = false → t.host.old = s.host.old.filter (fun e => e.1 != k)))) ∧
    (∀ (off : BitVec 36) (v : BitVec 64) (a va len : Nat), Memory.wf s.mem = true → s.unc = [] →
      (s.host.bar4 = none ∨ (s.host.bar4 = some (a, va, len) ∧ len < off.toNat + 8) →
        exec (.bar4Access true off v) s = .next s ∧ exec (.bar4Access false off v) s = .next { s with host := { s.host with bar4read := BitVec.allOnes 64 } }) ∧
      (s.host.bar4 = some (a, va, len) → off.toNat + 8 ≤ len →
        (∀ p b e, (s.space a).xlat none (va + off.toNat) 8 true = .ok [(p, 8)] b e → ∃ t, exec (.bar4Access true off v) s = .next t ∧ t.host = s.host ∧ t.core = s.core ∧
          ∀ x : Nat, t.readByte x = if p ≤ x ∧ x < p + 8 then v.extractLsb' (8 * (x - p)) 8 else s.readByte x) ∧
        (∀ n, (s.space a).xlat none (va + off.toNat) 8 true = .fault n → exec (.bar4Access true off v) s = .next s) ∧
        (∀ p b e, (s.space a).xlat none (va + off.toNat) 8 false = .ok [(p, 8)] b e → ∃ w : Word, exec (.bar4Access false off v) s =
          .next { s with host := { s.host with bar4read := w } } ∧ ∀ k : Nat, k < 8 → w.extractLsb' (8 * k) 8 = s.readByte (p + k)) ∧
        (∀ n, (s.space a).xlat none (va + off.toNat) 8 false = .fault n → exec (.bar4Access false off v) s =
          .next { s with host := { s.host with bar4read := BitVec.allOnes 64 } })))

/-- Resets, fabric and heat (log 36): a Function Level Reset destroys every space and queue, clears the journal and JSEQ and reads READY 0, of
a device that was ready until at most 100 ms later; a conventional reset leaves the state of reset, READY with device memory zero if no step fails, and else BOOTERR with READY 0.
A port that goes down changes which ports are down; an unreachable package, and drift, leave a package alone all of whose jobs'
tasks have ended, and else end a job or not, as a free value tells (log 3). Near the limit of heat only clocks of cores of tasks neither DET nor PROT fall, by 1 to 8
steps of 1.5 percent, not below -12 percent; past the absolute limit READY
is 0. -/
def Obligations.ResetsFabricAndHeat : Prop :=
  ∀ (s : State),
    (∃ t, exec .functionLevelReset s = .next t ∧ t.spaces = [] ∧ t.host.queues = [] ∧ t.host.journal = [] ∧ t.host.jseq = 0 ∧ t.host.bar4 = none ∧
      t.host.mbxstat = 0 ∧ t.host.status.getLsbD 0 = false ∧ (∀ b : Nat, b ≠ 0 → t.host.status.getLsbD b = s.host.status.getLsbD b) ∧
      (s.host.status.getLsbD 0 = true → ∃ d, t.host.readyAt = some d ∧ s.cycle < d ∧ d ≤ s.cycle + 225000000) ∧
      (s.host.status.getLsbD 0 = false → s.host.readyAt = none → t.host.readyAt = none)) ∧
    (∀ (e : BitVec 8) (f : Bool), ∃ t, exec (.conventionalReset e f) s = .next t ∧ t.core = Core.reset ∧ t.others = [] ∧ t.spaces = [] ∧ t.jobs = [] ∧ t.slots = [] ∧
      t.host.queues = [] ∧ t.host.journal = [] ∧ t.host.jseq = 0 ∧ (t.host.status.extractLsb' 8 8) = e ∧
      t.host.status.getLsbD 0 = decide (e = 0) ∧ t.host.status.getLsbD 1 = (decide (e = 0) && f) ∧
      (e = 0 → Memory.wf s.mem = true → ∀ a : Nat, t.readByte a = if a < 2 ^ 42 then 0 else s.readByte a)) ∧
    (∀ (p : BitVec 4), exec (.fabricPortDown p) s = .next { s with fabric := s.fabric ||| (1#16 <<< p.toNat) }) ∧
    (∀ (p : BitVec 10), (p = 0 ∨ ∀ e ∈ s.jobs, e.2.done = true ∨ e.2.ntasks ≤ e.2.ended.length) → exec (.packageUnreachable p) s = .next s) ∧
    ((∀ e ∈ s.jobs, e.2.done = true ∨ e.2.ntasks ≤ e.2.ended.length ∨ e.2.flags.testBit 0 = false) → exec .strokeDrift s = .next s) ∧
    (∀ (p : BitVec 10) (j : Nat) (x : Job), s.jobs = [(j, x)] → s.spread j x = true →
      let u : State := { s with free := s.free + 1 }
      (p ≠ 0 → exec (.packageUnreachable p) s = .next u ∨ exec (.packageUnreachable p) s = .next (u.endTasks j)) ∧
      (x.flags.testBit 0 = true → exec .strokeDrift s = .next u ∨ exec .strokeDrift s = .next (u.endTasks j))) ∧
    (∀ (d : BitVec 1), (∀ e ∈ s.others, e.1 ≠ s.cid) → Sparse.wf Core.reset s.others = true →
      ∃ t n, exec (.thermalNearLimit d false) s = .next t ∧ 1 ≤ n ∧ n ≤ 8 ∧ t.therm = s.therm ||| (1#3 <<< d.toNat) ∧ SameBytes s t ∧
      ∀ i : Nat, t.coreAt i = if i ∈ s.busyCores ∧ (s.coreAt i).task.die = d.toNat ∧ (s.coreAt i).r.kstat.getLsbD 2 = false ∧ (s.coreAt i).r.kstat.getLsbD 4 = false
        then { s.coreAt i with clock := max (-8) ((s.coreAt i).clock - (n : Int)) } else s.coreAt i) ∧
    (∀ (d : BitVec 1) (k : Nat) (r : BitVec 512), s.dieRecords d.toNat = [(k, r)] → s.record d.toNat k = r → recState r = 2 → recClass r ≤ 5 → recDet r = false → s.busyCores = [] →
      ∃ t, exec (.thermalNearLimit d true) s = .next t ∧ recState (t.record d.toNat k) = 3 ∧ recPreempt (t.record d.toNat k) = true) ∧
    (∃ t, exec .thermalAbsoluteLimit s = .next t ∧ t.host.status.getLsbD 0 = false ∧ t.host.readyAt = none ∧ t.therm.getLsbD 2 = true)

/-! ### Errors and pairs -/

/-- Errors: a corrected one changes nothing, in any array that keeps one; an uncorrectable one makes its word of 16 bytes, or its burst of 64
bytes of GDDR7, or its word of a core's array or entry of its sump, read as uncorrectable; an entry of the dictionary, which carries parity, is marked, and a line
of the parcel cache or of L1 dropped; a result on its way changes one bit. The scrub reports an
uncorrectable word to Shogiwald and no requester sees it. An access that meets one is taken out of the memory unit, its address reported:
outside a pair one that returns a value traps with ABORT at its address (with a handler), a store waits in the sump as declared; no byte
of memory changes. The array code that such a trap carries for memory is a free value (log 3). The model's choices: the array codes 0 and
11 to 15, the sizes of words and how an index names a bit (log 32), and that an entry of the sump is named by its place in the order of
issue (log 15). -/
def Obligations.MemoryAndArrayErrors : Prop :=
  (∀ (s : State) (arr : BitVec 4) (core : BitVec 9) (ix : BitVec 52), Sparse.wf Core.reset s.others = true →
    let k := ix.toNat
    let i := core.toNat
    let c := s.coreAt i
    (arr.toNat ≤ 10 ∨ arr = 14 → ∃ t, exec (.softError false arr core ix) s = .next t ∧ SameBytes s t ∧ t.unc = s.unc ∧ ∀ j : Nat, t.coreAt j = s.coreAt j) ∧
    (∀ n : Nat, arr = 0 ∧ n = 16 ∨ arr = 14 ∧ n = 64 → ∃ t, exec (.softError true arr core ix) s = .next t ∧
      (∀ u, u ∈ t.unc ↔ u ∈ s.unc ∨ u = (k / n * n, n)) ∧ SameBytes s t ∧ ∀ j : Nat, t.coreAt j = s.coreAt j) ∧
    (arr = 9 → ∃ t, exec (.softError true arr core ix) s = .next t ∧ SameBytes s t ∧ t.unc = s.unc ∧ (∀ j : Nat, j ≠ i → t.coreAt j = s.coreAt j) ∧
      ∀ n : Nat, (t.coreAt i).sump[n]? = (c.sump[n]?).map (fun e => if n = k then { e with rot := some k } else e)) ∧
    (1 ≤ arr.toNat → arr.toNat ≤ 10 → arr ≠ 9 → ∃ t, exec (.softError true arr core ix) s = .next t ∧ SameBytes s t ∧
      (t.coreAt i) = { c with badWords := c.badWords.filter (fun b => b != (arr.toNat, k)) ++ [(arr.toNat, k)] } ∧ ∀ j : Nat, j ≠ i → t.coreAt j = s.coreAt j) ∧
    (∀ (unc : Bool), (arr = 11 → ∃ t, exec (.softError unc arr core ix) s = .next t ∧
        (t.coreAt i) = { c with dictBad := c.dictBad.filter (fun b => b.1 != k) ++ [(k, none)] }) ∧
      (arr = 12 → ∃ t, exec (.softError unc arr core ix) s = .next t ∧ (t.coreAt i) = { c with lines := c.lines.filter (fun l => l.1 != k) }) ∧
      (arr = 13 → ∃ t, exec (.softError unc arr core ix) s = .next t ∧ (t.coreAt i) = { c with l1 := c.l1.filter (fun l => l.1 != k) }) ∧
      (arr = 15 → ∃ t, exec (.softError unc arr core ix) s = .next t ∧ ∀ p, c.flight[k / 65536]? = some p →
        (∀ n : Nat, n ≠ k / 65536 → (t.coreAt i).flight[n]? = c.flight[n]?) ∧
        (∀ d v, p.w = .x d v → (t.coreAt i).flight[k / 65536]? = some { p with w := .x d (v ^^^ (1#64 <<< (k % 64))) }) ∧
        (∀ d v, p.w = .q d v → (t.coreAt i).flight[k / 65536]? = some { p with w := .q d !v }) ∧
        (∀ d v, p.w = .h d v → (t.coreAt i).flight[k / 65536]? = some { p with w := .h d (v ^^^ (1#256 <<< (k % 256))) })))) ∧
  (∀ (s : State) (pa : BitVec 52),
    let bad := s.unc.find? (fun u => decide (u.1 ≤ pa.toNat ∧ pa.toNat < u.1 + u.2))
    (bad = none → exec (.eccScrub pa) s = .next s) ∧ (∀ u, bad = some u → exec (.eccScrub pa) s = .next { s with notes := s.notes ++ [(1, u.1)] })) ∧
  (∀ (s : State),
    (s.nextItem = none → exec .abortCompletion s = .next s) ∧
    (∀ i u, s.nextItem = some i → s.aborts i = true → s.core.r.prot = false → s.badWord i.phys = some u →
      ∃ t, exec .abortCompletion s = .next t ∧ t.notes = s.notes ++ [(1, u.1)] ∧ SameBytes s t ∧ i ∉ t.core.mu ∧
        (i.returns = false → (∃ e ∈ t.core.sump, e.seq = i.seq ∧ (∃ code, e.bad = some (0x04, code)) ∧ e.va = i.va ∧ e.cls = i.cls ∧ e.width = i.width ∧ e.data = i.data) ∧ t.core.r = s.core.r) ∧
        (∀ h, i.returns = true → Handles s.core h → ∃ k : Trap, k.code = 0x04 ∧ k.slot = 0 ∧ k.addr = BitVec.ofNat 64 i.va ∧
          TrapTaken s t k (if s.core.wl.active then s.core.wl.runIx else i.pcv.setWidth 47) h)))

/-- A pair: outside one nothing is compared. The signatures of leader cycle now - 3 and checker cycle now - 1 are compared: where they agree and no
event waits, only what has been compared leaves. Where they differ, and the segment that is open on both cores can be rewound on
both, both go back to their checkpoints: program counter, registers (but SEGCOUNT and CYCLES; RWCOUNT rises by 1), tiles, rows,
ports, tree and patterns; results in flight, traps' captures and queued routines are discarded; the leader issues again 32 + 2n
cycles later, n its row records, the checker 2 after it. Where they differ and it cannot, the task fails with CAUSE 0xF1. Where the
checker has still to open the segment that its leader has open, the rewind waits for it (the model's reading, log 31). REWIND_REISSUE
lets a rewound leader go on at that time, once the released pump commands of the pair have completed, with the checkpoint's results
counted from there, and its checker 2 cycles later. -/
def Obligations.PairsCompareAndRewind : Prop :=
  ∀ (s : State), s.cid % 2 = 0 → s.core.r.chk = false → Sparse.wf Core.reset s.others = true →
    let p := s.cid + 1
    let a := s.core
    let b := s.coreAt p
    let differ : Prop := 3 ≤ s.cycle ∧ a.sigOf (s.cycle - 3) ≠ b.sigOf (s.cycle - 1)
    let both : Prop := a.segOpen = true ∧ b.segOpen = true ∧ b.segAt = a.segAt + 2
    (a.r.prot = false → exec .signatureCompare s = .next s) ∧
    (a.r.prot = true → a.strike = none → ¬ differ → ∃ t, exec .signatureCompare s = .next t ∧ t.core.r = a.r ∧ t.core.pc = a.pc ∧ t.core.flight = a.flight ∧
      t.core.sigs = a.sigs.filter (fun e => decide (s.cycle < e.1 + 3)) ∧ (t.coreAt p).sigs = b.sigs.filter (fun e => decide (s.cycle < e.1 + 1)) ∧ SameBytes s t) ∧
    (∀ ka kb, a.r.prot = true → a.strike = none → differ → both → a.ckpt = some ka → b.ckpt = some kb → a.rewindable = true → b.rewindable = true →
      a.rewinds < 3 → ∃ t, exec .signatureCompare s = .next t ∧ SameBytes s t ∧
        ∀ x ∈ [(t.core, a, ka, s.cycle + 32 + 2 * a.undoRows.length), (t.coreAt p, b, kb, s.cycle + 32 + 2 * a.undoRows.length + 2)],
          let n : Core := x.1
          let o : Core := x.2.1
          let k : Ckpt := x.2.2.1
          n.pc = k.pc ∧ n.r = { k.r with segcount := o.r.segcount, rwcount := o.r.rwcount + 1, cycles := o.r.cycles } ∧ n.tiles = k.tiles ∧ n.sp = k.sp ∧
          n.ports = k.ports ∧ n.om = k.om ∧ n.omd = k.omd ∧ n.mat.acc = k.acc ∧ n.tree = k.tree ∧ n.pats = k.pats ∧ n.wl = k.wl ∧ n.captured = k.captured ∧
          n.mat.queue = [] ∧ n.rewinds = o.rewinds + 1 ∧ n.back = some x.2.2.2) ∧
    (a.r.prot = true → a.strike = none → differ → a.segOpen = false ∨ both ∧ (a.rewindable = false ∨ b.rewindable = false ∨ 3 ≤ a.rewinds) →
      ∃ t, exec .signatureCompare s = .next t ∧ SameBytes s t ∧
      t.core.task.phase = .ending true 0xF1 a.pc false ∧ (t.coreAt p).task.phase = .ending true 0xF1 b.pc false) ∧
    (a.r.prot = true → a.strike = none → differ → a.segOpen = true → ¬ both → ∃ t, exec .signatureCompare s = .next t ∧ SameBytes s t ∧
      t.core = { a with strike := some a.abort } ∧ t.coreAt p = { b with strike := some a.abort }) ∧
    (a.back = none ∨ a.drained = false ∨ b.drained = false ∨ (∃ d, a.back = some d ∧ s.cycle < d) → exec .rewindReissue s = .next s) ∧
    (∀ d k, a.back = some d → d ≤ s.cycle → a.ckpt = some k → a.drained = true → b.drained = true → ∃ t, exec .rewindReissue s = .next t ∧ SameBytes s t ∧
      t.core.back = none ∧ (t.coreAt p).back = b.back.map (fun _ => s.cycle + 2) ∧ t.core.iss.ready = s.cycle ∧ t.core.segAt = s.cycle ∧ t.core.pc = a.pc ∧
      t.core.r = { k.r with segcount := a.r.segcount, rwcount := a.r.rwcount, cycles := a.r.cycles } ∧
      t.core.flight = a.flight.filter (fun w => w.ans) ++ k.flight.map (fun w => { w with due := s.cycle + w.due }))

/-! ### Fetch, issue, encodings, invariants -/

/-- A step runs the decoded instruction. Where the turn is the issue of the focused core, which runs a task of one core and is kept by nothing, and
the program counter stands at a good bundle with STOP and without SEG that holds the one operation i, step is exec of i: it runs with the
program counter after the bundle and the bundle's place noted; when it answers with no hold, no trap and no promotion wanted,
and at most 48 results in flight and loads held, that is the next state but for the issue bookkeeping; when it holds, the state is as it was but
for what the hold keeps; when it traps, the trap is taken from the state as it was. A PGATHER runs in the form its staging registers name. -/
def Sys2Proof.Stmt.StepRunsDecodedInstruction1 : Prop :=
  ∀ (s : State) (rest : List Turn) (b : Bundle) (k : Nat) (i : Instr),
    let c := s.core
    s.turn = .issue s.cid :: rest → c.task.phase = .running → c.task.fresh = false → c.task.gsize ≤ 1 → c.r.prot = false → c.r.chk = false → c.iss.ready ≤ s.cycle → c.hold.promo = none → c.back = none →
    c.strike = none → s.reportNow = false → c.wl.active = false → c.iss.drain = false → c.badWords = [] → c.dictBad = [] → c.reseg = false →
    c.stream c.pc = .go b → b.ops = [(k, some i)] → b.bad = false → b.stop = true → b.seg = false → b.mask ≠ 0 →
    (∀ g r m o t, i = .mcall g r m o t → (s.core.routine r.toNat).isSome = true) → c.scoreboard [(k, i)] = false → c.stepFour [(k, i)] = false →
    let next := c.pc + BitVec.ofNat 47 b.len
    let at_ : Iss := { c.iss with fwd := [], want := [], wantSlot := 0, reps := c.newReps [(k, i)], slot := k, pc := c.pc, next := next, pairPc := c.pc, part := 0, replay := false, verdict := .ok }
    let e : State := { s with turn := rest, core := { c with pc := next, iss := at_ } }
    let old : State := { s with turn := rest, core := { c with iss := { c.iss with fwd := [] } } }
    ∀ u, exec (e.core.asRun i) e = .next u →
      (u.core.iss.verdict = .ok → u.core.iss.want = [] → flightCount u.core.flight + u.core.heldLoads ≤ 48 → u.core.r.prot = false → u.core.task.fresh = false →
        ∃ q h, step s = .next { u with core := { u.core with iss := q, hold := h } } ∧ q.verdict = .ok ∧ q.ready = u.core.iss.ready ∧ q.written = [] ∧ q.seq = u.core.iss.seq) ∧
      (u.core.iss.verdict = .held → u.core.iss.want = [] →
        step s = .next { old with free := u.free, faults := u.faults, wtlb := u.wtlb, walks := u.walks, core := { old.core with hold := u.core.hold, tlb := u.core.tlb } }) ∧
      (∀ x, u.core.iss.verdict = .trap x → x.isReport = false → ¬ (x.code = 1 ∧ x.slot = 15) → flightCount c.flight + c.heldLoads ≤ 48 →
        step s = .next (({ old with free := u.free, faults := u.faults } : State).takeTrap x (match i with | .trap _ _ => 1 | _ => 0)))

/-- The bundles of the stream: where the parcels from an index on, in hand, begin with 0xFFFF and a header, they are the literal bundle of that
header and of the parcels its slots take; a dictionary index stands for its entry; any other leading parcel is refused. A bundle of one
good operation is what decodeStream reads in its parcels. -/
def Sys2Proof.Stmt.StreamBundles : Prop :=
  (∀ (c : Core) (ix : ParcelIx) (h : Parcel) (l : List Parcel), c.parcel ix.toNat = some 0xFFFF → c.parcel (parcelNo ix 1) = some h →
    l.length = literalLen h - 2 → (∀ k : Nat, k < l.length → c.parcel (parcelNo ix (2 + k)) = l[k]?) → c.stream ix = .go (literalBundle h l)) ∧
  (∀ (c : Core) (ix : ParcelIx) (p : Parcel), c.parcel ix.toNat = some p → p ≠ 0xFFFF →
    c.stream ix = if p.toNat < 0x8000 ∧ p.toNat < c.kern.n then .go (entryBundle (entryParcels (c.dict.get 0 p.toNat))) else .enc) ∧
  (∀ (h : Parcel) (l r : List Parcel) (k : Nat) (i : Instr), (literalBundle h l).bad = false → (literalBundle h l).ops = [(k, some i)] → l.length = literalLen h - 2 →
    decodeStream (0xFFFF :: h :: l ++ r) = some i)

/-- A step runs the decoded instruction. Where the turn is the issue of the focused core, which runs a task of one core and is kept by
nothing, and the program counter stands at a good bundle with STOP and without SEG that holds the one operation i, step is exec of i: it
runs with the program counter after the bundle and the bundle's place noted; when it answers with no hold, no trap and no promotion
wanted, and at most 48 results in flight and loads held, that is the next state but for the issue bookkeeping; when it holds, the state
is as it was but for what the hold keeps; when it traps, the trap is taken from the state as it was. A PGATHER runs in the form its
staging registers name. The bundles of the stream: where the parcels from an index on, in hand, begin with 0xFFFF and a header, they are
the literal bundle of that header and of the parcels its slots take; a dictionary index stands for its entry; any other leading parcel
is refused. A bundle of one good operation is what decodeStream reads in its parcels. -/
def Obligations.StepRunsDecodedInstruction : Prop :=
  Sys2Proof.Stmt.StepRunsDecodedInstruction1 ∧ Sys2Proof.Stmt.StreamBundles

/-- PARCEL_FETCH, an empty bundle and a reserved encoding: a line on its way arrives when its time has come, as the 64 bytes of memory that its
address maps to, so that its 32 parcels are in hand, or, where
the task has stored to its own code since it first fetched the line, as it was then (R87 leaves it open; the choice between the two is log 44's free value); a line that cannot be read for an uncorrectable word is remembered as bad. An empty
bundle changes nothing but, with SEG, SEGCOUNT. A reserved encoding raises ENC with its slot (0xF for the leading parcel and the
header), at the bundle's or pair's first parcel, where the task has a handler. -/
def Obligations.FetchEmptyAndReserved : Prop :=
  ∀ (s : State),
    (s.core.fetch = none ∨ (∃ n d, s.core.fetch = some (n, d) ∧ s.cycle < d) → exec .parcelFetch s = .next s) ∧
    (∀ n d p e, s.core.fetch = some (n, d) → d ≤ s.cycle → s.reach s.core.task.asid none (64 * n) 64 false none = .ok [(p, 64)] false e →
      ∃ t, exec .parcelFetch s = .next t ∧ t.core.fetch = none ∧ t.core.r = s.core.r ∧ t.core.pc = s.core.pc ∧ SameBytes s t ∧
        (s.badWord [(p, 64)] = none → (∀ v, (n, v) ∉ s.core.codeSeen) → ∀ k : Nat, k < 32 →
          t.core.parcel (32 * n + k) = some (s.readByte (p + 2 * k + 1) ++ s.readByte (p + 2 * k))) ∧
        (s.badWord [(p, 64)] = none → ∀ v, s.core.codeSeen.find? (fun x => x.1 == n) = some (n, v) →
          (∀ k : Nat, k < 32 → t.core.parcel (32 * n + k) = some (s.readByte (p + 2 * k + 1) ++ s.readByte (p + 2 * k))) ∨
          (∀ k : Nat, k < 32 → t.core.parcel (32 * n + k) = some (v.extractLsb' (16 * k) 16))) ∧
        (∀ w, s.badWord [(p, 64)] = some w → t.core.badfetch = some (n, w.1) ∧ t.core.lines = s.core.lines ∧ t.notes = s.notes ++ [(1, w.1)])) ∧
    (∀ seg : Bool, exec (.emptyBundle seg) s =
      .next (if seg then { s with core := { s.core with r := { s.core.r with segcount := s.core.r.segcount + 1 } } } else s)) ∧
    (∀ (slot : BitVec 4) (h : Nat), Handles s.core h → ∃ t, exec (.reservedEncoding slot) s = .next t ∧
      TrapTaken s t { code := 0x01, slot := slot.toNat } (if s.core.wl.active then s.core.wl.runIx else s.core.iss.pairPc) h)

/-- Decoding of words written out from the encoding tables: S, V, M and P operations and micro-words of the spec's own examples. -/
def Obligations.DecodeWords : Prop :=
  decodeStream [0xFFFF, 0x0041, 0x4400, 0x2400, 0xFFFF, 0xFFE8] = some (.loop Guard.always 9 0xFFFFFFE8) ∧
  decodeS 0x50061C3200000010 = some (.ld Guard.always true 2 7 3 2 16) ∧
  decodeM 0x00000008000000000082 = some (.mcall Guard.always 0 4 0x41 false) ∧
  decodeM 0x01020000000000000000 = some (.mclaim Guard.always 0 4 ) ∧
  decodeU 0x0C00000000000000 = some (.mmac 0 false 0) ∧
  decodeV 0x4103000811400000 = some (.vexpq { g := Guard.always, fmt := 12, rnd := 0, sa := 0, sb := 1, sc := 0, dw := 1, sat := false, t := false, xs := 20, pat := 0, imm := 0 }) ∧
  decodeP 0x040808830003 = some (.pgatherList { g := Guard.always, ch := 2, cls := 0, set := 1, hs := 4, hd := 6, flags := 3 })

/-- Encoding and decoding of S operations agree: the word of every well-formed operation decodes to it, with every operand as it was. -/
def Obligations.EncodeDecodeScalar : Prop :=
  ∀ (i : Instr) (w : BitVec 64), i.wf = true → encodeS i = some w → decodeS w = some i

/-- Encoding and decoding of V, M and P operations and of micro-words agree. The two forms of PGATHER share their word, which reads as the
list form; the form that runs follows its staging register. -/
def Obligations.EncodeDecodeUnits : Prop :=
  (∀ (i : Instr) (w : BitVec 64), i.wf = true → encodeV i = some w → decodeV w = some i) ∧
  (∀ (i : Instr) (w : BitVec 80), i.wf = true → encodeM i = some w → decodeM w = some i) ∧
  (∀ (i : Instr) (w : BitVec 48), i.wf = true → encodeP i = some w →
    decodeP w = some (match i with | .pgatherPairs p => .pgatherList p | i => i)) ∧
  (∀ (i : Instr) (w : BitVec 64), i.wf = true → encodeU i = some w → decodeU w = some i)

/-- Memory keeps its canonical form (addresses strictly rising, no byte listed that an unlisted address reads as) in every step. -/
def Obligations.MemoryStaysCanonical : Prop :=
  ∀ s t : State, Memory.wf s.mem = true → step s = .next t → Memory.wf t.mem = true

/-- The machine right after reset: READY 0 and the other host registers 0, no core with a task, X and Q registers reading 0 and false but Q0,
which reads true, every tile FREE, every scratchpad granule free (the free map holds the 14336 granules of 64 bytes and no other) and FREEGR their
number, RMODE, FPSTAT and DECSTAT 0, memory canonical and reading 0 at every address (the zeros of memory are the model's choice: log 1; so are
the scratchpad free and FREEGR 14336 on a core that no task has been bound to yet: log 5). -/
def Obligations.ResetState : Prop :=
  let s := State.reset
  s.host.status = 0 ∧ s.host.jseq = 0 ∧ s.host.mbxcmd = 0 ∧ s.host.mbxrsp = 0 ∧ s.host.mbxstat = 0 ∧ s.core.task.phase = .idle ∧ s.others = [] ∧ s.turn = [] ∧ s.inputs = [] ∧
  (∀ r : XReg, s.core.x r = 0) ∧ (∀ q : QReg, s.core.q q = decide (q = 0)) ∧ (∀ t : Nat, s.core.tile t = {}) ∧ (∀ g : Nat, FreeAt s.core g ↔ g < 14336) ∧ s.core.r.freegr = 14336 ∧ s.core.flight = [] ∧ s.core.sump = [] ∧ s.core.mu = [] ∧
  s.core.r.rmode = 0 ∧ s.core.r.fpstat = 0 ∧ s.core.r.decstat = 0 ∧ Memory.wf s.mem = true ∧ (∀ a : Nat, s.readByte a = 0)

end
end

