-- ==== Sys2Proof/Laws/Bits.lean ====
section
/-! SUPPORT. Bit fields: what setFld leaves, and KSTAT's bits. -/

namespace Sys2Proof.Machine

open Sys2Proof

/-- Bit `b` after a field is replaced. -/
theorem getLsbD_setFld {w n : Nat} (x : BitVec w) (lo : Nat) (v : BitVec n) (b : Nat) (hb : b < w) :
    (setFld x lo v).getLsbD b = if lo ≤ b ∧ b < lo + n then v.getLsbD (b - lo) else x.getLsbD b := by
  unfold setFld
  by_cases h1 : b < lo
  · have : ¬ (lo ≤ b ∧ b < lo + n) := by omega
    simp [this, hb, h1]
  · by_cases h2 : b - lo < n
    · have : lo ≤ b ∧ b < lo + n := by omega
      simp [this, hb, h1, h2]
    · have : ¬ (lo ≤ b ∧ b < lo + n) := by omega
      have h3 : v.getLsbD (b - lo) = false := BitVec.getLsbD_of_ge _ _ (by omega)
      simp [this, hb, h1, h2, h3]

theorem Arch.getLsbD_setInh (r : Arch) (v : Bool) (b : Nat) :
    (r.setInh v).kstat.getLsbD b = if b = 6 then v else r.kstat.getLsbD b := by
  by_cases hb : b < 64
  · rw [Arch.setInh, getLsbD_setFld _ _ _ _ hb]
    by_cases h : b = 6
    · subst h; simp
    · have : ¬ (6 ≤ b ∧ b < 6 + 1) := by omega
      rw [if_neg this, if_neg h]
  · have h : b ≠ 6 := by omega
    rw [if_neg h, BitVec.getLsbD_of_ge _ _ (by omega), BitVec.getLsbD_of_ge _ _ (by omega)]

theorem Arch.getLsbD_setWlact (r : Arch) (v : Bool) (b : Nat) :
    (r.setWlact v).kstat.getLsbD b = if b = 1 then v else r.kstat.getLsbD b := by
  by_cases hb : b < 64
  · rw [Arch.setWlact, getLsbD_setFld _ _ _ _ hb]
    by_cases h : b = 1
    · subst h; simp
    · have : ¬ (1 ≤ b ∧ b < 1 + 1) := by omega
      rw [if_neg this, if_neg h]
  · have h : b ≠ 1 := by omega
    rw [if_neg h, BitVec.getLsbD_of_ge _ _ (by omega), BitVec.getLsbD_of_ge _ _ (by omega)]

@[simp] theorem Arch.inh_setInh (r : Arch) (v : Bool) : (r.setInh v).inh = v := by
  show (r.setInh v).kstat.getLsbD 6 = v
  rw [Arch.getLsbD_setInh]; rfl

end Sys2Proof.Machine
end

