-- ==== Sys2Proof/Laws/Exec.lean ====
section
/-! SUPPORT. One equation per arm of exec and of Instr.guard, so that no proof unfolds the whole of either. -/

namespace Sys2Proof.Machine

open Sys2Proof

theorem exec_add (g d a b s) : exec (.add g d a b) s = execAdd g d a b s := rfl
theorem exec_sub (g d a b s) : exec (.sub g d a b) s = execSub g d a b s := rfl
theorem exec_and_ (g d a b s) : exec (.and_ g d a b) s = execAnd g d a b s := rfl
theorem exec_or_ (g d a b s) : exec (.or_ g d a b) s = execOr g d a b s := rfl
theorem exec_xor (g d a b s) : exec (.xor g d a b) s = execXor g d a b s := rfl
theorem exec_shl (g d a b s) : exec (.shl g d a b) s = execShl g d a b s := rfl
theorem exec_shr (g d a b s) : exec (.shr g d a b) s = execShr g d a b s := rfl
theorem exec_sar (g d a b s) : exec (.sar g d a b) s = execSar g d a b s := rfl
theorem exec_mul (g d a b s) : exec (.mul g d a b) s = execMul g d a b s := rfl
theorem exec_mulh (g d a b s) : exec (.mulh g d a b) s = execMulh g d a b s := rfl
theorem exec_mulhu (g d a b s) : exec (.mulhu g d a b) s = execMulhu g d a b s := rfl
theorem exec_div (g d a b s) : exec (.div g d a b) s = execDiv g d a b s := rfl
theorem exec_divu (g d a b s) : exec (.divu g d a b) s = execDivu g d a b s := rfl
theorem exec_rem (g d a b s) : exec (.rem g d a b) s = execRem g d a b s := rfl
theorem exec_remu (g d a b s) : exec (.remu g d a b) s = execRemu g d a b s := rfl
theorem exec_min_ (g d a b s) : exec (.min_ g d a b) s = execMin g d a b s := rfl
theorem exec_max_ (g d a b s) : exec (.max_ g d a b) s = execMax g d a b s := rfl
theorem exec_minu (g d a b s) : exec (.minu g d a b) s = execMinu g d a b s := rfl
theorem exec_maxu (g d a b s) : exec (.maxu g d a b) s = execMaxu g d a b s := rfl
theorem exec_clz (g d a s) : exec (.clz g d a) s = execClz g d a s := rfl
theorem exec_popc (g d a s) : exec (.popc g d a) s = execPopc g d a s := rfl
theorem exec_sext (g w d a s) : exec (.sext g w d a) s = execSext g w d a s := rfl
theorem exec_zext (g w d a s) : exec (.zext g w d a) s = execZext g w d a s := rfl
theorem exec_addi (g d a imm s) : exec (.addi g d a imm) s = execAddi g d a imm s := rfl
theorem exec_andi (g d a imm s) : exec (.andi g d a imm) s = execAndi g d a imm s := rfl
theorem exec_ori (g d a imm s) : exec (.ori g d a imm) s = execOri g d a imm s := rfl
theorem exec_xori (g d a imm s) : exec (.xori g d a imm) s = execXori g d a imm s := rfl
theorem exec_shlImm (g d a k s) : exec (.shlImm g d a k) s = execShlImm g d a k s := rfl
theorem exec_shrImm (g d a k s) : exec (.shrImm g d a k) s = execShrImm g d a k s := rfl
theorem exec_sarImm (g d a k s) : exec (.sarImm g d a k) s = execSarImm g d a k s := rfl
theorem exec_movi (g d imm s) : exec (.movi g d imm) s = execMovi g d imm s := rfl
theorem exec_movhi (g d a imm s) : exec (.movhi g d a imm) s = execMovhi g d a imm s := rfl
theorem exec_fadd (g dbl d a b s) : exec (.fadd g dbl d a b) s = execFadd g dbl d a b s := rfl
theorem exec_fsub (g dbl d a b s) : exec (.fsub g dbl d a b) s = execFsub g dbl d a b s := rfl
theorem exec_fmul (g dbl d a b s) : exec (.fmul g dbl d a b) s = execFmul g dbl d a b s := rfl
theorem exec_ffma (g dbl d a b s) : exec (.ffma g dbl d a b) s = execFfma g dbl d a b s := rfl
theorem exec_fmin (g dbl d a b s) : exec (.fmin g dbl d a b) s = execFmin g dbl d a b s := rfl
theorem exec_fmax (g dbl d a b s) : exec (.fmax g dbl d a b) s = execFmax g dbl d a b s := rfl
theorem exec_fcvtS2d (g d a s) : exec (.fcvtS2d g d a) s = execFcvtS2d g d a s := rfl
theorem exec_fcvtD2s (g d a s) : exec (.fcvtD2s g d a) s = execFcvtD2s g d a s := rfl
theorem exec_fcvtS2l (g d a s) : exec (.fcvtS2l g d a) s = execFcvtS2l g d a s := rfl
theorem exec_fcvtD2l (g d a s) : exec (.fcvtD2l g d a) s = execFcvtD2l g d a s := rfl
theorem exec_fcvtL2s (g d a s) : exec (.fcvtL2s g d a) s = execFcvtL2s g d a s := rfl
theorem exec_fcvtL2d (g d a s) : exec (.fcvtL2d g d a) s = execFcvtL2d g d a s := rfl
theorem exec_fcmpEq (g dbl d a b s) : exec (.fcmpEq g dbl d a b) s = execFcmpEq g dbl d a b s := rfl
theorem exec_fcmpLt (g dbl d a b s) : exec (.fcmpLt g dbl d a b) s = execFcmpLt g dbl d a b s := rfl
theorem exec_fcmpLe (g dbl d a b s) : exec (.fcmpLe g dbl d a b) s = execFcmpLe g dbl d a b s := rfl
theorem exec_fcmpUn (g dbl d a b s) : exec (.fcmpUn g dbl d a b) s = execFcmpUn g dbl d a b s := rfl
theorem exec_fclass (g dbl d a s) : exec (.fclass g dbl d a) s = execFclass g dbl d a s := rfl
theorem exec_cmpEq (g d a b s) : exec (.cmpEq g d a b) s = execCmpEq g d a b s := rfl
theorem exec_cmpNe (g d a b s) : exec (.cmpNe g d a b) s = execCmpNe g d a b s := rfl
theorem exec_cmpLt (g d a b s) : exec (.cmpLt g d a b) s = execCmpLt g d a b s := rfl
theorem exec_cmpGe (g d a b s) : exec (.cmpGe g d a b) s = execCmpGe g d a b s := rfl
theorem exec_cmpLtu (g d a b s) : exec (.cmpLtu g d a b) s = execCmpLtu g d a b s := rfl
theorem exec_cmpGeu (g d a b s) : exec (.cmpGeu g d a b) s = execCmpGeu g d a b s := rfl
theorem exec_cmpBt (g d a b s) : exec (.cmpBt g d a b) s = execCmpBt g d a b s := rfl
theorem exec_cmpiEq (g d a imm s) : exec (.cmpiEq g d a imm) s = execCmpiEq g d a imm s := rfl
theorem exec_cmpiNe (g d a imm s) : exec (.cmpiNe g d a imm) s = execCmpiNe g d a imm s := rfl
theorem exec_cmpiLt (g d a imm s) : exec (.cmpiLt g d a imm) s = execCmpiLt g d a imm s := rfl
theorem exec_cmpiGe (g d a imm s) : exec (.cmpiGe g d a imm) s = execCmpiGe g d a imm s := rfl
theorem exec_cmpiLtu (g d a imm s) : exec (.cmpiLtu g d a imm) s = execCmpiLtu g d a imm s := rfl
theorem exec_cmpiGeu (g d a imm s) : exec (.cmpiGeu g d a imm) s = execCmpiGeu g d a imm s := rfl
theorem exec_cmpiBt (g d a imm s) : exec (.cmpiBt g d a imm) s = execCmpiBt g d a imm s := rfl
theorem exec_plogAnd (g d a b s) : exec (.plogAnd g d a b) s = execPlogAnd g d a b s := rfl
theorem exec_plogOr (g d a b s) : exec (.plogOr g d a b) s = execPlogOr g d a b s := rfl
theorem exec_plogXor (g d a b s) : exec (.plogXor g d a b) s = execPlogXor g d a b s := rfl
theorem exec_plogAndn (g d a b s) : exec (.plogAndn g d a b) s = execPlogAndn g d a b s := rfl
theorem exec_plogOrn (g d a b s) : exec (.plogOrn g d a b) s = execPlogOrn g d a b s := rfl
theorem exec_plogNand (g d a b s) : exec (.plogNand g d a b) s = execPlogNand g d a b s := rfl
theorem exec_plogNor (g d a b s) : exec (.plogNor g d a b) s = execPlogNor g d a b s := rfl
theorem exec_plogXnor (g d a b s) : exec (.plogXnor g d a b) s = execPlogXnor g d a b s := rfl
theorem exec_sel (g d a b q s) : exec (.sel g d a b q) s = execSel g d a b q s := rfl
theorem exec_movpGet (g d s) : exec (.movpGet g d) s = execMovpGet g d s := rfl
theorem exec_movpPut (g a s) : exec (.movpPut g a) s = execMovpPut g a s := rfl
theorem exec_movpQx (g d a s) : exec (.movpQx g d a) s = execMovpQx g d a s := rfl
theorem exec_movpXq (g d a s) : exec (.movpXq g d a) s = execMovpXq g d a s := rfl
theorem exec_br (g disp s) : exec (.br g disp) s = execBr g disp s := rfl
theorem exec_brx (g a s) : exec (.brx g a) s = execBrx g a s := rfl
theorem exec_call (g link disp s) : exec (.call g link disp) s = execCall g link disp s := rfl
theorem exec_ret (g a s) : exec (.ret g a) s = execRet g a s := rfl
theorem exec_loop (g link disp s) : exec (.loop g link disp) s = execLoop g link disp s := rfl
theorem exec_ld (g strong w d a cls imm s) : exec (.ld g strong w d a cls imm) s = execLd g strong w d a cls imm s := rfl
theorem exec_st (g strong w d a cls imm s) : exec (.st g strong w d a cls imm) s = execSt g strong w d a cls imm s := rfl
theorem exec_ldw (g strong w hd ha xb xc cls off s) : exec (.ldw g strong w hd ha xb xc cls off) s = execLdw g strong w hd ha xb xc cls off s := rfl
theorem exec_ldh (g strong hd xb cls off s) : exec (.ldh g strong hd xb cls off) s = execLdh g strong hd xb cls off s := rfl
theorem exec_sth (g strong ha xb cls off s) : exec (.sth g strong ha xb cls off) s = execSth g strong ha xb cls off s := rfl
theorem exec_aadd (g w64 d a b cls s) : exec (.aadd g w64 d a b cls) s = execAadd g w64 d a b cls s := rfl
theorem exec_amax (g w64 u d a b cls s) : exec (.amax g w64 u d a b cls) s = execAmax g w64 u d a b cls s := rfl
theorem exec_amin (g w64 u d a b cls s) : exec (.amin g w64 u d a b cls) s = execAmin g w64 u d a b cls s := rfl
theorem exec_axchg (g w64 d a b cls s) : exec (.axchg g w64 d a b cls) s = execAxchg g w64 d a b cls s := rfl
theorem exec_acas (g w64 d a b cls s) : exec (.acas g w64 d a b cls) s = execAcas g w64 d a b cls s := rfl
theorem exec_afadd (g f a b cls s) : exec (.afadd g f a b cls) s = execAfadd g f a b cls s := rfl
theorem exec_accres (g f d a b cls s) : exec (.accres g f d a b cls) s = execAccres g f d a b cls s := rfl
theorem exec_accrel (g f d a b cls s) : exec (.accrel g f d a b cls) s = execAccrel g f d a b cls s := rfl
theorem exec_fence (g mask scope s) : exec (.fence g mask scope) s = execFence g mask scope s := rfl
theorem exec_sync (g mask scope s) : exec (.sync g mask scope) s = execSync g mask scope s := rfl
theorem exec_stkwait (g d a s) : exec (.stkwait g d a) s = execStkwait g d a s := rfl
theorem exec_pwait (g ch a imm s) : exec (.pwait g ch a imm) s = execPwait g ch a imm s := rfl
theorem exec_owait (g ha s) : exec (.owait g ha) s = execOwait g ha s := rfl
theorem exec_cread (g d num s) : exec (.cread g d num) s = execCread g d num s := rfl
theorem exec_cwrite (g a num s) : exec (.cwrite g a num) s = execCwrite g a num s := rfl
theorem exec_trap (g imm s) : exec (.trap g imm) s = execTrap g imm s := rfl
theorem exec_tret (g s) : exec (.tret g) s = execTret g s := rfl
theorem exec_halt (g s) : exec (.halt g) s = execHalt g s := rfl
theorem exec_launch (g xb s) : exec (.launch g xb) s = execLaunch g xb s := rfl
theorem exec_talloc (g ha fmt det keep s) : exec (.talloc g ha fmt det keep) s = execTalloc g ha fmt det keep s := rfl
theorem exec_tfree (g ha s) : exec (.tfree g ha) s = execTfree g ha s := rfl
theorem exec_tsymZero (g ha fmt s) : exec (.tsymZero g ha fmt) s = execTsymZero g ha fmt s := rfl
theorem exec_tsymConst (g ha xb fmt s) : exec (.tsymConst g ha xb fmt) s = execTsymConst g ha xb fmt s := rfl
theorem exec_tsymRamp (g ha xb fmt rax s) : exec (.tsymRamp g ha xb fmt rax) s = execTsymRamp g ha xb fmt rax s := rfl
theorem exec_tsymRepeat (g hd ha s) : exec (.tsymRepeat g hd ha) s = execTsymRepeat g hd ha s := rfl
theorem exec_tprobeLo (g hd ha s) : exec (.tprobeLo g hd ha) s = execTprobeLo g hd ha s := rfl
theorem exec_tprobeHi (g hd ha s) : exec (.tprobeHi g hd ha) s = execTprobeHi g hd ha s := rfl
theorem exec_tretype (g ha fmt s) : exec (.tretype g ha fmt) s = execTretype g ha fmt s := rfl
theorem exec_townGive (g ha own s) : exec (.townGive g ha own) s = execTownGive g ha own s := rfl
theorem exec_townTake (g ha own s) : exec (.townTake g ha own) s = execTownTake g ha own s := rfl
theorem exec_tflag (g ha det keep wdet wkeep s) : exec (.tflag g ha det keep wdet wkeep) s = execTflag g ha det keep wdet wkeep s := rfl
theorem exec_tld (g hd ha xb ix s) : exec (.tld g hd ha xb ix) s = execTld g hd ha xb ix s := rfl
theorem exec_tst (g ha xb xc ix s) : exec (.tst g ha xb xc ix) s = execTst g ha xb xc ix s := rfl
theorem exec_hmov (g hd ha s) : exec (.hmov g hd ha) s = execHmov g hd ha s := rfl
theorem exec_hset (g hd xb k s) : exec (.hset g hd xb k) s = execHset g hd xb k s := rfl
theorem exec_hget (g hd ha k s) : exec (.hget g hd ha k) s = execHget g hd ha k s := rfl
theorem exec_hmkt (g hd xb imm s) : exec (.hmkt g hd xb imm) s = execHmkt g hd xb imm s := rfl
theorem exec_hmkw (g hd xb xc imm s) : exec (.hmkw g hd xb xc imm) s = execHmkw g hd xb xc imm s := rfl
theorem exec_hmkv (g hd ha xb xc fmt keep s) : exec (.hmkv g hd ha xb xc fmt keep) s = execHmkv g hd ha xb xc fmt keep s := rfl
theorem exec_portsetBind (g ha port s) : exec (.portsetBind g ha port) s = execPortsetBind g ha port s := rfl
theorem exec_portsetClr (g port s) : exec (.portsetClr g port) s = execPortsetClr g port s := rfl
theorem exec_portget (g hd xc port s) : exec (.portget g hd xc port) s = execPortget g hd xc port s := rfl
theorem exec_portadvStep (g xb port n s) : exec (.portadvStep g xb port n) s = execPortadvStep g xb port n s := rfl
theorem exec_portadvSet (g xb port s) : exec (.portadvSet g xb port) s = execPortadvSet g xb port s := rfl
theorem exec_stgPut (g d a s) : exec (.stgPut g d a) s = execStgPut g d a s := rfl
theorem exec_stgGet (g d a s) : exec (.stgGet g d a) s = execStgGet g d a s := rfl
theorem exec_maput (g d a s) : exec (.maput g d a) s = execMaput g d a s := rfl
theorem exec_patld (g ha r0 e0 n s) : exec (.patld g ha r0 e0 n) s = execPatld g ha r0 e0 n s := rfl
theorem exec_patsw (g s) : exec (.patsw g) s = execPatsw g s := rfl
theorem exec_oalloc (g hd xb xc prio cow fmt geom tier write s) : exec (.oalloc g hd xb xc prio cow fmt geom tier write) s = execOalloc g hd xb xc prio cow fmt geom tier write s := rfl
theorem exec_oref (g hd ha s) : exec (.oref g hd ha) s = execOref g hd ha s := rfl
theorem exec_odrop (g ha s) : exec (.odrop g ha) s = execOdrop g ha s := rfl
theorem exec_oweak (g hd ha s) : exec (.oweak g hd ha) s = execOweak g hd ha s := rfl
theorem exec_ounweak (g ha xc s) : exec (.ounweak g ha xc) s = execOunweak g ha xc s := rfl
theorem exec_oupg (g hd ha xc s) : exec (.oupg g hd ha xc) s = execOupg g hd ha xc s := rfl
theorem exec_oprio (g ha xc prio s) : exec (.oprio g ha xc prio) s = execOprio g ha xc prio s := rfl
theorem exec_ostat (g hd ha k s) : exec (.ostat g hd ha k) s = execOstat g hd ha k s := rfl
theorem exec_ktclr (g s) : exec (.ktclr g) s = execKtclr g s := rfl
theorem exec_ktadd (g hd xb xc s) : exec (.ktadd g hd xb xc) s = execKtadd g hd xb xc s := rfl
theorem exec_ktset (g xb xc s) : exec (.ktset g xb xc) s = execKtset g xb xc s := rfl
theorem exec_ktgetNode (g hd xb s) : exec (.ktgetNode g hd xb) s = execKtgetNode g hd xb s := rfl
theorem exec_ktgetDepth (g hd xb s) : exec (.ktgetDepth g hd xb) s = execKtgetDepth g hd xb s := rfl
theorem exec_ktgetNodes (g hd s) : exec (.ktgetNodes g hd) s = execKtgetNodes g hd s := rfl
theorem exec_ktanc (g ha xb xc s) : exec (.ktanc g ha xb xc) s = execKtanc g ha xb xc s := rfl
theorem exec_ktpos (g ha xb s) : exec (.ktpos g ha xb) s = execKtpos g ha xb s := rfl
theorem exec_ktprune (g hd ha xb xc s) : exec (.ktprune g hd ha xb xc) s = execKtprune g hd ha xb xc s := rfl
theorem exec_wlcfg (g xb lv word s) : exec (.wlcfg g xb lv word) s = execWlcfg g xb lv word s := rfl
theorem exec_wltpl (g xb xc lv tpl s) : exec (.wltpl g xb xc lv tpl) s = execWltpl g xb xc lv tpl s := rfl
theorem exec_wlrun (g lv s) : exec (.wlrun g lv) s = execWlrun g lv s := rfl
theorem exec_wlstop (g s) : exec (.wlstop g) s = execWlstop g s := rfl
theorem exec_wlstat (g hd lv item s) : exec (.wlstat g hd lv item) s = execWlstat g hd lv item s := rfl
theorem exec_setseq (g xb s) : exec (.setseq g xb) s = execSetseq g xb s := rfl
theorem exec_vadd (v s) : exec (.vadd v) s = execVadd v s := rfl
theorem exec_vsub (v s) : exec (.vsub v) s = execVsub v s := rfl
theorem exec_vmul (v s) : exec (.vmul v) s = execVmul v s := rfl
theorem exec_vfma (v s) : exec (.vfma v) s = execVfma v s := rfl
theorem exec_vfms (v s) : exec (.vfms v) s = execVfms v s := rfl
theorem exec_vmin (v s) : exec (.vmin v) s = execVmin v s := rfl
theorem exec_vmax (v s) : exec (.vmax v) s = execVmax v s := rfl
theorem exec_vabs (v s) : exec (.vabs v) s = execVabs v s := rfl
theorem exec_vneg (v s) : exec (.vneg v) s = execVneg v s := rfl
theorem exec_vand (v s) : exec (.vand v) s = execVand v s := rfl
theorem exec_vor (v s) : exec (.vor v) s = execVor v s := rfl
theorem exec_vxor (v s) : exec (.vxor v) s = execVxor v s := rfl
theorem exec_vnot (v s) : exec (.vnot v) s = execVnot v s := rfl
theorem exec_vshl (v s) : exec (.vshl v) s = execVshl v s := rfl
theorem exec_vshr (v s) : exec (.vshr v) s = execVshr v s := rfl
theorem exec_vsar (v s) : exec (.vsar v) s = execVsar v s := rfl
theorem exec_vcmp (v s) : exec (.vcmp v) s = execVcmp v s := rfl
theorem exec_vsel (v s) : exec (.vsel v) s = execVsel v s := rfl
theorem exec_vmsk (v s) : exec (.vmsk v) s = execVmsk v s := rfl
theorem exec_vcvt (v s) : exec (.vcvt v) s = execVcvt v s := rfl
theorem exec_vclamp (v s) : exec (.vclamp v) s = execVclamp v s := rfl
theorem exec_vmov (v s) : exec (.vmov v) s = execVmov v s := rfl
theorem exec_vsplat (v s) : exec (.vsplat v) s = execVsplat v s := rfl
theorem exec_viota (v s) : exec (.viota v) s = execViota v s := rfl
theorem exec_vexp (v s) : exec (.vexp v) s = execVexp v s := rfl
theorem exec_vexpq (v s) : exec (.vexpq v) s = execVexpq v s := rfl
theorem exec_vlog2 (v s) : exec (.vlog2 v) s = execVlog2 v s := rfl
theorem exec_vrcp (v s) : exec (.vrcp v) s = execVrcp v s := rfl
theorem exec_vrsq (v s) : exec (.vrsq v) s = execVrsq v s := rfl
theorem exec_vrefineRcp (v s) : exec (.vrefineRcp v) s = execVrefineRcp v s := rfl
theorem exec_vrefineRsq (v s) : exec (.vrefineRsq v) s = execVrefineRsq v s := rfl
theorem exec_vrrot (v s) : exec (.vrrot v) s = execVrrot v s := rfl
theorem exec_vcrot (v s) : exec (.vcrot v) s = execVcrot v s := rfl
theorem exec_vrbc (v s) : exec (.vrbc v) s = execVrbc v s := rfl
theorem exec_vcbc (v s) : exec (.vcbc v) s = execVcbc v s := rfl
theorem exec_vrred (v s) : exec (.vrred v) s = execVrred v s := rfl
theorem exec_vcred (v s) : exec (.vcred v) s = execVcred v s := rfl
theorem exec_vrscan (v s) : exec (.vrscan v) s = execVrscan v s := rfl
theorem exec_vshuf (v s) : exec (.vshuf v) s = execVshuf v s := rfl
theorem exec_vscale (v s) : exec (.vscale v) s = execVscale v s := rfl
theorem exec_dadd (v s) : exec (.dadd v) s = execDadd v s := rfl
theorem exec_dsub (v s) : exec (.dsub v) s = execDsub v s := rfl
theorem exec_dmul (v s) : exec (.dmul v) s = execDmul v s := rfl
theorem exec_dfma (v s) : exec (.dfma v) s = execDfma v s := rfl
theorem exec_dquant (v s) : exec (.dquant v) s = execDquant v s := rfl
theorem exec_drnd (v s) : exec (.drnd v) s = execDrnd v s := rfl
theorem exec_dcmp (v s) : exec (.dcmp v) s = execDcmp v s := rfl
theorem exec_dcvtTo (v s) : exec (.dcvtTo v) s = execDcvtTo v s := rfl
theorem exec_dcvtFrom (v s) : exec (.dcvtFrom v) s = execDcvtFrom v s := rfl
theorem exec_mcall (g rix ovm ov tag s) : exec (.mcall g rix ovm ov tag) s = execMcall g rix ovm ov tag s := rfl
theorem exec_mclaim (g slot cnt s) : exec (.mclaim g slot cnt) s = execMclaim g slot cnt s := rfl
theorem exec_mrel (g slot cnt s) : exec (.mrel g slot cnt) s = execMrel g slot cnt s := rfl
theorem exec_mwait (g k t s) : exec (.mwait g k t) s = execMwait g k t s := rfl
theorem exec_pcopy (p s) : exec (.pcopy p) s = execPcopy p s := rfl
theorem exec_pgatherList (p s) : exec (.pgatherList p) s = execPgatherList p s := rfl
theorem exec_pgatherPairs (p s) : exec (.pgatherPairs p) s = execPgatherPairs p s := rfl
theorem exec_pscatter (p s) : exec (.pscatter p) s = execPscatter p s := rfl
theorem exec_preduce (p s) : exec (.preduce p) s = execPreduce p s := rfl
theorem exec_pbcast (p s) : exec (.pbcast p) s = execPbcast p s := rfl
theorem exec_pfill (p s) : exec (.pfill p) s = execPfill p s := rfl
theorem exec_pinvm (p s) : exec (.pinvm p) s = execPinvm p s := rfl
theorem exec_mend (s) : exec .mend s = execMend s := rfl
theorem exec_mlda (ma off s0 s1 s) : exec (.mlda ma off s0 s1) s = execMlda ma off s0 s1 s := rfl
theorem exec_mldb (mode ma off s0 s1 s) : exec (.mldb mode ma off s0 s1) s = execMldb mode ma off s0 s1 s := rfl
theorem exec_mmac (mode z acc s) : exec (.mmac mode z acc) s = execMmac mode z acc s := rfl
theorem exec_mps (on s) : exec (.mps on) s = execMps on s := rfl
theorem exec_mout (acc cnt ma off s0 s1 clr fromma ofmt sat s) : exec (.mout acc cnt ma off s0 s1 clr fromma ofmt sat) s = execMout acc cnt ma off s0 s1 clr fromma ofmt sat s := rfl
theorem exec_mclr (mask s) : exec (.mclr mask) s = execMclr mask s := rfl
theorem exec_mloop (j fromma ma target count s) : exec (.mloop j fromma ma target count) s = execMloop j fromma ma target count s := rfl
theorem exec_mifz (target s) : exec (.mifz target) s = execMifz target s := rfl
theorem exec_mscl (mask k fromma ma s) : exec (.mscl mask k fromma ma) s = execMscl mask k fromma ma s := rfl
theorem exec_msig (ma off s0 s1 s) : exec (.msig ma off s0 s1) s = execMsig ma off s0 s1 s := rfl
theorem exec_emptyBundle (seg s) : exec (.emptyBundle seg) s = execEmptyBundle seg s := rfl
theorem exec_reservedEncoding (slot s) : exec (.reservedEncoding slot) s = execReservedEncoding slot s := rfl
theorem exec_resultVisible (s) : exec .resultVisible s = execResultVisible s := rfl
theorem exec_loadReturn (s) : exec .loadReturn s = execLoadReturn s := rfl
theorem exec_parcelFetch (s) : exec .parcelFetch s = execParcelFetch s := rfl
theorem exec_promotionHoldEnd (s) : exec .promotionHoldEnd s = execPromotionHoldEnd s := rfl
theorem exec_detectionResult (s) : exec .detectionResult s = execDetectionResult s := rfl
theorem exec_sumpReplay (s) : exec .sumpReplay s = execSumpReplay s := rfl
theorem exec_sumpReport (s) : exec .sumpReport s = execSumpReport s := rfl
theorem exec_objectOpHome (s) : exec .objectOpHome s = execObjectOpHome s := rfl
theorem exec_afaddAtSlice (s) : exec .afaddAtSlice s = execAfaddAtSlice s := rfl
theorem exec_accessPerformed (s) : exec .accessPerformed s = execAccessPerformed s := rfl
theorem exec_pageWalkEnd (s) : exec .pageWalkEnd s = execPageWalkEnd s := rfl
theorem exec_faultSettle (asid va level pte s) : exec (.faultSettle asid va level pte) s = execFaultSettle asid va level pte s := rfl
theorem exec_faultDeclare (asid va cow s) : exec (.faultDeclare asid va cow) s = execFaultDeclare asid va cow s := rfl
theorem exec_translationChange (asid va level pte s) : exec (.translationChange asid va level pte) s = execTranslationChange asid va level pte s := rfl
theorem exec_markerAtHead (ch s) : exec (.markerAtHead ch) s = execMarkerAtHead ch s := rfl
theorem exec_markerComplete (ch s) : exec (.markerComplete ch) s = execMarkerComplete ch s := rfl
theorem exec_pageMigration (asid va frame tier phase s) : exec (.pageMigration asid va frame tier phase) s = execPageMigration asid va frame tier phase s := rfl
theorem exec_drainReclaim (die tier s) : exec (.drainReclaim die tier) s = execDrainReclaim die tier s := rfl
theorem exec_pumpCommandStart (ch s) : exec (.pumpCommandStart ch) s = execPumpCommandStart ch s := rfl
theorem exec_wptrAdvance (ch s) : exec (.wptrAdvance ch) s = execWptrAdvance ch s := rfl
theorem exec_pumpCommandComplete (ch s) : exec (.pumpCommandComplete ch) s = execPumpCommandComplete ch s := rfl
theorem exec_pumpFault (ch s) : exec (.pumpFault ch) s = execPumpFault ch s := rfl
theorem exec_routineStart (s) : exec .routineStart s = execRoutineStart s := rfl
theorem exec_arrayBlockUpdate (s) : exec .arrayBlockUpdate s = execArrayBlockUpdate s := rfl
theorem exec_psumRowPresent (s) : exec .psumRowPresent s = execPsumRowPresent s := rfl
theorem exec_outputRowWrite (s) : exec .outputRowWrite s = execOutputRowWrite s := rfl
theorem exec_outputPathOperation (s) : exec .outputPathOperation s = execOutputPathOperation s := rfl
theorem exec_windlassLookup (s) : exec .windlassLookup s = execWindlassLookup s := rfl
theorem exec_windlassReplayEnd (s) : exec .windlassReplayEnd s = execWindlassReplayEnd s := rfl
theorem exec_syncRelease (core s) : exec (.syncRelease core) s = execSyncRelease core s := rfl
theorem exec_syncRestart (s) : exec .syncRestart s = execSyncRestart s := rfl
theorem exec_strokeBoundary (s) : exec .strokeBoundary s = execStrokeBoundary s := rfl
theorem exec_launchRecordTaken (host q s) : exec (.launchRecordTaken host q) s = execLaunchRecordTaken host q s := rfl
theorem exec_bindRecordReady (die ix rec s) : exec (.bindRecordReady die ix rec) s = execBindRecordReady die ix rec s := rfl
theorem exec_preemptWrite (die ix s) : exec (.preemptWrite die ix) s = execPreemptWrite die ix s := rfl
theorem exec_bindRecordEnd (die ix s) : exec (.bindRecordEnd die ix) s = execBindRecordEnd die ix s := rfl
theorem exec_dispatchBind (die ix s) : exec (.dispatchBind die ix) s = execDispatchBind die ix s := rfl
theorem exec_preemptArrival (s) : exec .preemptArrival s = execPreemptArrival s := rfl
theorem exec_contextSave (s) : exec .contextSave s = execContextSave s := rfl
theorem exec_haltComplete (s) : exec .haltComplete s = execHaltComplete s := rfl
theorem exec_signatureCompare (s) : exec .signatureCompare s = execSignatureCompare s := rfl
theorem exec_rewindReissue (s) : exec .rewindReissue s = execRewindReissue s := rfl
theorem exec_abortCompletion (s) : exec .abortCompletion s = execAbortCompletion s := rfl
theorem exec_eccScrub (pa s) : exec (.eccScrub pa) s = execEccScrub pa s := rfl
theorem exec_softError (unc arr core ix s) : exec (.softError unc arr core ix) s = execSoftError unc arr core ix s := rfl
theorem exec_ascreate (s) : exec .ascreate s = execAscreate s := rfl
theorem exec_asdestroy (asid s) : exec (.asdestroy asid) s = execAsdestroy asid s := rfl
theorem exec_load (asid va len dst s) : exec (.load asid va len dst) s = execLoad asid va len dst s := rfl
theorem exec_map (kind asid va len bus attr s) : exec (.map kind asid va len bus attr) s = execMap kind asid va len bus attr s := rfl
theorem exec_qcreate (q log cls res asid base s) : exec (.qcreate q log cls res asid base) s = execQcreate q log cls res asid base s := rfl
theorem exec_qdestroy (q s) : exec (.qdestroy q) s = execQdestroy q s := rfl
theorem exec_drvread (drive lba asid oid page cnt s) : exec (.drvread drive lba asid oid page cnt) s = execDrvread drive lba asid oid page cnt s := rfl
theorem exec_drvwrite (drive lba asid oid page cnt s) : exec (.drvwrite drive lba asid oid page cnt) s = execDrvwrite drive lba asid oid page cnt s := rfl
theorem exec_attest (nonce s) : exec (.attest nonce) s = execAttest nonce s := rfl
theorem exec_jobend (job s) : exec (.jobend job) s = execJobend job s := rfl
theorem exec_driveCompletion (ok data s) : exec (.driveCompletion ok data) s = execDriveCompletion ok data s := rfl
theorem exec_qhead (q v s) : exec (.qhead q v) s = execQhead q v s := rfl
theorem exec_barRegisterWrite (off v s) : exec (.barRegisterWrite off v) s = execBarRegisterWrite off v s := rfl
theorem exec_bar4Access (write off v s) : exec (.bar4Access write off v) s = execBar4Access write off v s := rfl
theorem exec_functionLevelReset (s) : exec .functionLevelReset s = execFunctionLevelReset s := rfl
theorem exec_conventionalReset (bootErr fabric s) : exec (.conventionalReset bootErr fabric) s = execConventionalReset bootErr fabric s := rfl
theorem exec_fabricPortDown (port s) : exec (.fabricPortDown port) s = execFabricPortDown port s := rfl
theorem exec_packageUnreachable (pkg s) : exec (.packageUnreachable pkg) s = execPackageUnreachable pkg s := rfl
theorem exec_strokeDrift (s) : exec .strokeDrift s = execStrokeDrift s := rfl
theorem exec_thermalNearLimit (die preempt s) : exec (.thermalNearLimit die preempt) s = execThermalNearLimit die preempt s := rfl
theorem exec_thermalAbsoluteLimit (s) : exec .thermalAbsoluteLimit s = execThermalAbsoluteLimit s := rfl
theorem exec_launchRingWrite (off v s) : exec (.launchRingWrite off v) s = execLaunchRingWrite off v s := rfl
theorem exec_mbxdb (v s) : exec (.mbxdb v) s = execMbxdb v s := rfl

theorem guard_add (g d a b) : (Instr.add g d a b).guard = g := rfl
theorem guard_sub (g d a b) : (Instr.sub g d a b).guard = g := rfl
theorem guard_and_ (g d a b) : (Instr.and_ g d a b).guard = g := rfl
theorem guard_or_ (g d a b) : (Instr.or_ g d a b).guard = g := rfl
theorem guard_xor (g d a b) : (Instr.xor g d a b).guard = g := rfl
theorem guard_shl (g d a b) : (Instr.shl g d a b).guard = g := rfl
theorem guard_shr (g d a b) : (Instr.shr g d a b).guard = g := rfl
theorem guard_sar (g d a b) : (Instr.sar g d a b).guard = g := rfl
theorem guard_mul (g d a b) : (Instr.mul g d a b).guard = g := rfl
theorem guard_mulh (g d a b) : (Instr.mulh g d a b).guard = g := rfl
theorem guard_mulhu (g d a b) : (Instr.mulhu g d a b).guard = g := rfl
theorem guard_div (g d a b) : (Instr.div g d a b).guard = g := rfl
theorem guard_divu (g d a b) : (Instr.divu g d a b).guard = g := rfl
theorem guard_rem (g d a b) : (Instr.rem g d a b).guard = g := rfl
theorem guard_remu (g d a b) : (Instr.remu g d a b).guard = g := rfl
theorem guard_min_ (g d a b) : (Instr.min_ g d a b).guard = g := rfl
theorem guard_max_ (g d a b) : (Instr.max_ g d a b).guard = g := rfl
theorem guard_minu (g d a b) : (Instr.minu g d a b).guard = g := rfl
theorem guard_maxu (g d a b) : (Instr.maxu g d a b).guard = g := rfl
theorem guard_clz (g d a) : (Instr.clz g d a).guard = g := rfl
theorem guard_popc (g d a) : (Instr.popc g d a).guard = g := rfl
theorem guard_sext (g w d a) : (Instr.sext g w d a).guard = g := rfl
theorem guard_zext (g w d a) : (Instr.zext g w d a).guard = g := rfl
theorem guard_addi (g d a imm) : (Instr.addi g d a imm).guard = g := rfl
theorem guard_andi (g d a imm) : (Instr.andi g d a imm).guard = g := rfl
theorem guard_ori (g d a imm) : (Instr.ori g d a imm).guard = g := rfl
theorem guard_xori (g d a imm) : (Instr.xori g d a imm).guard = g := rfl
theorem guard_shlImm (g d a k) : (Instr.shlImm g d a k).guard = g := rfl
theorem guard_shrImm (g d a k) : (Instr.shrImm g d a k).guard = g := rfl
theorem guard_sarImm (g d a k) : (Instr.sarImm g d a k).guard = g := rfl
theorem guard_movi (g d imm) : (Instr.movi g d imm).guard = g := rfl
theorem guard_movhi (g d a imm) : (Instr.movhi g d a imm).guard = g := rfl
theorem guard_fadd (g dbl d a b) : (Instr.fadd g dbl d a b).guard = g := rfl
theorem guard_fsub (g dbl d a b) : (Instr.fsub g dbl d a b).guard = g := rfl
theorem guard_fmul (g dbl d a b) : (Instr.fmul g dbl d a b).guard = g := rfl
theorem guard_ffma (g dbl d a b) : (Instr.ffma g dbl d a b).guard = g := rfl
theorem guard_fmin (g dbl d a b) : (Instr.fmin g dbl d a b).guard = g := rfl
theorem guard_fmax (g dbl d a b) : (Instr.fmax g dbl d a b).guard = g := rfl
theorem guard_fcvtS2d (g d a) : (Instr.fcvtS2d g d a).guard = g := rfl
theorem guard_fcvtD2s (g d a) : (Instr.fcvtD2s g d a).guard = g := rfl
theorem guard_fcvtS2l (g d a) : (Instr.fcvtS2l g d a).guard = g := rfl
theorem guard_fcvtD2l (g d a) : (Instr.fcvtD2l g d a).guard = g := rfl
theorem guard_fcvtL2s (g d a) : (Instr.fcvtL2s g d a).guard = g := rfl
theorem guard_fcvtL2d (g d a) : (Instr.fcvtL2d g d a).guard = g := rfl
theorem guard_fcmpEq (g dbl d a b) : (Instr.fcmpEq g dbl d a b).guard = g := rfl
theorem guard_fcmpLt (g dbl d a b) : (Instr.fcmpLt g dbl d a b).guard = g := rfl
theorem guard_fcmpLe (g dbl d a b) : (Instr.fcmpLe g dbl d a b).guard = g := rfl
theorem guard_fcmpUn (g dbl d a b) : (Instr.fcmpUn g dbl d a b).guard = g := rfl
theorem guard_fclass (g dbl d a) : (Instr.fclass g dbl d a).guard = g := rfl
theorem guard_cmpEq (g d a b) : (Instr.cmpEq g d a b).guard = g := rfl
theorem guard_cmpNe (g d a b) : (Instr.cmpNe g d a b).guard = g := rfl
theorem guard_cmpLt (g d a b) : (Instr.cmpLt g d a b).guard = g := rfl
theorem guard_cmpGe (g d a b) : (Instr.cmpGe g d a b).guard = g := rfl
theorem guard_cmpLtu (g d a b) : (Instr.cmpLtu g d a b).guard = g := rfl
theorem guard_cmpGeu (g d a b) : (Instr.cmpGeu g d a b).guard = g := rfl
theorem guard_cmpBt (g d a b) : (Instr.cmpBt g d a b).guard = g := rfl
theorem guard_cmpiEq (g d a imm) : (Instr.cmpiEq g d a imm).guard = g := rfl
theorem guard_cmpiNe (g d a imm) : (Instr.cmpiNe g d a imm).guard = g := rfl
theorem guard_cmpiLt (g d a imm) : (Instr.cmpiLt g d a imm).guard = g := rfl
theorem guard_cmpiGe (g d a imm) : (Instr.cmpiGe g d a imm).guard = g := rfl
theorem guard_cmpiLtu (g d a imm) : (Instr.cmpiLtu g d a imm).guard = g := rfl
theorem guard_cmpiGeu (g d a imm) : (Instr.cmpiGeu g d a imm).guard = g := rfl
theorem guard_cmpiBt (g d a imm) : (Instr.cmpiBt g d a imm).guard = g := rfl
theorem guard_plogAnd (g d a b) : (Instr.plogAnd g d a b).guard = g := rfl
theorem guard_plogOr (g d a b) : (Instr.plogOr g d a b).guard = g := rfl
theorem guard_plogXor (g d a b) : (Instr.plogXor g d a b).guard = g := rfl
theorem guard_plogAndn (g d a b) : (Instr.plogAndn g d a b).guard = g := rfl
theorem guard_plogOrn (g d a b) : (Instr.plogOrn g d a b).guard = g := rfl
theorem guard_plogNand (g d a b) : (Instr.plogNand g d a b).guard = g := rfl
theorem guard_plogNor (g d a b) : (Instr.plogNor g d a b).guard = g := rfl
theorem guard_plogXnor (g d a b) : (Instr.plogXnor g d a b).guard = g := rfl
theorem guard_sel (g d a b q) : (Instr.sel g d a b q).guard = g := rfl
theorem guard_movpGet (g d) : (Instr.movpGet g d).guard = g := rfl
theorem guard_movpPut (g a) : (Instr.movpPut g a).guard = g := rfl
theorem guard_movpQx (g d a) : (Instr.movpQx g d a).guard = g := rfl
theorem guard_movpXq (g d a) : (Instr.movpXq g d a).guard = g := rfl
theorem guard_br (g disp) : (Instr.br g disp).guard = g := rfl
theorem guard_brx (g a) : (Instr.brx g a).guard = g := rfl
theorem guard_call (g link disp) : (Instr.call g link disp).guard = g := rfl
theorem guard_ret (g a) : (Instr.ret g a).guard = g := rfl
theorem guard_loop (g link disp) : (Instr.loop g link disp).guard = g := rfl
theorem guard_ld (g strong w d a cls imm) : (Instr.ld g strong w d a cls imm).guard = g := rfl
theorem guard_st (g strong w d a cls imm) : (Instr.st g strong w d a cls imm).guard = g := rfl
theorem guard_ldw (g strong w hd ha xb xc cls off) : (Instr.ldw g strong w hd ha xb xc cls off).guard = g := rfl
theorem guard_ldh (g strong hd xb cls off) : (Instr.ldh g strong hd xb cls off).guard = g := rfl
theorem guard_sth (g strong ha xb cls off) : (Instr.sth g strong ha xb cls off).guard = g := rfl
theorem guard_aadd (g w64 d a b cls) : (Instr.aadd g w64 d a b cls).guard = g := rfl
theorem guard_amax (g w64 u d a b cls) : (Instr.amax g w64 u d a b cls).guard = g := rfl
theorem guard_amin (g w64 u d a b cls) : (Instr.amin g w64 u d a b cls).guard = g := rfl
theorem guard_axchg (g w64 d a b cls) : (Instr.axchg g w64 d a b cls).guard = g := rfl
theorem guard_acas (g w64 d a b cls) : (Instr.acas g w64 d a b cls).guard = g := rfl
theorem guard_afadd (g f a b cls) : (Instr.afadd g f a b cls).guard = g := rfl
theorem guard_accres (g f d a b cls) : (Instr.accres g f d a b cls).guard = g := rfl
theorem guard_accrel (g f d a b cls) : (Instr.accrel g f d a b cls).guard = g := rfl
theorem guard_fence (g mask scope) : (Instr.fence g mask scope).guard = g := rfl
theorem guard_sync (g mask scope) : (Instr.sync g mask scope).guard = g := rfl
theorem guard_stkwait (g d a) : (Instr.stkwait g d a).guard = g := rfl
theorem guard_pwait (g ch a imm) : (Instr.pwait g ch a imm).guard = g := rfl
theorem guard_owait (g ha) : (Instr.owait g ha).guard = g := rfl
theorem guard_cread (g d num) : (Instr.cread g d num).guard = g := rfl
theorem guard_cwrite (g a num) : (Instr.cwrite g a num).guard = g := rfl
theorem guard_trap (g imm) : (Instr.trap g imm).guard = g := rfl
theorem guard_tret (g) : (Instr.tret g).guard = g := rfl
theorem guard_halt (g) : (Instr.halt g).guard = g := rfl
theorem guard_launch (g xb) : (Instr.launch g xb).guard = g := rfl
theorem guard_talloc (g ha fmt det keep) : (Instr.talloc g ha fmt det keep).guard = g := rfl
theorem guard_tfree (g ha) : (Instr.tfree g ha).guard = g := rfl
theorem guard_tsymZero (g ha fmt) : (Instr.tsymZero g ha fmt).guard = g := rfl
theorem guard_tsymConst (g ha xb fmt) : (Instr.tsymConst g ha xb fmt).guard = g := rfl
theorem guard_tsymRamp (g ha xb fmt rax) : (Instr.tsymRamp g ha xb fmt rax).guard = g := rfl
theorem guard_tsymRepeat (g hd ha) : (Instr.tsymRepeat g hd ha).guard = g := rfl
theorem guard_tprobeLo (g hd ha) : (Instr.tprobeLo g hd ha).guard = g := rfl
theorem guard_tprobeHi (g hd ha) : (Instr.tprobeHi g hd ha).guard = g := rfl
theorem guard_tretype (g ha fmt) : (Instr.tretype g ha fmt).guard = g := rfl
theorem guard_townGive (g ha own) : (Instr.townGive g ha own).guard = g := rfl
theorem guard_townTake (g ha own) : (Instr.townTake g ha own).guard = g := rfl
theorem guard_tflag (g ha det keep wdet wkeep) : (Instr.tflag g ha det keep wdet wkeep).guard = g := rfl
theorem guard_tld (g hd ha xb ix) : (Instr.tld g hd ha xb ix).guard = g := rfl
theorem guard_tst (g ha xb xc ix) : (Instr.tst g ha xb xc ix).guard = g := rfl
theorem guard_hmov (g hd ha) : (Instr.hmov g hd ha).guard = g := rfl
theorem guard_hset (g hd xb k) : (Instr.hset g hd xb k).guard = g := rfl
theorem guard_hget (g hd ha k) : (Instr.hget g hd ha k).guard = g := rfl
theorem guard_hmkt (g hd xb imm) : (Instr.hmkt g hd xb imm).guard = g := rfl
theorem guard_hmkw (g hd xb xc imm) : (Instr.hmkw g hd xb xc imm).guard = g := rfl
theorem guard_hmkv (g hd ha xb xc fmt keep) : (Instr.hmkv g hd ha xb xc fmt keep).guard = g := rfl
theorem guard_portsetBind (g ha port) : (Instr.portsetBind g ha port).guard = g := rfl
theorem guard_portsetClr (g port) : (Instr.portsetClr g port).guard = g := rfl
theorem guard_portget (g hd xc port) : (Instr.portget g hd xc port).guard = g := rfl
theorem guard_portadvStep (g xb port n) : (Instr.portadvStep g xb port n).guard = g := rfl
theorem guard_portadvSet (g xb port) : (Instr.portadvSet g xb port).guard = g := rfl
theorem guard_stgPut (g d a) : (Instr.stgPut g d a).guard = g := rfl
theorem guard_stgGet (g d a) : (Instr.stgGet g d a).guard = g := rfl
theorem guard_maput (g d a) : (Instr.maput g d a).guard = g := rfl
theorem guard_patld (g ha r0 e0 n) : (Instr.patld g ha r0 e0 n).guard = g := rfl
theorem guard_patsw (g) : (Instr.patsw g).guard = g := rfl
theorem guard_oalloc (g hd xb xc prio cow fmt geom tier write) : (Instr.oalloc g hd xb xc prio cow fmt geom tier write).guard = g := rfl
theorem guard_oref (g hd ha) : (Instr.oref g hd ha).guard = g := rfl
theorem guard_odrop (g ha) : (Instr.odrop g ha).guard = g := rfl
theorem guard_oweak (g hd ha) : (Instr.oweak g hd ha).guard = g := rfl
theorem guard_ounweak (g ha xc) : (Instr.ounweak g ha xc).guard = g := rfl
theorem guard_oupg (g hd ha xc) : (Instr.oupg g hd ha xc).guard = g := rfl
theorem guard_oprio (g ha xc prio) : (Instr.oprio g ha xc prio).guard = g := rfl
theorem guard_ostat (g hd ha k) : (Instr.ostat g hd ha k).guard = g := rfl
theorem guard_ktclr (g) : (Instr.ktclr g).guard = g := rfl
theorem guard_ktadd (g hd xb xc) : (Instr.ktadd g hd xb xc).guard = g := rfl
theorem guard_ktset (g xb xc) : (Instr.ktset g xb xc).guard = g := rfl
theorem guard_ktgetNode (g hd xb) : (Instr.ktgetNode g hd xb).guard = g := rfl
theorem guard_ktgetDepth (g hd xb) : (Instr.ktgetDepth g hd xb).guard = g := rfl
theorem guard_ktgetNodes (g hd) : (Instr.ktgetNodes g hd).guard = g := rfl
theorem guard_ktanc (g ha xb xc) : (Instr.ktanc g ha xb xc).guard = g := rfl
theorem guard_ktpos (g ha xb) : (Instr.ktpos g ha xb).guard = g := rfl
theorem guard_ktprune (g hd ha xb xc) : (Instr.ktprune g hd ha xb xc).guard = g := rfl
theorem guard_wlcfg (g xb lv word) : (Instr.wlcfg g xb lv word).guard = g := rfl
theorem guard_wltpl (g xb xc lv tpl) : (Instr.wltpl g xb xc lv tpl).guard = g := rfl
theorem guard_wlrun (g lv) : (Instr.wlrun g lv).guard = g := rfl
theorem guard_wlstop (g) : (Instr.wlstop g).guard = g := rfl
theorem guard_wlstat (g hd lv item) : (Instr.wlstat g hd lv item).guard = g := rfl
theorem guard_setseq (g xb) : (Instr.setseq g xb).guard = g := rfl
theorem guard_vadd (v) : (Instr.vadd v).guard = v.g := rfl
theorem guard_vsub (v) : (Instr.vsub v).guard = v.g := rfl
theorem guard_vmul (v) : (Instr.vmul v).guard = v.g := rfl
theorem guard_vfma (v) : (Instr.vfma v).guard = v.g := rfl
theorem guard_vfms (v) : (Instr.vfms v).guard = v.g := rfl
theorem guard_vmin (v) : (Instr.vmin v).guard = v.g := rfl
theorem guard_vmax (v) : (Instr.vmax v).guard = v.g := rfl
theorem guard_vabs (v) : (Instr.vabs v).guard = v.g := rfl
theorem guard_vneg (v) : (Instr.vneg v).guard = v.g := rfl
theorem guard_vand (v) : (Instr.vand v).guard = v.g := rfl
theorem guard_vor (v) : (Instr.vor v).guard = v.g := rfl
theorem guard_vxor (v) : (Instr.vxor v).guard = v.g := rfl
theorem guard_vnot (v) : (Instr.vnot v).guard = v.g := rfl
theorem guard_vshl (v) : (Instr.vshl v).guard = v.g := rfl
theorem guard_vshr (v) : (Instr.vshr v).guard = v.g := rfl
theorem guard_vsar (v) : (Instr.vsar v).guard = v.g := rfl
theorem guard_vcmp (v) : (Instr.vcmp v).guard = v.g := rfl
theorem guard_vsel (v) : (Instr.vsel v).guard = v.g := rfl
theorem guard_vmsk (v) : (Instr.vmsk v).guard = v.g := rfl
theorem guard_vcvt (v) : (Instr.vcvt v).guard = v.g := rfl
theorem guard_vclamp (v) : (Instr.vclamp v).guard = v.g := rfl
theorem guard_vmov (v) : (Instr.vmov v).guard = v.g := rfl
theorem guard_vsplat (v) : (Instr.vsplat v).guard = v.g := rfl
theorem guard_viota (v) : (Instr.viota v).guard = v.g := rfl
theorem guard_vexp (v) : (Instr.vexp v).guard = v.g := rfl
theorem guard_vexpq (v) : (Instr.vexpq v).guard = v.g := rfl
theorem guard_vlog2 (v) : (Instr.vlog2 v).guard = v.g := rfl
theorem guard_vrcp (v) : (Instr.vrcp v).guard = v.g := rfl
theorem guard_vrsq (v) : (Instr.vrsq v).guard = v.g := rfl
theorem guard_vrefineRcp (v) : (Instr.vrefineRcp v).guard = v.g := rfl
theorem guard_vrefineRsq (v) : (Instr.vrefineRsq v).guard = v.g := rfl
theorem guard_vrrot (v) : (Instr.vrrot v).guard = v.g := rfl
theorem guard_vcrot (v) : (Instr.vcrot v).guard = v.g := rfl
theorem guard_vrbc (v) : (Instr.vrbc v).guard = v.g := rfl
theorem guard_vcbc (v) : (Instr.vcbc v).guard = v.g := rfl
theorem guard_vrred (v) : (Instr.vrred v).guard = v.g := rfl
theorem guard_vcred (v) : (Instr.vcred v).guard = v.g := rfl
theorem guard_vrscan (v) : (Instr.vrscan v).guard = v.g := rfl
theorem guard_vshuf (v) : (Instr.vshuf v).guard = v.g := rfl
theorem guard_vscale (v) : (Instr.vscale v).guard = v.g := rfl
theorem guard_dadd (v) : (Instr.dadd v).guard = v.g := rfl
theorem guard_dsub (v) : (Instr.dsub v).guard = v.g := rfl
theorem guard_dmul (v) : (Instr.dmul v).guard = v.g := rfl
theorem guard_dfma (v) : (Instr.dfma v).guard = v.g := rfl
theorem guard_dquant (v) : (Instr.dquant v).guard = v.g := rfl
theorem guard_drnd (v) : (Instr.drnd v).guard = v.g := rfl
theorem guard_dcmp (v) : (Instr.dcmp v).guard = v.g := rfl
theorem guard_dcvtTo (v) : (Instr.dcvtTo v).guard = v.g := rfl
theorem guard_dcvtFrom (v) : (Instr.dcvtFrom v).guard = v.g := rfl
theorem guard_mcall (g rix ovm ov tag) : (Instr.mcall g rix ovm ov tag).guard = g := rfl
theorem guard_mclaim (g slot cnt) : (Instr.mclaim g slot cnt).guard = g := rfl
theorem guard_mrel (g slot cnt) : (Instr.mrel g slot cnt).guard = g := rfl
theorem guard_mwait (g k t) : (Instr.mwait g k t).guard = g := rfl
theorem guard_pcopy (p) : (Instr.pcopy p).guard = p.g := rfl
theorem guard_pgatherList (p) : (Instr.pgatherList p).guard = p.g := rfl
theorem guard_pgatherPairs (p) : (Instr.pgatherPairs p).guard = p.g := rfl
theorem guard_pscatter (p) : (Instr.pscatter p).guard = p.g := rfl
theorem guard_preduce (p) : (Instr.preduce p).guard = p.g := rfl
theorem guard_pbcast (p) : (Instr.pbcast p).guard = p.g := rfl
theorem guard_pfill (p) : (Instr.pfill p).guard = p.g := rfl
theorem guard_pinvm (p) : (Instr.pinvm p).guard = p.g := rfl
theorem guard_mend : Instr.mend.guard = Guard.always := rfl
theorem guard_mlda (ma off s0 s1) : (Instr.mlda ma off s0 s1).guard = Guard.always := rfl
theorem guard_mldb (mode ma off s0 s1) : (Instr.mldb mode ma off s0 s1).guard = Guard.always := rfl
theorem guard_mmac (mode z acc) : (Instr.mmac mode z acc).guard = Guard.always := rfl
theorem guard_mps (on) : (Instr.mps on).guard = Guard.always := rfl
theorem guard_mout (acc cnt ma off s0 s1 clr fromma ofmt sat) : (Instr.mout acc cnt ma off s0 s1 clr fromma ofmt sat).guard = Guard.always := rfl
theorem guard_mclr (mask) : (Instr.mclr mask).guard = Guard.always := rfl
theorem guard_mloop (j fromma ma target count) : (Instr.mloop j fromma ma target count).guard = Guard.always := rfl
theorem guard_mifz (target) : (Instr.mifz target).guard = Guard.always := rfl
theorem guard_mscl (mask k fromma ma) : (Instr.mscl mask k fromma ma).guard = Guard.always := rfl
theorem guard_msig (ma off s0 s1) : (Instr.msig ma off s0 s1).guard = Guard.always := rfl
theorem guard_emptyBundle (seg) : (Instr.emptyBundle seg).guard = Guard.always := rfl
theorem guard_reservedEncoding (slot) : (Instr.reservedEncoding slot).guard = Guard.always := rfl
theorem guard_resultVisible : Instr.resultVisible.guard = Guard.always := rfl
theorem guard_loadReturn : Instr.loadReturn.guard = Guard.always := rfl
theorem guard_parcelFetch : Instr.parcelFetch.guard = Guard.always := rfl
theorem guard_promotionHoldEnd : Instr.promotionHoldEnd.guard = Guard.always := rfl
theorem guard_detectionResult : Instr.detectionResult.guard = Guard.always := rfl
theorem guard_sumpReplay : Instr.sumpReplay.guard = Guard.always := rfl
theorem guard_sumpReport : Instr.sumpReport.guard = Guard.always := rfl
theorem guard_objectOpHome : Instr.objectOpHome.guard = Guard.always := rfl
theorem guard_afaddAtSlice : Instr.afaddAtSlice.guard = Guard.always := rfl
theorem guard_accessPerformed : Instr.accessPerformed.guard = Guard.always := rfl
theorem guard_pageWalkEnd : Instr.pageWalkEnd.guard = Guard.always := rfl
theorem guard_faultSettle (asid va level pte) : (Instr.faultSettle asid va level pte).guard = Guard.always := rfl
theorem guard_faultDeclare (asid va cow) : (Instr.faultDeclare asid va cow).guard = Guard.always := rfl
theorem guard_translationChange (asid va level pte) : (Instr.translationChange asid va level pte).guard = Guard.always := rfl
theorem guard_markerAtHead (ch) : (Instr.markerAtHead ch).guard = Guard.always := rfl
theorem guard_markerComplete (ch) : (Instr.markerComplete ch).guard = Guard.always := rfl
theorem guard_pageMigration (asid va frame tier phase) : (Instr.pageMigration asid va frame tier phase).guard = Guard.always := rfl
theorem guard_drainReclaim (die tier) : (Instr.drainReclaim die tier).guard = Guard.always := rfl
theorem guard_pumpCommandStart (ch) : (Instr.pumpCommandStart ch).guard = Guard.always := rfl
theorem guard_wptrAdvance (ch) : (Instr.wptrAdvance ch).guard = Guard.always := rfl
theorem guard_pumpCommandComplete (ch) : (Instr.pumpCommandComplete ch).guard = Guard.always := rfl
theorem guard_pumpFault (ch) : (Instr.pumpFault ch).guard = Guard.always := rfl
theorem guard_routineStart : Instr.routineStart.guard = Guard.always := rfl
theorem guard_arrayBlockUpdate : Instr.arrayBlockUpdate.guard = Guard.always := rfl
theorem guard_psumRowPresent : Instr.psumRowPresent.guard = Guard.always := rfl
theorem guard_outputRowWrite : Instr.outputRowWrite.guard = Guard.always := rfl
theorem guard_outputPathOperation : Instr.outputPathOperation.guard = Guard.always := rfl
theorem guard_windlassLookup : Instr.windlassLookup.guard = Guard.always := rfl
theorem guard_windlassReplayEnd : Instr.windlassReplayEnd.guard = Guard.always := rfl
theorem guard_syncRelease (core) : (Instr.syncRelease core).guard = Guard.always := rfl
theorem guard_syncRestart : Instr.syncRestart.guard = Guard.always := rfl
theorem guard_strokeBoundary : Instr.strokeBoundary.guard = Guard.always := rfl
theorem guard_launchRecordTaken (host q) : (Instr.launchRecordTaken host q).guard = Guard.always := rfl
theorem guard_bindRecordReady (die ix rec) : (Instr.bindRecordReady die ix rec).guard = Guard.always := rfl
theorem guard_preemptWrite (die ix) : (Instr.preemptWrite die ix).guard = Guard.always := rfl
theorem guard_bindRecordEnd (die ix) : (Instr.bindRecordEnd die ix).guard = Guard.always := rfl
theorem guard_dispatchBind (die ix) : (Instr.dispatchBind die ix).guard = Guard.always := rfl
theorem guard_preemptArrival : Instr.preemptArrival.guard = Guard.always := rfl
theorem guard_contextSave : Instr.contextSave.guard = Guard.always := rfl
theorem guard_haltComplete : Instr.haltComplete.guard = Guard.always := rfl
theorem guard_signatureCompare : Instr.signatureCompare.guard = Guard.always := rfl
theorem guard_rewindReissue : Instr.rewindReissue.guard = Guard.always := rfl
theorem guard_abortCompletion : Instr.abortCompletion.guard = Guard.always := rfl
theorem guard_eccScrub (pa) : (Instr.eccScrub pa).guard = Guard.always := rfl
theorem guard_softError (unc arr core ix) : (Instr.softError unc arr core ix).guard = Guard.always := rfl
theorem guard_ascreate : Instr.ascreate.guard = Guard.always := rfl
theorem guard_asdestroy (asid) : (Instr.asdestroy asid).guard = Guard.always := rfl
theorem guard_load (asid va len dst) : (Instr.load asid va len dst).guard = Guard.always := rfl
theorem guard_map (kind asid va len bus attr) : (Instr.map kind asid va len bus attr).guard = Guard.always := rfl
theorem guard_qcreate (q log cls res asid base) : (Instr.qcreate q log cls res asid base).guard = Guard.always := rfl
theorem guard_qdestroy (q) : (Instr.qdestroy q).guard = Guard.always := rfl
theorem guard_drvread (drive lba asid oid page cnt) : (Instr.drvread drive lba asid oid page cnt).guard = Guard.always := rfl
theorem guard_drvwrite (drive lba asid oid page cnt) : (Instr.drvwrite drive lba asid oid page cnt).guard = Guard.always := rfl
theorem guard_attest (nonce) : (Instr.attest nonce).guard = Guard.always := rfl
theorem guard_jobend (job) : (Instr.jobend job).guard = Guard.always := rfl
theorem guard_driveCompletion (ok data) : (Instr.driveCompletion ok data).guard = Guard.always := rfl
theorem guard_qhead (q v) : (Instr.qhead q v).guard = Guard.always := rfl
theorem guard_barRegisterWrite (off v) : (Instr.barRegisterWrite off v).guard = Guard.always := rfl
theorem guard_bar4Access (write off v) : (Instr.bar4Access write off v).guard = Guard.always := rfl
theorem guard_functionLevelReset : Instr.functionLevelReset.guard = Guard.always := rfl
theorem guard_conventionalReset (bootErr fabric) : (Instr.conventionalReset bootErr fabric).guard = Guard.always := rfl
theorem guard_fabricPortDown (port) : (Instr.fabricPortDown port).guard = Guard.always := rfl
theorem guard_packageUnreachable (pkg) : (Instr.packageUnreachable pkg).guard = Guard.always := rfl
theorem guard_strokeDrift : Instr.strokeDrift.guard = Guard.always := rfl
theorem guard_thermalNearLimit (die preempt) : (Instr.thermalNearLimit die preempt).guard = Guard.always := rfl
theorem guard_thermalAbsoluteLimit : Instr.thermalAbsoluteLimit.guard = Guard.always := rfl
theorem guard_launchRingWrite (off v) : (Instr.launchRingWrite off v).guard = Guard.always := rfl
theorem guard_mbxdb (v) : (Instr.mbxdb v).guard = Guard.always := rfl

end Sys2Proof.Machine
end

