-- ==== Sys2Proof/Laws/Ops.lean ====
section
/-! SUPPORT. What each shared operation over a core can do, said once: the fields it may change. -/

namespace Sys2Proof.Machine

open Sys2Proof

/-! ### Guards -/

theorem State.guarded_true {s : State} {g : Guard} {f : State → State} (h : s.core.guard g = true) :
    s.guarded g f = .next (f s) := by simp [State.guarded, h]

theorem State.guarded_false {s : State} {g : Guard} {f : State → State} (h : s.core.guard g = false) :
    s.guarded g f = .next s := by simp [State.guarded, h]

theorem Core.guard_always (c : Core) : c.guard Guard.always = true := by simp [Core.guard, Core.q, Guard.always]

/-- A guarded operation answers a next state, whichever way its guard reads. -/
theorem State.guarded_next (s : State) (g : Guard) (f : State → State) :
    ∃ t, s.guarded g f = .next t ∧ (t = s ∨ t = f s) := by
  cases h : s.core.guard g
  · exact ⟨s, guarded_false h, .inl rfl⟩
  · exact ⟨f s, guarded_true h, .inr rfl⟩

/-! ### Scratchpad and tiles -/

theorem Core.mend_frame (c : Core) (arr lo n : Nat) : ∃ b, c.mend arr lo n = { c with badWords := b } := by
  unfold Core.mend; split
  · exact ⟨c.badWords, rfl⟩
  · exact ⟨_, rfl⟩

theorem Core.putSp_frame (c : Core) (w : Nat) (l : List Word) : ∃ sp b, c.putSp w l = { c with sp := sp, badWords := b } := by
  obtain ⟨b, h⟩ := c.mend_frame 1 w l.length
  exact ⟨_, b, by rw [Core.putSp, h]⟩

theorem Core.putRow_frame (c : Core) (e : Tile) (r : Nat) (els : List Nat) :
    ∃ sp b, c.putRow e r els = { c with sp := sp, badWords := b } := c.putSp_frame _ _

theorem Core.dropRep_frame (c : Core) (e : Tile) : ∃ m, c.dropRep e = { c with tiles := m } := by
  unfold Core.dropRep; split
  · exact ⟨_, rfl⟩
  · exact ⟨c.tiles, rfl⟩

theorem Core.giveBack_frame (c : Core) (e : Tile) : ∃ f n, c.giveBack e = { c with free := f, r := { c.r with freegr := n } } := by
  unfold Core.giveBack; split
  · exact ⟨c.free, c.r.freegr, rfl⟩
  · exact ⟨_, _, rfl⟩

theorem Core.unplan_frame (c : Core) (run : Option (Nat × Nat)) : ∃ f, c.unplan run = { c with free := f } := by
  cases run with
  | none => exact ⟨c.free, rfl⟩
  | some x => exact ⟨_, rfl⟩

/-- What a promotion may change: scratchpad, free map, tile table, granule count, and which words are uncorrectable. -/
theorem Core.promoteOne_frame (c : Core) (t : Nat) (run : Option (Nat × Nat)) :
    ∃ sp f m b n, c.promoteOne t run = { c with sp := sp, free := f, tiles := m, badWords := b, r := { c.r with freegr := n } } := by
  have rows : ∀ (l : List Nat) (e : Tile) (f : Nat → List Nat) (c : Core),
      ∃ sp b, l.foldl (fun c r => c.putRow e r (f r)) c = { c with sp := sp, badWords := b } := by
    intro l e f
    induction l with
    | nil => intro c; exact ⟨c.sp, c.badWords, rfl⟩
    | cons x l ih =>
      intro c
      obtain ⟨sp, b, h⟩ := c.putRow_frame e x (f x)
      obtain ⟨sp', b', h'⟩ := ih (c.putRow e x (f x))
      exact ⟨sp', b', by rw [List.foldl_cons, h', h]⟩
  unfold Core.promoteOne
  dsimp only
  split
  · obtain ⟨f, h⟩ := c.unplan_frame run
    exact ⟨c.sp, f, c.tiles, c.badWords, c.r.freegr, h⟩
  · obtain ⟨m, hm⟩ := c.dropRep_frame (c.tile t)
    rw [hm]
    cases run with
    | none =>
      obtain ⟨sp, b, h⟩ := rows (List.range 16) _ (fun r => (tab 16 (fun r => c.tileRow t r)).getD r []) _
      exact ⟨sp, c.free, _, b, c.r.freegr, h⟩
    | some x =>
      obtain ⟨sp, b, h⟩ := rows (List.range 16) _ (fun r => (tab 16 (fun r => c.tileRow t r)).getD r []) _
      exact ⟨sp, c.free, _, b, _, h⟩

/-- An abandoned hold gives granules back and changes nothing else. -/
theorem Core.dropPromo_frame (c : Core) :
    ∃ f p, c.dropPromo = { c with free := f, hold := { c.hold with promo := p } } := by
  have all : ∀ (l : List (Nat × Option (Nat × Nat))) (c : Core), ∃ f, l.foldl (fun c x => c.unplan x.2) c = { c with free := f } := by
    intro l
    induction l with
    | nil => intro c; exact ⟨c.free, rfl⟩
    | cons x l ih =>
      intro c
      obtain ⟨f, h⟩ := c.unplan_frame x.2
      obtain ⟨f', h'⟩ := ih (c.unplan x.2)
      exact ⟨f', by rw [List.foldl_cons, h', h]⟩
  unfold Core.dropPromo
  split
  · obtain ⟨f, h⟩ := all _ c
    exact ⟨f, none, by rw [h]⟩
  · exact ⟨c.free, c.hold.promo, rfl⟩

/-! ### Traps -/

theorem Core.suspend_frame (c : Core) (past : Nat) : ∃ w k, c.suspend past = { c with wl := w, r := { c.r with kstat := k } } := by
  unfold Core.suspend; split
  · exact ⟨_, _, rfl⟩
  · exact ⟨c.wl, c.r.kstat, rfl⟩

/-- A trap that starts a handler: what changes, and that of KSTAT only INH and WLACT do. -/
theorem Core.enterTrap_starts (c : Core) (now : Nat) (t : Trap) (pc : ParcelIx) (past : Nat) (h : Nat)
    (hh : c.kern.handler = some h) (hg : c.r.gsize ≤ 1) (hi : c.r.inh = false) (he : ∀ f n e d, c.task.phase ≠ .ending f n e d) :
    ∃ f p w kst, c.enterTrap now t pc past =
      { c with free := f, wl := w, hold := { obj := p }, flight := engineWrites c.flight, captured := c.captured ++ capture now c.flight ++ c.halted, halted := [], r := ({ c.r with kstat := kst, tcause := t.cause, tpc := (if c.wl.active then c.wl.runIx else pc).setWidth 64, taddr := t.addr, tinfo := t.info, prcount := flightCount (c.captured ++ capture now c.flight ++ c.halted) } : Arch).setInh true, pc := BitVec.ofNat 47 (c.kern.text + h), declared := c.declared.filter (fun d => match d.2.2 with | some n => decide (n < c.iss.seq) | none => false), iss := { c.iss with ready := now + 4, drain := true, written := [], seq := c.iss.seq + tripSeqs } } ∧
      ∀ b : Nat, b ≠ 1 → kst.getLsbD b = c.r.kstat.getLsbD b := by
  have hsus : ∃ w kst, c.suspend past = { c with wl := w, r := { c.r with kstat := kst } } ∧
      ∀ b : Nat, b ≠ 1 → kst.getLsbD b = c.r.kstat.getLsbD b := by
    unfold Core.suspend; split
    · exact ⟨_, _, rfl, fun b hb => (Arch.getLsbD_setWlact c.r false b).trans (if_neg hb)⟩
    · exact ⟨c.wl, c.r.kstat, rfl, fun _ _ => rfl⟩
  obtain ⟨w, kst, hw, hkst⟩ := hsus
  obtain ⟨f, p, hf⟩ := (c.suspend past).dropPromo_frame
  have hd : (c.r.inh || decide (1 < c.r.gsize)) = false := by rw [hi]; simp; omega
  unfold Core.enterTrap
  split
  · rename_i f n e d hph; exact absurd hph (he _ _ _ _)
  · rw [hh]; dsimp only; rw [hd, if_neg (by simp), hf, hw]
    exact ⟨f, _, w, kst, rfl, hkst⟩

theorem Core.dropItile_frame (c : Core) : ∃ m w f, c.dropItile = { c with tiles := m, wl := w, flight := f } ∧ ∀ p ∈ f, p ∈ c.flight := by
  unfold Core.dropItile; split
  · exact ⟨_, _, _, rfl, fun _ h => (List.mem_filter.mp h).1⟩
  · exact ⟨c.tiles, c.wl, c.flight, rfl, fun _ h => h⟩

end Sys2Proof.Machine
end

