-- ==== Sys2Proof/Laws/Sparse.lean ====
section
/-! SUPPORT. Laws of sparse arrays: reading after writing, and that every operation keeps the canonical form. -/

namespace Sys2Proof

variable {α : Type} [DecidableEq α] {d : α}

/-! ### The canonical form -/

@[simp] theorem Sparse.wf_nil : Sparse.wf d ([] : Sparse α) = true := rfl

theorem Sparse.wfFrom_cons {lo k : Nat} {v : α} {t : Sparse α} :
    Sparse.wfFrom d lo ((k, v) :: t) = true ↔ lo ≤ k ∧ v ≠ d ∧ Sparse.wfFrom d (k + 1) t = true := by
  simp [Sparse.wfFrom, and_assoc]

theorem Sparse.wfFrom_mono {m : Sparse α} {lo hi : Nat} (h : lo ≤ hi) (hm : Sparse.wfFrom d hi m = true) :
    Sparse.wfFrom d lo m = true := by
  cases m with
  | nil => rfl
  | cons e t =>
    obtain ⟨h1, h2, h3⟩ := Sparse.wfFrom_cons.1 hm
    exact Sparse.wfFrom_cons.2 ⟨by omega, h2, h3⟩

theorem Sparse.wfFrom_put {m : Sparse α} {lo i : Nat} {v : α} (hi : lo ≤ i) (hv : v ≠ d)
    (hm : Sparse.wfFrom d lo m = true) : Sparse.wfFrom d lo (m.put i v) = true := by
  induction m generalizing lo with
  | nil => exact Sparse.wfFrom_cons.2 ⟨hi, hv, rfl⟩
  | cons e t ih =>
    obtain ⟨k, w⟩ := e
    obtain ⟨h1, h2, h3⟩ := Sparse.wfFrom_cons.1 hm
    rcases Nat.lt_trichotomy i k with h | h | h
    · simp only [Sparse.put, if_neg (Nat.ne_of_lt h), if_pos h]
      exact Sparse.wfFrom_cons.2 ⟨hi, hv, Sparse.wfFrom_cons.2 ⟨h, h2, h3⟩⟩
    · subst h
      simp only [Sparse.put, if_pos]
      exact Sparse.wfFrom_cons.2 ⟨hi, hv, h3⟩
    · simp only [Sparse.put, if_neg (Nat.ne_of_gt h), if_neg (Nat.lt_asymm h)]
      exact Sparse.wfFrom_cons.2 ⟨h1, h2, ih h h3⟩

theorem Sparse.wfFrom_del {m : Sparse α} {lo i : Nat} (hm : Sparse.wfFrom d lo m = true) :
    Sparse.wfFrom d lo (m.del i) = true := by
  induction m generalizing lo with
  | nil => rfl
  | cons e t ih =>
    obtain ⟨k, w⟩ := e
    obtain ⟨h1, h2, h3⟩ := Sparse.wfFrom_cons.1 hm
    simp only [Sparse.del]
    split
    · exact Sparse.wfFrom_mono (by omega) h3
    · split
      · exact hm
      · exact Sparse.wfFrom_cons.2 ⟨h1, h2, ih h3⟩

theorem Sparse.wfFrom_set {m : Sparse α} {lo i : Nat} {v : α} (hi : lo ≤ i) (hm : Sparse.wfFrom d lo m = true) :
    Sparse.wfFrom d lo (m.set d i v) = true := by
  unfold Sparse.set
  split
  · exact Sparse.wfFrom_del hm
  · exact Sparse.wfFrom_put hi ‹_› hm

/-- Writing one value keeps the canonical form. -/
theorem Sparse.wf_set {m : Sparse α} {i : Nat} {v : α} (hm : Sparse.wf d m = true) : Sparse.wf d (m.set d i v) = true :=
  Sparse.wfFrom_set (Nat.zero_le i) hm

/-- Writing consecutive values keeps the canonical form. -/
theorem Sparse.wf_setMany {m : Sparse α} {i : Nat} {l : List α} (hm : Sparse.wf d m = true) :
    Sparse.wf d (Sparse.setMany d m i l) = true := by
  induction l generalizing m i with
  | nil => exact hm
  | cons v t ih => exact ih (Sparse.wf_set hm)

/-- A value set below a bound leaves every entry below it. -/
theorem Sparse.mem_set_lt {m : Sparse α} {i b : Nat} {v : α} (hi : i < b) (hm : ∀ e ∈ m, e.1 < b) : ∀ e ∈ m.set d i v, e.1 < b := by
  induction m with
  | nil =>
    intro e he
    unfold Sparse.set at he
    split at he
    · simp [Sparse.del] at he
    · simp only [Sparse.put, List.mem_singleton] at he; subst he; exact hi
  | cons x t ih =>
    obtain ⟨k, w⟩ := x
    have ht := ih fun e he => hm e (by simp [he])
    have hx := hm (k, w) (by simp)
    intro e he
    unfold Sparse.set at he ht
    split at he
    · rename_i hv; rw [if_pos hv] at ht
      simp only [Sparse.del] at he
      split at he
      · exact hm e (List.mem_cons_of_mem _ he)
      · split at he
        · exact hm e he
        · rcases List.mem_cons.mp he with rfl | he
          · exact hx
          · exact ht e he
    · rename_i hv; rw [if_neg hv] at ht
      simp only [Sparse.put] at he
      split at he
      · rcases List.mem_cons.mp he with rfl | he
        · exact hi
        · exact hm e (List.mem_cons_of_mem _ he)
      · split at he
        · rcases List.mem_cons.mp he with rfl | he
          · exact hi
          · exact hm e he
        · rcases List.mem_cons.mp he with rfl | he
          · exact hx
          · exact ht e he

theorem Sparse.wfFrom_filter {m : Sparse α} {lo : Nat} {p : Nat × α → Bool} (hm : Sparse.wfFrom d lo m = true) :
    Sparse.wfFrom d lo (m.filter p) = true := by
  induction m generalizing lo with
  | nil => rfl
  | cons e t ih =>
    obtain ⟨k, w⟩ := e
    obtain ⟨h1, h2, h3⟩ := Sparse.wfFrom_cons.1 hm
    rw [List.filter_cons]
    split
    · exact Sparse.wfFrom_cons.2 ⟨h1, h2, ih h3⟩
    · exact Sparse.wfFrom_mono (by omega) (ih h3)

/-- Leaving entries out keeps the canonical form. -/
theorem Sparse.wf_filter {m : Sparse α} {p : Nat × α → Bool} (hm : Sparse.wf d m = true) : Sparse.wf d (m.filter p) = true :=
  Sparse.wfFrom_filter hm

/-- Entries below an address before entries from it on. -/
theorem Sparse.wfFrom_append {l m : Sparse α} {lo b : Nat} (hb : lo ≤ b) (hl : Sparse.wfFrom d lo l = true)
    (hlt : ∀ e ∈ l, e.1 < b) (hm : Sparse.wfFrom d b m = true) : Sparse.wfFrom d lo (l ++ m) = true := by
  induction l generalizing lo with
  | nil => exact Sparse.wfFrom_mono hb hm
  | cons e t ih =>
    obtain ⟨k, w⟩ := e
    obtain ⟨h1, h2, h3⟩ := Sparse.wfFrom_cons.1 hl
    exact Sparse.wfFrom_cons.2
      ⟨h1, h2, ih (hlt (k, w) List.mem_cons_self) h3 (fun e he => hlt e (List.mem_cons_of_mem _ he))⟩

theorem Sparse.wfFrom_raise {m : Sparse α} {lo b : Nat} (hm : Sparse.wfFrom d lo m = true) (hge : ∀ e ∈ m, b ≤ e.1) :
    Sparse.wfFrom d b m = true := by
  cases m with
  | nil => rfl
  | cons e t =>
    obtain ⟨_, h2, h3⟩ := Sparse.wfFrom_cons.1 hm
    exact Sparse.wfFrom_cons.2 ⟨hge e List.mem_cons_self, h2, h3⟩

/-! ### Reading after writing -/

theorem Sparse.get_below {m : Sparse α} {lo i : Nat} (hm : Sparse.wfFrom d lo m = true) (hi : i < lo) : m.get d i = d := by
  cases m with
  | nil => rfl
  | cons e t =>
    obtain ⟨k, w⟩ := e
    obtain ⟨h1, _, _⟩ := Sparse.wfFrom_cons.1 hm
    have : i < k := by omega
    simp [Sparse.get, Nat.ne_of_lt this, this]

omit [DecidableEq α] in
theorem Sparse.get_put (m : Sparse α) (i j : Nat) (v : α) : (m.put i v).get d j = if j = i then v else m.get d j := by
  induction m with
  | nil =>
    by_cases h : j = i <;> simp [Sparse.put, Sparse.get, h]
  | cons e t ih =>
    obtain ⟨k, w⟩ := e
    rcases Nat.lt_trichotomy i k with h | h | h
    · simp only [Sparse.put, if_neg (Nat.ne_of_lt h), if_pos h, Sparse.get]
      by_cases hj : j = i
      · simp [hj]
      · by_cases hk : j < i
        · have : j < k := by omega
          simp [hj, hk, Nat.ne_of_lt this, this]
        · simp [hj, hk]
    · subst h
      simp only [Sparse.put, if_pos, Sparse.get]
      split <;> rfl
    · simp only [Sparse.put, if_neg (Nat.ne_of_gt h), if_neg (Nat.lt_asymm h), Sparse.get, ih]
      by_cases hj : j = i
      · subst hj
        simp [Nat.ne_of_gt h, Nat.lt_asymm h]
      · simp [hj]

theorem Sparse.get_del {m : Sparse α} {lo : Nat} (hm : Sparse.wfFrom d lo m = true) (i j : Nat) :
    (m.del i).get d j = if j = i then d else m.get d j := by
  induction m generalizing lo with
  | nil => simp [Sparse.del, Sparse.get]
  | cons e t ih =>
    obtain ⟨k, w⟩ := e
    obtain ⟨_, _, h3⟩ := Sparse.wfFrom_cons.1 hm
    rcases Nat.lt_trichotomy i k with h | h | h
    · simp only [Sparse.del, if_neg (Nat.ne_of_lt h), if_pos h, Sparse.get]
      by_cases hj : j = i
      · subst hj
        simp [Nat.ne_of_lt h, h]
      · simp [hj]
    · subst h
      simp only [Sparse.del, if_pos, Sparse.get]
      by_cases hj : j = i
      · subst hj
        simpa using Sparse.get_below h3 (Nat.lt_succ_self j)
      · by_cases hk : j < i
        · simp [hj, hk, Sparse.get_below h3 (Nat.lt_succ_of_lt hk)]
        · simp [hj, hk]
    · simp only [Sparse.del, if_neg (Nat.ne_of_gt h), if_neg (Nat.lt_asymm h), Sparse.get, ih h3]
      by_cases hj : j = i
      · subst hj
        simp [Nat.ne_of_gt h, Nat.lt_asymm h]
      · simp [hj]

/-- Reading after one write to an array in canonical form. -/
theorem Sparse.get_set {m : Sparse α} (hm : Sparse.wf d m = true) (i j : Nat) (v : α) :
    (m.set d i v).get d j = if j = i then v else m.get d j := by
  unfold Sparse.set
  split
  · subst v
    exact Sparse.get_del hm i j
  · exact Sparse.get_put m i j v

/-- Reading after consecutive writes. -/
theorem Sparse.get_setMany {m : Sparse α} (hm : Sparse.wf d m = true) (i j : Nat) (l : List α) :
    (Sparse.setMany d m i l).get d j = if i ≤ j ∧ j < i + l.length then l.getD (j - i) d else m.get d j := by
  induction l generalizing m i with
  | nil =>
    have h : ¬(i ≤ j ∧ j < i + ([] : List α).length) := by simp
    rw [if_neg h]
    rfl
  | cons v t ih =>
    rw [Sparse.setMany, ih (Sparse.wf_set hm), Sparse.get_set hm]
    rcases Nat.lt_trichotomy j i with h | h | h
    · have h1 : ¬(i + 1 ≤ j ∧ j < i + 1 + t.length) := by omega
      have h2 : ¬(i ≤ j ∧ j < i + (v :: t).length) := by omega
      rw [if_neg h1, if_neg h2, if_neg (Nat.ne_of_lt h)]
    · subst h
      have h1 : ¬(j + 1 ≤ j ∧ j < j + 1 + t.length) := by omega
      have h2 : j ≤ j ∧ j < j + (v :: t).length := ⟨Nat.le_refl j, by simp⟩
      rw [if_neg h1, if_pos h2, if_pos rfl, Nat.sub_self]
      rfl
    · have e : j - i = j - (i + 1) + 1 := by omega
      by_cases hb : j < i + 1 + t.length
      · have h2 : i ≤ j ∧ j < i + (v :: t).length := ⟨by omega, by simp; omega⟩
        rw [if_pos ⟨h, hb⟩, if_pos h2, e, List.getD_cons_succ]
      · have h1 : ¬(i + 1 ≤ j ∧ j < i + 1 + t.length) := by omega
        have h2 : ¬(i ≤ j ∧ j < i + (v :: t).length) := by simp; omega
        rw [if_neg h1, if_neg h2, if_neg (Nat.ne_of_gt h)]

omit [DecidableEq α] in
@[simp] theorem Sparse.getMany_length (m : Sparse α) (i n : Nat) : (Sparse.getMany d m i n).length = n := by
  induction n generalizing i with
  | zero => rfl
  | succ n ih => simp [Sparse.getMany, ih]

omit [DecidableEq α] in
theorem Sparse.getMany_getD (m : Sparse α) (i n k : Nat) (h : k < n) : (Sparse.getMany d m i n).getD k d = m.get d (i + k) := by
  induction n generalizing i k with
  | zero => omega
  | succ n ih =>
    cases k with
    | zero => rfl
    | succ k =>
      rw [Sparse.getMany, List.getD_cons_succ, ih (i + 1) k (by omega)]
      congr 1
      omega

end Sys2Proof
end

