-- ==== Sys2Proof/Laws/State.lean ====
section
/-! SUPPORT. One lemma per field per update of the registers, of a core and of the machine. -/

namespace Sys2Proof.Machine

open Sys2Proof

/-! ### Registers -/

@[simp] theorem Arch.setX_x (r : Arch) (d : XReg) (v : Word) : (r.setX d v).x = if d = 0 then r.x else r.x.set d v := by unfold Arch.setX; split <;> rfl
@[simp] theorem Arch.setX_q (r : Arch) (d : XReg) (v : Word) : (r.setX d v).q = r.q := by unfold Arch.setX; split <;> rfl
@[simp] theorem Arch.setX_h (r : Arch) (d : XReg) (v : Word) : (r.setX d v).h = r.h := by unfold Arch.setX; split <;> rfl
@[simp] theorem Arch.setX_ma (r : Arch) (d : XReg) (v : Word) : (r.setX d v).ma = r.ma := by unfold Arch.setX; split <;> rfl
@[simp] theorem Arch.setX_stg (r : Arch) (d : XReg) (v : Word) : (r.setX d v).stg = r.stg := by unfold Arch.setX; split <;> rfl
@[simp] theorem Arch.setX_kstat (r : Arch) (d : XReg) (v : Word) : (r.setX d v).kstat = r.kstat := by unfold Arch.setX; split <;> rfl
@[simp] theorem Arch.setX_tcause (r : Arch) (d : XReg) (v : Word) : (r.setX d v).tcause = r.tcause := by unfold Arch.setX; split <;> rfl
@[simp] theorem Arch.setX_tpc (r : Arch) (d : XReg) (v : Word) : (r.setX d v).tpc = r.tpc := by unfold Arch.setX; split <;> rfl
@[simp] theorem Arch.setX_taddr (r : Arch) (d : XReg) (v : Word) : (r.setX d v).taddr = r.taddr := by unfold Arch.setX; split <;> rfl
@[simp] theorem Arch.setX_tinfo (r : Arch) (d : XReg) (v : Word) : (r.setX d v).tinfo = r.tinfo := by unfold Arch.setX; split <;> rfl
@[simp] theorem Arch.setX_excmask (r : Arch) (d : XReg) (v : Word) : (r.setX d v).excmask = r.excmask := by unfold Arch.setX; split <;> rfl
@[simp] theorem Arch.setX_fpstat (r : Arch) (d : XReg) (v : Word) : (r.setX d v).fpstat = r.fpstat := by unfold Arch.setX; split <;> rfl
@[simp] theorem Arch.setX_decstat (r : Arch) (d : XReg) (v : Word) : (r.setX d v).decstat = r.decstat := by unfold Arch.setX; split <;> rfl
@[simp] theorem Arch.setX_rmode (r : Arch) (d : XReg) (v : Word) : (r.setX d v).rmode = r.rmode := by unfold Arch.setX; split <;> rfl
@[simp] theorem Arch.setX_tasknum (r : Arch) (d : XReg) (v : Word) : (r.setX d v).tasknum = r.tasknum := by unfold Arch.setX; split <;> rfl
@[simp] theorem Arch.setX_seqlen (r : Arch) (d : XReg) (v : Word) : (r.setX d v).seqlen = r.seqlen := by unfold Arch.setX; split <;> rfl
@[simp] theorem Arch.setX_cycles (r : Arch) (d : XReg) (v : Word) : (r.setX d v).cycles = r.cycles := by unfold Arch.setX; split <;> rfl
@[simp] theorem Arch.setX_segcount (r : Arch) (d : XReg) (v : Word) : (r.setX d v).segcount = r.segcount := by unfold Arch.setX; split <;> rfl
@[simp] theorem Arch.setX_rwcount (r : Arch) (d : XReg) (v : Word) : (r.setX d v).rwcount = r.rwcount := by unfold Arch.setX; split <;> rfl
@[simp] theorem Arch.setX_scalemiss (r : Arch) (d : XReg) (v : Word) : (r.setX d v).scalemiss = r.scalemiss := by unfold Arch.setX; split <;> rfl
@[simp] theorem Arch.setX_freegr (r : Arch) (d : XReg) (v : Word) : (r.setX d v).freegr = r.freegr := by unfold Arch.setX; split <;> rfl
@[simp] theorem Arch.setX_l1cfg (r : Arch) (d : XReg) (v : Word) : (r.setX d v).l1cfg = r.l1cfg := by unfold Arch.setX; split <;> rfl
@[simp] theorem Arch.setX_prcount (r : Arch) (d : XReg) (v : Word) : (r.setX d v).prcount = r.prcount := by unfold Arch.setX; split <;> rfl
@[simp] theorem Arch.setX_patbank (r : Arch) (d : XReg) (v : Word) : (r.setX d v).patbank = r.patbank := by unfold Arch.setX; split <;> rfl
@[simp] theorem Arch.setX_wptr (r : Arch) (d : XReg) (v : Word) : (r.setX d v).wptr = r.wptr := by unfold Arch.setX; split <;> rfl

@[simp] theorem Arch.setQ_x (r : Arch) (d : QReg) (v : Bool) : (r.setQ d v).x = r.x := by unfold Arch.setQ; split <;> rfl
@[simp] theorem Arch.setQ_q (r : Arch) (d : QReg) (v : Bool) : (r.setQ d v).q = if d = 0 then r.q else r.q.set d v := by unfold Arch.setQ; split <;> rfl
@[simp] theorem Arch.setQ_h (r : Arch) (d : QReg) (v : Bool) : (r.setQ d v).h = r.h := by unfold Arch.setQ; split <;> rfl
@[simp] theorem Arch.setQ_ma (r : Arch) (d : QReg) (v : Bool) : (r.setQ d v).ma = r.ma := by unfold Arch.setQ; split <;> rfl
@[simp] theorem Arch.setQ_stg (r : Arch) (d : QReg) (v : Bool) : (r.setQ d v).stg = r.stg := by unfold Arch.setQ; split <;> rfl
@[simp] theorem Arch.setQ_kstat (r : Arch) (d : QReg) (v : Bool) : (r.setQ d v).kstat = r.kstat := by unfold Arch.setQ; split <;> rfl
@[simp] theorem Arch.setQ_tcause (r : Arch) (d : QReg) (v : Bool) : (r.setQ d v).tcause = r.tcause := by unfold Arch.setQ; split <;> rfl
@[simp] theorem Arch.setQ_tpc (r : Arch) (d : QReg) (v : Bool) : (r.setQ d v).tpc = r.tpc := by unfold Arch.setQ; split <;> rfl
@[simp] theorem Arch.setQ_taddr (r : Arch) (d : QReg) (v : Bool) : (r.setQ d v).taddr = r.taddr := by unfold Arch.setQ; split <;> rfl
@[simp] theorem Arch.setQ_tinfo (r : Arch) (d : QReg) (v : Bool) : (r.setQ d v).tinfo = r.tinfo := by unfold Arch.setQ; split <;> rfl
@[simp] theorem Arch.setQ_excmask (r : Arch) (d : QReg) (v : Bool) : (r.setQ d v).excmask = r.excmask := by unfold Arch.setQ; split <;> rfl
@[simp] theorem Arch.setQ_fpstat (r : Arch) (d : QReg) (v : Bool) : (r.setQ d v).fpstat = r.fpstat := by unfold Arch.setQ; split <;> rfl
@[simp] theorem Arch.setQ_decstat (r : Arch) (d : QReg) (v : Bool) : (r.setQ d v).decstat = r.decstat := by unfold Arch.setQ; split <;> rfl
@[simp] theorem Arch.setQ_rmode (r : Arch) (d : QReg) (v : Bool) : (r.setQ d v).rmode = r.rmode := by unfold Arch.setQ; split <;> rfl
@[simp] theorem Arch.setQ_tasknum (r : Arch) (d : QReg) (v : Bool) : (r.setQ d v).tasknum = r.tasknum := by unfold Arch.setQ; split <;> rfl
@[simp] theorem Arch.setQ_seqlen (r : Arch) (d : QReg) (v : Bool) : (r.setQ d v).seqlen = r.seqlen := by unfold Arch.setQ; split <;> rfl
@[simp] theorem Arch.setQ_cycles (r : Arch) (d : QReg) (v : Bool) : (r.setQ d v).cycles = r.cycles := by unfold Arch.setQ; split <;> rfl
@[simp] theorem Arch.setQ_segcount (r : Arch) (d : QReg) (v : Bool) : (r.setQ d v).segcount = r.segcount := by unfold Arch.setQ; split <;> rfl
@[simp] theorem Arch.setQ_rwcount (r : Arch) (d : QReg) (v : Bool) : (r.setQ d v).rwcount = r.rwcount := by unfold Arch.setQ; split <;> rfl
@[simp] theorem Arch.setQ_scalemiss (r : Arch) (d : QReg) (v : Bool) : (r.setQ d v).scalemiss = r.scalemiss := by unfold Arch.setQ; split <;> rfl
@[simp] theorem Arch.setQ_freegr (r : Arch) (d : QReg) (v : Bool) : (r.setQ d v).freegr = r.freegr := by unfold Arch.setQ; split <;> rfl
@[simp] theorem Arch.setQ_l1cfg (r : Arch) (d : QReg) (v : Bool) : (r.setQ d v).l1cfg = r.l1cfg := by unfold Arch.setQ; split <;> rfl
@[simp] theorem Arch.setQ_prcount (r : Arch) (d : QReg) (v : Bool) : (r.setQ d v).prcount = r.prcount := by unfold Arch.setQ; split <;> rfl
@[simp] theorem Arch.setQ_patbank (r : Arch) (d : QReg) (v : Bool) : (r.setQ d v).patbank = r.patbank := by unfold Arch.setQ; split <;> rfl
@[simp] theorem Arch.setQ_wptr (r : Arch) (d : QReg) (v : Bool) : (r.setQ d v).wptr = r.wptr := by unfold Arch.setQ; split <;> rfl

@[simp] theorem Arch.setH_x (r : Arch) (d : HReg) (v : Handle) : (r.setH d v).x = r.x := rfl
@[simp] theorem Arch.setH_q (r : Arch) (d : HReg) (v : Handle) : (r.setH d v).q = r.q := rfl
@[simp] theorem Arch.setH_h (r : Arch) (d : HReg) (v : Handle) : (r.setH d v).h = r.h.set d v := rfl
@[simp] theorem Arch.setH_ma (r : Arch) (d : HReg) (v : Handle) : (r.setH d v).ma = r.ma := rfl
@[simp] theorem Arch.setH_stg (r : Arch) (d : HReg) (v : Handle) : (r.setH d v).stg = r.stg := rfl
@[simp] theorem Arch.setH_kstat (r : Arch) (d : HReg) (v : Handle) : (r.setH d v).kstat = r.kstat := rfl
@[simp] theorem Arch.setH_tcause (r : Arch) (d : HReg) (v : Handle) : (r.setH d v).tcause = r.tcause := rfl
@[simp] theorem Arch.setH_tpc (r : Arch) (d : HReg) (v : Handle) : (r.setH d v).tpc = r.tpc := rfl
@[simp] theorem Arch.setH_taddr (r : Arch) (d : HReg) (v : Handle) : (r.setH d v).taddr = r.taddr := rfl
@[simp] theorem Arch.setH_tinfo (r : Arch) (d : HReg) (v : Handle) : (r.setH d v).tinfo = r.tinfo := rfl
@[simp] theorem Arch.setH_excmask (r : Arch) (d : HReg) (v : Handle) : (r.setH d v).excmask = r.excmask := rfl
@[simp] theorem Arch.setH_fpstat (r : Arch) (d : HReg) (v : Handle) : (r.setH d v).fpstat = r.fpstat := rfl
@[simp] theorem Arch.setH_decstat (r : Arch) (d : HReg) (v : Handle) : (r.setH d v).decstat = r.decstat := rfl
@[simp] theorem Arch.setH_rmode (r : Arch) (d : HReg) (v : Handle) : (r.setH d v).rmode = r.rmode := rfl
@[simp] theorem Arch.setH_tasknum (r : Arch) (d : HReg) (v : Handle) : (r.setH d v).tasknum = r.tasknum := rfl
@[simp] theorem Arch.setH_seqlen (r : Arch) (d : HReg) (v : Handle) : (r.setH d v).seqlen = r.seqlen := rfl
@[simp] theorem Arch.setH_cycles (r : Arch) (d : HReg) (v : Handle) : (r.setH d v).cycles = r.cycles := rfl
@[simp] theorem Arch.setH_segcount (r : Arch) (d : HReg) (v : Handle) : (r.setH d v).segcount = r.segcount := rfl
@[simp] theorem Arch.setH_rwcount (r : Arch) (d : HReg) (v : Handle) : (r.setH d v).rwcount = r.rwcount := rfl
@[simp] theorem Arch.setH_scalemiss (r : Arch) (d : HReg) (v : Handle) : (r.setH d v).scalemiss = r.scalemiss := rfl
@[simp] theorem Arch.setH_freegr (r : Arch) (d : HReg) (v : Handle) : (r.setH d v).freegr = r.freegr := rfl
@[simp] theorem Arch.setH_l1cfg (r : Arch) (d : HReg) (v : Handle) : (r.setH d v).l1cfg = r.l1cfg := rfl
@[simp] theorem Arch.setH_prcount (r : Arch) (d : HReg) (v : Handle) : (r.setH d v).prcount = r.prcount := rfl
@[simp] theorem Arch.setH_patbank (r : Arch) (d : HReg) (v : Handle) : (r.setH d v).patbank = r.patbank := rfl
@[simp] theorem Arch.setH_wptr (r : Arch) (d : HReg) (v : Handle) : (r.setH d v).wptr = r.wptr := rfl

@[simp] theorem Arch.setQAll_x (r : Arch) (v : BitVec 16) : (r.setQAll v).x = r.x := rfl
@[simp] theorem Arch.setQAll_q (r : Arch) (v : BitVec 16) : (r.setQAll v).q = Vector.ofFn fun i => if i.val = 0 then true else bitAt v i.val := rfl
@[simp] theorem Arch.setQAll_h (r : Arch) (v : BitVec 16) : (r.setQAll v).h = r.h := rfl
@[simp] theorem Arch.setQAll_ma (r : Arch) (v : BitVec 16) : (r.setQAll v).ma = r.ma := rfl
@[simp] theorem Arch.setQAll_stg (r : Arch) (v : BitVec 16) : (r.setQAll v).stg = r.stg := rfl
@[simp] theorem Arch.setQAll_kstat (r : Arch) (v : BitVec 16) : (r.setQAll v).kstat = r.kstat := rfl
@[simp] theorem Arch.setQAll_tcause (r : Arch) (v : BitVec 16) : (r.setQAll v).tcause = r.tcause := rfl
@[simp] theorem Arch.setQAll_tpc (r : Arch) (v : BitVec 16) : (r.setQAll v).tpc = r.tpc := rfl
@[simp] theorem Arch.setQAll_taddr (r : Arch) (v : BitVec 16) : (r.setQAll v).taddr = r.taddr := rfl
@[simp] theorem Arch.setQAll_tinfo (r : Arch) (v : BitVec 16) : (r.setQAll v).tinfo = r.tinfo := rfl
@[simp] theorem Arch.setQAll_excmask (r : Arch) (v : BitVec 16) : (r.setQAll v).excmask = r.excmask := rfl
@[simp] theorem Arch.setQAll_fpstat (r : Arch) (v : BitVec 16) : (r.setQAll v).fpstat = r.fpstat := rfl
@[simp] theorem Arch.setQAll_decstat (r : Arch) (v : BitVec 16) : (r.setQAll v).decstat = r.decstat := rfl
@[simp] theorem Arch.setQAll_rmode (r : Arch) (v : BitVec 16) : (r.setQAll v).rmode = r.rmode := rfl
@[simp] theorem Arch.setQAll_tasknum (r : Arch) (v : BitVec 16) : (r.setQAll v).tasknum = r.tasknum := rfl
@[simp] theorem Arch.setQAll_seqlen (r : Arch) (v : BitVec 16) : (r.setQAll v).seqlen = r.seqlen := rfl
@[simp] theorem Arch.setQAll_cycles (r : Arch) (v : BitVec 16) : (r.setQAll v).cycles = r.cycles := rfl
@[simp] theorem Arch.setQAll_segcount (r : Arch) (v : BitVec 16) : (r.setQAll v).segcount = r.segcount := rfl
@[simp] theorem Arch.setQAll_rwcount (r : Arch) (v : BitVec 16) : (r.setQAll v).rwcount = r.rwcount := rfl
@[simp] theorem Arch.setQAll_scalemiss (r : Arch) (v : BitVec 16) : (r.setQAll v).scalemiss = r.scalemiss := rfl
@[simp] theorem Arch.setQAll_freegr (r : Arch) (v : BitVec 16) : (r.setQAll v).freegr = r.freegr := rfl
@[simp] theorem Arch.setQAll_l1cfg (r : Arch) (v : BitVec 16) : (r.setQAll v).l1cfg = r.l1cfg := rfl
@[simp] theorem Arch.setQAll_prcount (r : Arch) (v : BitVec 16) : (r.setQAll v).prcount = r.prcount := rfl
@[simp] theorem Arch.setQAll_patbank (r : Arch) (v : BitVec 16) : (r.setQAll v).patbank = r.patbank := rfl
@[simp] theorem Arch.setQAll_wptr (r : Arch) (v : BitVec 16) : (r.setQAll v).wptr = r.wptr := rfl

@[simp] theorem Arch.raise_x (r : Arch) (fl : Flags) : (r.raise fl).x = r.x := rfl
@[simp] theorem Arch.raise_q (r : Arch) (fl : Flags) : (r.raise fl).q = r.q := rfl
@[simp] theorem Arch.raise_h (r : Arch) (fl : Flags) : (r.raise fl).h = r.h := rfl
@[simp] theorem Arch.raise_ma (r : Arch) (fl : Flags) : (r.raise fl).ma = r.ma := rfl
@[simp] theorem Arch.raise_stg (r : Arch) (fl : Flags) : (r.raise fl).stg = r.stg := rfl
@[simp] theorem Arch.raise_kstat (r : Arch) (fl : Flags) : (r.raise fl).kstat = r.kstat := rfl
@[simp] theorem Arch.raise_tcause (r : Arch) (fl : Flags) : (r.raise fl).tcause = r.tcause := rfl
@[simp] theorem Arch.raise_tpc (r : Arch) (fl : Flags) : (r.raise fl).tpc = r.tpc := rfl
@[simp] theorem Arch.raise_taddr (r : Arch) (fl : Flags) : (r.raise fl).taddr = r.taddr := rfl
@[simp] theorem Arch.raise_tinfo (r : Arch) (fl : Flags) : (r.raise fl).tinfo = r.tinfo := rfl
@[simp] theorem Arch.raise_excmask (r : Arch) (fl : Flags) : (r.raise fl).excmask = r.excmask := rfl
@[simp] theorem Arch.raise_fpstat (r : Arch) (fl : Flags) : (r.raise fl).fpstat = r.fpstat ||| (fl &&& 0x7F).setWidth 64 := rfl
@[simp] theorem Arch.raise_decstat (r : Arch) (fl : Flags) : (r.raise fl).decstat = r.decstat := rfl
@[simp] theorem Arch.raise_rmode (r : Arch) (fl : Flags) : (r.raise fl).rmode = r.rmode := rfl
@[simp] theorem Arch.raise_tasknum (r : Arch) (fl : Flags) : (r.raise fl).tasknum = r.tasknum := rfl
@[simp] theorem Arch.raise_seqlen (r : Arch) (fl : Flags) : (r.raise fl).seqlen = r.seqlen := rfl
@[simp] theorem Arch.raise_cycles (r : Arch) (fl : Flags) : (r.raise fl).cycles = r.cycles := rfl
@[simp] theorem Arch.raise_segcount (r : Arch) (fl : Flags) : (r.raise fl).segcount = r.segcount := rfl
@[simp] theorem Arch.raise_rwcount (r : Arch) (fl : Flags) : (r.raise fl).rwcount = r.rwcount := rfl
@[simp] theorem Arch.raise_scalemiss (r : Arch) (fl : Flags) : (r.raise fl).scalemiss = r.scalemiss := rfl
@[simp] theorem Arch.raise_freegr (r : Arch) (fl : Flags) : (r.raise fl).freegr = r.freegr := rfl
@[simp] theorem Arch.raise_l1cfg (r : Arch) (fl : Flags) : (r.raise fl).l1cfg = r.l1cfg := rfl
@[simp] theorem Arch.raise_prcount (r : Arch) (fl : Flags) : (r.raise fl).prcount = r.prcount := rfl
@[simp] theorem Arch.raise_patbank (r : Arch) (fl : Flags) : (r.raise fl).patbank = r.patbank := rfl
@[simp] theorem Arch.raise_wptr (r : Arch) (fl : Flags) : (r.raise fl).wptr = r.wptr := rfl

@[simp] theorem Arch.raiseDec_x (r : Arch) (fl : Flags) : (r.raiseDec fl).x = r.x := rfl
@[simp] theorem Arch.raiseDec_q (r : Arch) (fl : Flags) : (r.raiseDec fl).q = r.q := rfl
@[simp] theorem Arch.raiseDec_h (r : Arch) (fl : Flags) : (r.raiseDec fl).h = r.h := rfl
@[simp] theorem Arch.raiseDec_ma (r : Arch) (fl : Flags) : (r.raiseDec fl).ma = r.ma := rfl
@[simp] theorem Arch.raiseDec_stg (r : Arch) (fl : Flags) : (r.raiseDec fl).stg = r.stg := rfl
@[simp] theorem Arch.raiseDec_kstat (r : Arch) (fl : Flags) : (r.raiseDec fl).kstat = r.kstat := rfl
@[simp] theorem Arch.raiseDec_tcause (r : Arch) (fl : Flags) : (r.raiseDec fl).tcause = r.tcause := rfl
@[simp] theorem Arch.raiseDec_tpc (r : Arch) (fl : Flags) : (r.raiseDec fl).tpc = r.tpc := rfl
@[simp] theorem Arch.raiseDec_taddr (r : Arch) (fl : Flags) : (r.raiseDec fl).taddr = r.taddr := rfl
@[simp] theorem Arch.raiseDec_tinfo (r : Arch) (fl : Flags) : (r.raiseDec fl).tinfo = r.tinfo := rfl
@[simp] theorem Arch.raiseDec_excmask (r : Arch) (fl : Flags) : (r.raiseDec fl).excmask = r.excmask := rfl
@[simp] theorem Arch.raiseDec_fpstat (r : Arch) (fl : Flags) : (r.raiseDec fl).fpstat = r.fpstat := rfl
@[simp] theorem Arch.raiseDec_decstat (r : Arch) (fl : Flags) : (r.raiseDec fl).decstat = r.decstat ||| (fl &&& 0x1F).setWidth 64 := rfl
@[simp] theorem Arch.raiseDec_rmode (r : Arch) (fl : Flags) : (r.raiseDec fl).rmode = r.rmode := rfl
@[simp] theorem Arch.raiseDec_tasknum (r : Arch) (fl : Flags) : (r.raiseDec fl).tasknum = r.tasknum := rfl
@[simp] theorem Arch.raiseDec_seqlen (r : Arch) (fl : Flags) : (r.raiseDec fl).seqlen = r.seqlen := rfl
@[simp] theorem Arch.raiseDec_cycles (r : Arch) (fl : Flags) : (r.raiseDec fl).cycles = r.cycles := rfl
@[simp] theorem Arch.raiseDec_segcount (r : Arch) (fl : Flags) : (r.raiseDec fl).segcount = r.segcount := rfl
@[simp] theorem Arch.raiseDec_rwcount (r : Arch) (fl : Flags) : (r.raiseDec fl).rwcount = r.rwcount := rfl
@[simp] theorem Arch.raiseDec_scalemiss (r : Arch) (fl : Flags) : (r.raiseDec fl).scalemiss = r.scalemiss := rfl
@[simp] theorem Arch.raiseDec_freegr (r : Arch) (fl : Flags) : (r.raiseDec fl).freegr = r.freegr := rfl
@[simp] theorem Arch.raiseDec_l1cfg (r : Arch) (fl : Flags) : (r.raiseDec fl).l1cfg = r.l1cfg := rfl
@[simp] theorem Arch.raiseDec_prcount (r : Arch) (fl : Flags) : (r.raiseDec fl).prcount = r.prcount := rfl
@[simp] theorem Arch.raiseDec_patbank (r : Arch) (fl : Flags) : (r.raiseDec fl).patbank = r.patbank := rfl
@[simp] theorem Arch.raiseDec_wptr (r : Arch) (fl : Flags) : (r.raiseDec fl).wptr = r.wptr := rfl

@[simp] theorem Arch.setInh_x (r : Arch) (b : Bool) : (r.setInh b).x = r.x := rfl
@[simp] theorem Arch.setInh_q (r : Arch) (b : Bool) : (r.setInh b).q = r.q := rfl
@[simp] theorem Arch.setInh_h (r : Arch) (b : Bool) : (r.setInh b).h = r.h := rfl
@[simp] theorem Arch.setInh_ma (r : Arch) (b : Bool) : (r.setInh b).ma = r.ma := rfl
@[simp] theorem Arch.setInh_stg (r : Arch) (b : Bool) : (r.setInh b).stg = r.stg := rfl
@[simp] theorem Arch.setInh_kstat (r : Arch) (b : Bool) : (r.setInh b).kstat = setFld r.kstat 6 (BitVec.ofBool b) := rfl
@[simp] theorem Arch.setInh_tcause (r : Arch) (b : Bool) : (r.setInh b).tcause = r.tcause := rfl
@[simp] theorem Arch.setInh_tpc (r : Arch) (b : Bool) : (r.setInh b).tpc = r.tpc := rfl
@[simp] theorem Arch.setInh_taddr (r : Arch) (b : Bool) : (r.setInh b).taddr = r.taddr := rfl
@[simp] theorem Arch.setInh_tinfo (r : Arch) (b : Bool) : (r.setInh b).tinfo = r.tinfo := rfl
@[simp] theorem Arch.setInh_excmask (r : Arch) (b : Bool) : (r.setInh b).excmask = r.excmask := rfl
@[simp] theorem Arch.setInh_fpstat (r : Arch) (b : Bool) : (r.setInh b).fpstat = r.fpstat := rfl
@[simp] theorem Arch.setInh_decstat (r : Arch) (b : Bool) : (r.setInh b).decstat = r.decstat := rfl
@[simp] theorem Arch.setInh_rmode (r : Arch) (b : Bool) : (r.setInh b).rmode = r.rmode := rfl
@[simp] theorem Arch.setInh_tasknum (r : Arch) (b : Bool) : (r.setInh b).tasknum = r.tasknum := rfl
@[simp] theorem Arch.setInh_seqlen (r : Arch) (b : Bool) : (r.setInh b).seqlen = r.seqlen := rfl
@[simp] theorem Arch.setInh_cycles (r : Arch) (b : Bool) : (r.setInh b).cycles = r.cycles := rfl
@[simp] theorem Arch.setInh_segcount (r : Arch) (b : Bool) : (r.setInh b).segcount = r.segcount := rfl
@[simp] theorem Arch.setInh_rwcount (r : Arch) (b : Bool) : (r.setInh b).rwcount = r.rwcount := rfl
@[simp] theorem Arch.setInh_scalemiss (r : Arch) (b : Bool) : (r.setInh b).scalemiss = r.scalemiss := rfl
@[simp] theorem Arch.setInh_freegr (r : Arch) (b : Bool) : (r.setInh b).freegr = r.freegr := rfl
@[simp] theorem Arch.setInh_l1cfg (r : Arch) (b : Bool) : (r.setInh b).l1cfg = r.l1cfg := rfl
@[simp] theorem Arch.setInh_prcount (r : Arch) (b : Bool) : (r.setInh b).prcount = r.prcount := rfl
@[simp] theorem Arch.setInh_patbank (r : Arch) (b : Bool) : (r.setInh b).patbank = r.patbank := rfl
@[simp] theorem Arch.setInh_wptr (r : Arch) (b : Bool) : (r.setInh b).wptr = r.wptr := rfl

@[simp] theorem Arch.setWlact_x (r : Arch) (b : Bool) : (r.setWlact b).x = r.x := rfl
@[simp] theorem Arch.setWlact_q (r : Arch) (b : Bool) : (r.setWlact b).q = r.q := rfl
@[simp] theorem Arch.setWlact_h (r : Arch) (b : Bool) : (r.setWlact b).h = r.h := rfl
@[simp] theorem Arch.setWlact_ma (r : Arch) (b : Bool) : (r.setWlact b).ma = r.ma := rfl
@[simp] theorem Arch.setWlact_stg (r : Arch) (b : Bool) : (r.setWlact b).stg = r.stg := rfl
@[simp] theorem Arch.setWlact_kstat (r : Arch) (b : Bool) : (r.setWlact b).kstat = setFld r.kstat 1 (BitVec.ofBool b) := rfl
@[simp] theorem Arch.setWlact_tcause (r : Arch) (b : Bool) : (r.setWlact b).tcause = r.tcause := rfl
@[simp] theorem Arch.setWlact_tpc (r : Arch) (b : Bool) : (r.setWlact b).tpc = r.tpc := rfl
@[simp] theorem Arch.setWlact_taddr (r : Arch) (b : Bool) : (r.setWlact b).taddr = r.taddr := rfl
@[simp] theorem Arch.setWlact_tinfo (r : Arch) (b : Bool) : (r.setWlact b).tinfo = r.tinfo := rfl
@[simp] theorem Arch.setWlact_excmask (r : Arch) (b : Bool) : (r.setWlact b).excmask = r.excmask := rfl
@[simp] theorem Arch.setWlact_fpstat (r : Arch) (b : Bool) : (r.setWlact b).fpstat = r.fpstat := rfl
@[simp] theorem Arch.setWlact_decstat (r : Arch) (b : Bool) : (r.setWlact b).decstat = r.decstat := rfl
@[simp] theorem Arch.setWlact_rmode (r : Arch) (b : Bool) : (r.setWlact b).rmode = r.rmode := rfl
@[simp] theorem Arch.setWlact_tasknum (r : Arch) (b : Bool) : (r.setWlact b).tasknum = r.tasknum := rfl
@[simp] theorem Arch.setWlact_seqlen (r : Arch) (b : Bool) : (r.setWlact b).seqlen = r.seqlen := rfl
@[simp] theorem Arch.setWlact_cycles (r : Arch) (b : Bool) : (r.setWlact b).cycles = r.cycles := rfl
@[simp] theorem Arch.setWlact_segcount (r : Arch) (b : Bool) : (r.setWlact b).segcount = r.segcount := rfl
@[simp] theorem Arch.setWlact_rwcount (r : Arch) (b : Bool) : (r.setWlact b).rwcount = r.rwcount := rfl
@[simp] theorem Arch.setWlact_scalemiss (r : Arch) (b : Bool) : (r.setWlact b).scalemiss = r.scalemiss := rfl
@[simp] theorem Arch.setWlact_freegr (r : Arch) (b : Bool) : (r.setWlact b).freegr = r.freegr := rfl
@[simp] theorem Arch.setWlact_l1cfg (r : Arch) (b : Bool) : (r.setWlact b).l1cfg = r.l1cfg := rfl
@[simp] theorem Arch.setWlact_prcount (r : Arch) (b : Bool) : (r.setWlact b).prcount = r.prcount := rfl
@[simp] theorem Arch.setWlact_patbank (r : Arch) (b : Bool) : (r.setWlact b).patbank = r.patbank := rfl
@[simp] theorem Arch.setWlact_wptr (r : Arch) (b : Bool) : (r.setWlact b).wptr = r.wptr := rfl

/-! ### A core -/

@[simp] theorem Core.push_r (c : Core) (due : Nat) (w : Write) : (c.push due w).r = c.r := rfl
@[simp] theorem Core.push_pc (c : Core) (due : Nat) (w : Write) : (c.push due w).pc = c.pc := rfl
@[simp] theorem Core.push_ports (c : Core) (due : Nat) (w : Write) : (c.push due w).ports = c.ports := rfl
@[simp] theorem Core.push_sp (c : Core) (due : Nat) (w : Write) : (c.push due w).sp = c.sp := rfl
@[simp] theorem Core.push_free (c : Core) (due : Nat) (w : Write) : (c.push due w).free = c.free := rfl
@[simp] theorem Core.push_tiles (c : Core) (due : Nat) (w : Write) : (c.push due w).tiles = c.tiles := rfl
@[simp] theorem Core.push_dets (c : Core) (due : Nat) (w : Write) : (c.push due w).dets = c.dets := rfl
@[simp] theorem Core.push_om (c : Core) (due : Nat) (w : Write) : (c.push due w).om = c.om := rfl
@[simp] theorem Core.push_omd (c : Core) (due : Nat) (w : Write) : (c.push due w).omd = c.omd := rfl
@[simp] theorem Core.push_tree (c : Core) (due : Nat) (w : Write) : (c.push due w).tree = c.tree := rfl
@[simp] theorem Core.push_pats (c : Core) (due : Nat) (w : Write) : (c.push due w).pats = c.pats := rfl
@[simp] theorem Core.push_mat (c : Core) (due : Nat) (w : Write) : (c.push due w).mat = c.mat := rfl
@[simp] theorem Core.push_rtns (c : Core) (due : Nat) (w : Write) : (c.push due w).rtns = c.rtns := rfl
@[simp] theorem Core.push_kern (c : Core) (due : Nat) (w : Write) : (c.push due w).kern = c.kern := rfl
@[simp] theorem Core.push_dict (c : Core) (due : Nat) (w : Write) : (c.push due w).dict = c.dict := rfl
@[simp] theorem Core.push_dictBad (c : Core) (due : Nat) (w : Write) : (c.push due w).dictBad = c.dictBad := rfl
@[simp] theorem Core.push_lines (c : Core) (due : Nat) (w : Write) : (c.push due w).lines = c.lines := rfl
@[simp] theorem Core.push_codeSeen (c : Core) (due : Nat) (w : Write) : (c.push due w).codeSeen = c.codeSeen := rfl
@[simp] theorem Core.push_fetch (c : Core) (due : Nat) (w : Write) : (c.push due w).fetch = c.fetch := rfl
@[simp] theorem Core.push_badfetch (c : Core) (due : Nat) (w : Write) : (c.push due w).badfetch = c.badfetch := rfl
@[simp] theorem Core.push_flight (c : Core) (due : Nat) (w : Write) : (c.push due w).flight = c.flight ++ [{ due := due, seq := c.iss.seq, slot := c.iss.slot, w := w }] := rfl
@[simp] theorem Core.push_captured (c : Core) (due : Nat) (w : Write) : (c.push due w).captured = c.captured := rfl
@[simp] theorem Core.push_resume (c : Core) (due : Nat) (w : Write) : (c.push due w).resume = c.resume := rfl
@[simp] theorem Core.push_mu (c : Core) (due : Nat) (w : Write) : (c.push due w).mu = c.mu := rfl
@[simp] theorem Core.push_sump (c : Core) (due : Nat) (w : Write) : (c.push due w).sump = c.sump := rfl
@[simp] theorem Core.push_heldCls (c : Core) (due : Nat) (w : Write) : (c.push due w).heldCls = c.heldCls := rfl
@[simp] theorem Core.push_l1 (c : Core) (due : Nat) (w : Write) : (c.push due w).l1 = c.l1 := rfl
@[simp] theorem Core.push_l1old (c : Core) (due : Nat) (w : Write) : (c.push due w).l1old = c.l1old := rfl
@[simp] theorem Core.push_fences (c : Core) (due : Nat) (w : Write) : (c.push due w).fences = c.fences := rfl
@[simp] theorem Core.push_tlb (c : Core) (due : Nat) (w : Write) : (c.push due w).tlb = c.tlb := rfl
@[simp] theorem Core.push_ocache (c : Core) (due : Nat) (w : Write) : (c.push due w).ocache = c.ocache := rfl
@[simp] theorem Core.push_declared (c : Core) (due : Nat) (w : Write) : (c.push due w).declared = c.declared := rfl
@[simp] theorem Core.push_chans (c : Core) (due : Nat) (w : Write) : (c.push due w).chans = c.chans := rfl
@[simp] theorem Core.push_wl (c : Core) (due : Nat) (w : Write) : (c.push due w).wl = c.wl := rfl
@[simp] theorem Core.push_iss (c : Core) (due : Nat) (w : Write) : (c.push due w).iss = { c.iss with seq := c.iss.seq + 1 } := rfl
@[simp] theorem Core.push_hold (c : Core) (due : Nat) (w : Write) : (c.push due w).hold = c.hold := rfl
@[simp] theorem Core.push_task (c : Core) (due : Nat) (w : Write) : (c.push due w).task = c.task := rfl
@[simp] theorem Core.push_ranges (c : Core) (due : Nat) (w : Write) : (c.push due w).ranges = c.ranges := rfl
@[simp] theorem Core.push_bcast (c : Core) (due : Nat) (w : Write) : (c.push due w).bcast = c.bcast := rfl
@[simp] theorem Core.push_gclock (c : Core) (due : Nat) (w : Write) : (c.push due w).gclock = c.gclock := rfl
@[simp] theorem Core.push_sigs (c : Core) (due : Nat) (w : Write) : (c.push due w).sigs = c.sigs := rfl
@[simp] theorem Core.push_sigNow (c : Core) (due : Nat) (w : Write) : (c.push due w).sigNow = c.sigNow := rfl
@[simp] theorem Core.push_log (c : Core) (due : Nat) (w : Write) : (c.push due w).log = c.log := rfl
@[simp] theorem Core.push_segOpen (c : Core) (due : Nat) (w : Write) : (c.push due w).segOpen = c.segOpen := rfl
@[simp] theorem Core.push_reseg (c : Core) (due : Nat) (w : Write) : (c.push due w).reseg = c.reseg := rfl
@[simp] theorem Core.push_strike (c : Core) (due : Nat) (w : Write) : (c.push due w).strike = c.strike := rfl
@[simp] theorem Core.push_back (c : Core) (due : Nat) (w : Write) : (c.push due w).back = c.back := rfl
@[simp] theorem Core.push_halted (c : Core) (due : Nat) (w : Write) : (c.push due w).halted = c.halted := rfl
@[simp] theorem Core.push_segAt (c : Core) (due : Nat) (w : Write) : (c.push due w).segAt = c.segAt := rfl
@[simp] theorem Core.push_segRun (c : Core) (due : Nat) (w : Write) : (c.push due w).segRun = c.segRun := rfl
@[simp] theorem Core.push_stood (c : Core) (due : Nat) (w : Write) : (c.push due w).stood = c.stood := rfl
@[simp] theorem Core.push_undoRows (c : Core) (due : Nat) (w : Write) : (c.push due w).undoRows = c.undoRows := rfl
@[simp] theorem Core.push_undoEnts (c : Core) (due : Nat) (w : Write) : (c.push due w).undoEnts = c.undoEnts := rfl
@[simp] theorem Core.push_ckpt (c : Core) (due : Nat) (w : Write) : (c.push due w).ckpt = c.ckpt := rfl
@[simp] theorem Core.push_rewinds (c : Core) (due : Nat) (w : Write) : (c.push due w).rewinds = c.rewinds := rfl
@[simp] theorem Core.push_badWords (c : Core) (due : Nat) (w : Write) : (c.push due w).badWords = c.badWords := rfl
@[simp] theorem Core.push_abort (c : Core) (due : Nat) (w : Write) : (c.push due w).abort = c.abort := rfl
@[simp] theorem Core.push_clock (c : Core) (due : Nat) (w : Write) : (c.push due w).clock = c.clock := rfl

@[simp] theorem Core.setTile_r (c : Core) (t : Nat) (e : Tile) : (c.setTile t e).r = c.r := rfl
@[simp] theorem Core.setTile_pc (c : Core) (t : Nat) (e : Tile) : (c.setTile t e).pc = c.pc := rfl
@[simp] theorem Core.setTile_ports (c : Core) (t : Nat) (e : Tile) : (c.setTile t e).ports = c.ports := rfl
@[simp] theorem Core.setTile_sp (c : Core) (t : Nat) (e : Tile) : (c.setTile t e).sp = c.sp := rfl
@[simp] theorem Core.setTile_free (c : Core) (t : Nat) (e : Tile) : (c.setTile t e).free = c.free := rfl
@[simp] theorem Core.setTile_tiles (c : Core) (t : Nat) (e : Tile) : (c.setTile t e).tiles = c.tiles.set {} t e := rfl
@[simp] theorem Core.setTile_dets (c : Core) (t : Nat) (e : Tile) : (c.setTile t e).dets = c.dets := rfl
@[simp] theorem Core.setTile_om (c : Core) (t : Nat) (e : Tile) : (c.setTile t e).om = c.om := rfl
@[simp] theorem Core.setTile_omd (c : Core) (t : Nat) (e : Tile) : (c.setTile t e).omd = c.omd := rfl
@[simp] theorem Core.setTile_tree (c : Core) (t : Nat) (e : Tile) : (c.setTile t e).tree = c.tree := rfl
@[simp] theorem Core.setTile_pats (c : Core) (t : Nat) (e : Tile) : (c.setTile t e).pats = c.pats := rfl
@[simp] theorem Core.setTile_mat (c : Core) (t : Nat) (e : Tile) : (c.setTile t e).mat = c.mat := rfl
@[simp] theorem Core.setTile_rtns (c : Core) (t : Nat) (e : Tile) : (c.setTile t e).rtns = c.rtns := rfl
@[simp] theorem Core.setTile_kern (c : Core) (t : Nat) (e : Tile) : (c.setTile t e).kern = c.kern := rfl
@[simp] theorem Core.setTile_dict (c : Core) (t : Nat) (e : Tile) : (c.setTile t e).dict = c.dict := rfl
@[simp] theorem Core.setTile_dictBad (c : Core) (t : Nat) (e : Tile) : (c.setTile t e).dictBad = c.dictBad := rfl
@[simp] theorem Core.setTile_lines (c : Core) (t : Nat) (e : Tile) : (c.setTile t e).lines = c.lines := rfl
@[simp] theorem Core.setTile_codeSeen (c : Core) (t : Nat) (e : Tile) : (c.setTile t e).codeSeen = c.codeSeen := rfl
@[simp] theorem Core.setTile_fetch (c : Core) (t : Nat) (e : Tile) : (c.setTile t e).fetch = c.fetch := rfl
@[simp] theorem Core.setTile_badfetch (c : Core) (t : Nat) (e : Tile) : (c.setTile t e).badfetch = c.badfetch := rfl
@[simp] theorem Core.setTile_flight (c : Core) (t : Nat) (e : Tile) : (c.setTile t e).flight = c.flight := rfl
@[simp] theorem Core.setTile_captured (c : Core) (t : Nat) (e : Tile) : (c.setTile t e).captured = c.captured := rfl
@[simp] theorem Core.setTile_resume (c : Core) (t : Nat) (e : Tile) : (c.setTile t e).resume = c.resume := rfl
@[simp] theorem Core.setTile_mu (c : Core) (t : Nat) (e : Tile) : (c.setTile t e).mu = c.mu := rfl
@[simp] theorem Core.setTile_sump (c : Core) (t : Nat) (e : Tile) : (c.setTile t e).sump = c.sump := rfl
@[simp] theorem Core.setTile_heldCls (c : Core) (t : Nat) (e : Tile) : (c.setTile t e).heldCls = c.heldCls := rfl
@[simp] theorem Core.setTile_l1 (c : Core) (t : Nat) (e : Tile) : (c.setTile t e).l1 = c.l1 := rfl
@[simp] theorem Core.setTile_l1old (c : Core) (t : Nat) (e : Tile) : (c.setTile t e).l1old = c.l1old := rfl
@[simp] theorem Core.setTile_fences (c : Core) (t : Nat) (e : Tile) : (c.setTile t e).fences = c.fences := rfl
@[simp] theorem Core.setTile_tlb (c : Core) (t : Nat) (e : Tile) : (c.setTile t e).tlb = c.tlb := rfl
@[simp] theorem Core.setTile_ocache (c : Core) (t : Nat) (e : Tile) : (c.setTile t e).ocache = c.ocache := rfl
@[simp] theorem Core.setTile_declared (c : Core) (t : Nat) (e : Tile) : (c.setTile t e).declared = c.declared := rfl
@[simp] theorem Core.setTile_chans (c : Core) (t : Nat) (e : Tile) : (c.setTile t e).chans = c.chans := rfl
@[simp] theorem Core.setTile_wl (c : Core) (t : Nat) (e : Tile) : (c.setTile t e).wl = c.wl := rfl
@[simp] theorem Core.setTile_iss (c : Core) (t : Nat) (e : Tile) : (c.setTile t e).iss = c.iss := rfl
@[simp] theorem Core.setTile_hold (c : Core) (t : Nat) (e : Tile) : (c.setTile t e).hold = c.hold := rfl
@[simp] theorem Core.setTile_task (c : Core) (t : Nat) (e : Tile) : (c.setTile t e).task = c.task := rfl
@[simp] theorem Core.setTile_ranges (c : Core) (t : Nat) (e : Tile) : (c.setTile t e).ranges = c.ranges := rfl
@[simp] theorem Core.setTile_bcast (c : Core) (t : Nat) (e : Tile) : (c.setTile t e).bcast = c.bcast := rfl
@[simp] theorem Core.setTile_gclock (c : Core) (t : Nat) (e : Tile) : (c.setTile t e).gclock = c.gclock := rfl
@[simp] theorem Core.setTile_sigs (c : Core) (t : Nat) (e : Tile) : (c.setTile t e).sigs = c.sigs := rfl
@[simp] theorem Core.setTile_sigNow (c : Core) (t : Nat) (e : Tile) : (c.setTile t e).sigNow = c.sigNow := rfl
@[simp] theorem Core.setTile_log (c : Core) (t : Nat) (e : Tile) : (c.setTile t e).log = c.log := rfl
@[simp] theorem Core.setTile_segOpen (c : Core) (t : Nat) (e : Tile) : (c.setTile t e).segOpen = c.segOpen := rfl
@[simp] theorem Core.setTile_reseg (c : Core) (t : Nat) (e : Tile) : (c.setTile t e).reseg = c.reseg := rfl
@[simp] theorem Core.setTile_strike (c : Core) (t : Nat) (e : Tile) : (c.setTile t e).strike = c.strike := rfl
@[simp] theorem Core.setTile_back (c : Core) (t : Nat) (e : Tile) : (c.setTile t e).back = c.back := rfl
@[simp] theorem Core.setTile_halted (c : Core) (t : Nat) (e : Tile) : (c.setTile t e).halted = c.halted := rfl
@[simp] theorem Core.setTile_segAt (c : Core) (t : Nat) (e : Tile) : (c.setTile t e).segAt = c.segAt := rfl
@[simp] theorem Core.setTile_segRun (c : Core) (t : Nat) (e : Tile) : (c.setTile t e).segRun = c.segRun := rfl
@[simp] theorem Core.setTile_stood (c : Core) (t : Nat) (e : Tile) : (c.setTile t e).stood = c.stood := rfl
@[simp] theorem Core.setTile_undoRows (c : Core) (t : Nat) (e : Tile) : (c.setTile t e).undoRows = c.undoRows := rfl
@[simp] theorem Core.setTile_undoEnts (c : Core) (t : Nat) (e : Tile) : (c.setTile t e).undoEnts = c.undoEnts := rfl
@[simp] theorem Core.setTile_ckpt (c : Core) (t : Nat) (e : Tile) : (c.setTile t e).ckpt = c.ckpt := rfl
@[simp] theorem Core.setTile_rewinds (c : Core) (t : Nat) (e : Tile) : (c.setTile t e).rewinds = c.rewinds := rfl
@[simp] theorem Core.setTile_badWords (c : Core) (t : Nat) (e : Tile) : (c.setTile t e).badWords = c.badWords := rfl
@[simp] theorem Core.setTile_abort (c : Core) (t : Nat) (e : Tile) : (c.setTile t e).abort = c.abort := rfl
@[simp] theorem Core.setTile_clock (c : Core) (t : Nat) (e : Tile) : (c.setTile t e).clock = c.clock := rfl

@[simp] theorem Core.modTile_r (c : Core) (t : Nat) (f : Tile → Tile) : (c.modTile t f).r = c.r := rfl
@[simp] theorem Core.modTile_pc (c : Core) (t : Nat) (f : Tile → Tile) : (c.modTile t f).pc = c.pc := rfl
@[simp] theorem Core.modTile_ports (c : Core) (t : Nat) (f : Tile → Tile) : (c.modTile t f).ports = c.ports := rfl
@[simp] theorem Core.modTile_sp (c : Core) (t : Nat) (f : Tile → Tile) : (c.modTile t f).sp = c.sp := rfl
@[simp] theorem Core.modTile_free (c : Core) (t : Nat) (f : Tile → Tile) : (c.modTile t f).free = c.free := rfl
@[simp] theorem Core.modTile_tiles (c : Core) (t : Nat) (f : Tile → Tile) : (c.modTile t f).tiles = c.tiles.set {} t (f (c.tile t)) := rfl
@[simp] theorem Core.modTile_dets (c : Core) (t : Nat) (f : Tile → Tile) : (c.modTile t f).dets = c.dets := rfl
@[simp] theorem Core.modTile_om (c : Core) (t : Nat) (f : Tile → Tile) : (c.modTile t f).om = c.om := rfl
@[simp] theorem Core.modTile_omd (c : Core) (t : Nat) (f : Tile → Tile) : (c.modTile t f).omd = c.omd := rfl
@[simp] theorem Core.modTile_tree (c : Core) (t : Nat) (f : Tile → Tile) : (c.modTile t f).tree = c.tree := rfl
@[simp] theorem Core.modTile_pats (c : Core) (t : Nat) (f : Tile → Tile) : (c.modTile t f).pats = c.pats := rfl
@[simp] theorem Core.modTile_mat (c : Core) (t : Nat) (f : Tile → Tile) : (c.modTile t f).mat = c.mat := rfl
@[simp] theorem Core.modTile_rtns (c : Core) (t : Nat) (f : Tile → Tile) : (c.modTile t f).rtns = c.rtns := rfl
@[simp] theorem Core.modTile_kern (c : Core) (t : Nat) (f : Tile → Tile) : (c.modTile t f).kern = c.kern := rfl
@[simp] theorem Core.modTile_dict (c : Core) (t : Nat) (f : Tile → Tile) : (c.modTile t f).dict = c.dict := rfl
@[simp] theorem Core.modTile_dictBad (c : Core) (t : Nat) (f : Tile → Tile) : (c.modTile t f).dictBad = c.dictBad := rfl
@[simp] theorem Core.modTile_lines (c : Core) (t : Nat) (f : Tile → Tile) : (c.modTile t f).lines = c.lines := rfl
@[simp] theorem Core.modTile_codeSeen (c : Core) (t : Nat) (f : Tile → Tile) : (c.modTile t f).codeSeen = c.codeSeen := rfl
@[simp] theorem Core.modTile_fetch (c : Core) (t : Nat) (f : Tile → Tile) : (c.modTile t f).fetch = c.fetch := rfl
@[simp] theorem Core.modTile_badfetch (c : Core) (t : Nat) (f : Tile → Tile) : (c.modTile t f).badfetch = c.badfetch := rfl
@[simp] theorem Core.modTile_flight (c : Core) (t : Nat) (f : Tile → Tile) : (c.modTile t f).flight = c.flight := rfl
@[simp] theorem Core.modTile_captured (c : Core) (t : Nat) (f : Tile → Tile) : (c.modTile t f).captured = c.captured := rfl
@[simp] theorem Core.modTile_resume (c : Core) (t : Nat) (f : Tile → Tile) : (c.modTile t f).resume = c.resume := rfl
@[simp] theorem Core.modTile_mu (c : Core) (t : Nat) (f : Tile → Tile) : (c.modTile t f).mu = c.mu := rfl
@[simp] theorem Core.modTile_sump (c : Core) (t : Nat) (f : Tile → Tile) : (c.modTile t f).sump = c.sump := rfl
@[simp] theorem Core.modTile_heldCls (c : Core) (t : Nat) (f : Tile → Tile) : (c.modTile t f).heldCls = c.heldCls := rfl
@[simp] theorem Core.modTile_l1 (c : Core) (t : Nat) (f : Tile → Tile) : (c.modTile t f).l1 = c.l1 := rfl
@[simp] theorem Core.modTile_l1old (c : Core) (t : Nat) (f : Tile → Tile) : (c.modTile t f).l1old = c.l1old := rfl
@[simp] theorem Core.modTile_fences (c : Core) (t : Nat) (f : Tile → Tile) : (c.modTile t f).fences = c.fences := rfl
@[simp] theorem Core.modTile_tlb (c : Core) (t : Nat) (f : Tile → Tile) : (c.modTile t f).tlb = c.tlb := rfl
@[simp] theorem Core.modTile_ocache (c : Core) (t : Nat) (f : Tile → Tile) : (c.modTile t f).ocache = c.ocache := rfl
@[simp] theorem Core.modTile_declared (c : Core) (t : Nat) (f : Tile → Tile) : (c.modTile t f).declared = c.declared := rfl
@[simp] theorem Core.modTile_chans (c : Core) (t : Nat) (f : Tile → Tile) : (c.modTile t f).chans = c.chans := rfl
@[simp] theorem Core.modTile_wl (c : Core) (t : Nat) (f : Tile → Tile) : (c.modTile t f).wl = c.wl := rfl
@[simp] theorem Core.modTile_iss (c : Core) (t : Nat) (f : Tile → Tile) : (c.modTile t f).iss = c.iss := rfl
@[simp] theorem Core.modTile_hold (c : Core) (t : Nat) (f : Tile → Tile) : (c.modTile t f).hold = c.hold := rfl
@[simp] theorem Core.modTile_task (c : Core) (t : Nat) (f : Tile → Tile) : (c.modTile t f).task = c.task := rfl
@[simp] theorem Core.modTile_ranges (c : Core) (t : Nat) (f : Tile → Tile) : (c.modTile t f).ranges = c.ranges := rfl
@[simp] theorem Core.modTile_bcast (c : Core) (t : Nat) (f : Tile → Tile) : (c.modTile t f).bcast = c.bcast := rfl
@[simp] theorem Core.modTile_gclock (c : Core) (t : Nat) (f : Tile → Tile) : (c.modTile t f).gclock = c.gclock := rfl
@[simp] theorem Core.modTile_sigs (c : Core) (t : Nat) (f : Tile → Tile) : (c.modTile t f).sigs = c.sigs := rfl
@[simp] theorem Core.modTile_sigNow (c : Core) (t : Nat) (f : Tile → Tile) : (c.modTile t f).sigNow = c.sigNow := rfl
@[simp] theorem Core.modTile_log (c : Core) (t : Nat) (f : Tile → Tile) : (c.modTile t f).log = c.log := rfl
@[simp] theorem Core.modTile_segOpen (c : Core) (t : Nat) (f : Tile → Tile) : (c.modTile t f).segOpen = c.segOpen := rfl
@[simp] theorem Core.modTile_reseg (c : Core) (t : Nat) (f : Tile → Tile) : (c.modTile t f).reseg = c.reseg := rfl
@[simp] theorem Core.modTile_strike (c : Core) (t : Nat) (f : Tile → Tile) : (c.modTile t f).strike = c.strike := rfl
@[simp] theorem Core.modTile_back (c : Core) (t : Nat) (f : Tile → Tile) : (c.modTile t f).back = c.back := rfl
@[simp] theorem Core.modTile_halted (c : Core) (t : Nat) (f : Tile → Tile) : (c.modTile t f).halted = c.halted := rfl
@[simp] theorem Core.modTile_segAt (c : Core) (t : Nat) (f : Tile → Tile) : (c.modTile t f).segAt = c.segAt := rfl
@[simp] theorem Core.modTile_segRun (c : Core) (t : Nat) (f : Tile → Tile) : (c.modTile t f).segRun = c.segRun := rfl
@[simp] theorem Core.modTile_stood (c : Core) (t : Nat) (f : Tile → Tile) : (c.modTile t f).stood = c.stood := rfl
@[simp] theorem Core.modTile_undoRows (c : Core) (t : Nat) (f : Tile → Tile) : (c.modTile t f).undoRows = c.undoRows := rfl
@[simp] theorem Core.modTile_undoEnts (c : Core) (t : Nat) (f : Tile → Tile) : (c.modTile t f).undoEnts = c.undoEnts := rfl
@[simp] theorem Core.modTile_ckpt (c : Core) (t : Nat) (f : Tile → Tile) : (c.modTile t f).ckpt = c.ckpt := rfl
@[simp] theorem Core.modTile_rewinds (c : Core) (t : Nat) (f : Tile → Tile) : (c.modTile t f).rewinds = c.rewinds := rfl
@[simp] theorem Core.modTile_badWords (c : Core) (t : Nat) (f : Tile → Tile) : (c.modTile t f).badWords = c.badWords := rfl
@[simp] theorem Core.modTile_abort (c : Core) (t : Nat) (f : Tile → Tile) : (c.modTile t f).abort = c.abort := rfl
@[simp] theorem Core.modTile_clock (c : Core) (t : Nat) (f : Tile → Tile) : (c.modTile t f).clock = c.clock := rfl

@[simp] theorem Core.cancel_r (c : Core) (t : Nat) : (c.cancel t).r = c.r := rfl
@[simp] theorem Core.cancel_pc (c : Core) (t : Nat) : (c.cancel t).pc = c.pc := rfl
@[simp] theorem Core.cancel_ports (c : Core) (t : Nat) : (c.cancel t).ports = c.ports := rfl
@[simp] theorem Core.cancel_sp (c : Core) (t : Nat) : (c.cancel t).sp = c.sp := rfl
@[simp] theorem Core.cancel_free (c : Core) (t : Nat) : (c.cancel t).free = c.free := rfl
@[simp] theorem Core.cancel_tiles (c : Core) (t : Nat) : (c.cancel t).tiles = c.tiles := rfl
@[simp] theorem Core.cancel_dets (c : Core) (t : Nat) : (c.cancel t).dets = c.dets.filter (fun d => d.tile != t) := rfl
@[simp] theorem Core.cancel_om (c : Core) (t : Nat) : (c.cancel t).om = c.om := rfl
@[simp] theorem Core.cancel_omd (c : Core) (t : Nat) : (c.cancel t).omd = c.omd := rfl
@[simp] theorem Core.cancel_tree (c : Core) (t : Nat) : (c.cancel t).tree = c.tree := rfl
@[simp] theorem Core.cancel_pats (c : Core) (t : Nat) : (c.cancel t).pats = c.pats := rfl
@[simp] theorem Core.cancel_mat (c : Core) (t : Nat) : (c.cancel t).mat = c.mat := rfl
@[simp] theorem Core.cancel_rtns (c : Core) (t : Nat) : (c.cancel t).rtns = c.rtns := rfl
@[simp] theorem Core.cancel_kern (c : Core) (t : Nat) : (c.cancel t).kern = c.kern := rfl
@[simp] theorem Core.cancel_dict (c : Core) (t : Nat) : (c.cancel t).dict = c.dict := rfl
@[simp] theorem Core.cancel_dictBad (c : Core) (t : Nat) : (c.cancel t).dictBad = c.dictBad := rfl
@[simp] theorem Core.cancel_lines (c : Core) (t : Nat) : (c.cancel t).lines = c.lines := rfl
@[simp] theorem Core.cancel_codeSeen (c : Core) (t : Nat) : (c.cancel t).codeSeen = c.codeSeen := rfl
@[simp] theorem Core.cancel_fetch (c : Core) (t : Nat) : (c.cancel t).fetch = c.fetch := rfl
@[simp] theorem Core.cancel_badfetch (c : Core) (t : Nat) : (c.cancel t).badfetch = c.badfetch := rfl
@[simp] theorem Core.cancel_flight (c : Core) (t : Nat) : (c.cancel t).flight = c.flight := rfl
@[simp] theorem Core.cancel_captured (c : Core) (t : Nat) : (c.cancel t).captured = c.captured := rfl
@[simp] theorem Core.cancel_resume (c : Core) (t : Nat) : (c.cancel t).resume = c.resume := rfl
@[simp] theorem Core.cancel_mu (c : Core) (t : Nat) : (c.cancel t).mu = c.mu := rfl
@[simp] theorem Core.cancel_sump (c : Core) (t : Nat) : (c.cancel t).sump = c.sump := rfl
@[simp] theorem Core.cancel_heldCls (c : Core) (t : Nat) : (c.cancel t).heldCls = c.heldCls := rfl
@[simp] theorem Core.cancel_l1 (c : Core) (t : Nat) : (c.cancel t).l1 = c.l1 := rfl
@[simp] theorem Core.cancel_l1old (c : Core) (t : Nat) : (c.cancel t).l1old = c.l1old := rfl
@[simp] theorem Core.cancel_fences (c : Core) (t : Nat) : (c.cancel t).fences = c.fences := rfl
@[simp] theorem Core.cancel_tlb (c : Core) (t : Nat) : (c.cancel t).tlb = c.tlb := rfl
@[simp] theorem Core.cancel_ocache (c : Core) (t : Nat) : (c.cancel t).ocache = c.ocache := rfl
@[simp] theorem Core.cancel_declared (c : Core) (t : Nat) : (c.cancel t).declared = c.declared := rfl
@[simp] theorem Core.cancel_chans (c : Core) (t : Nat) : (c.cancel t).chans = c.chans := rfl
@[simp] theorem Core.cancel_wl (c : Core) (t : Nat) : (c.cancel t).wl = c.wl := rfl
@[simp] theorem Core.cancel_iss (c : Core) (t : Nat) : (c.cancel t).iss = c.iss := rfl
@[simp] theorem Core.cancel_hold (c : Core) (t : Nat) : (c.cancel t).hold = c.hold := rfl
@[simp] theorem Core.cancel_task (c : Core) (t : Nat) : (c.cancel t).task = c.task := rfl
@[simp] theorem Core.cancel_ranges (c : Core) (t : Nat) : (c.cancel t).ranges = c.ranges := rfl
@[simp] theorem Core.cancel_bcast (c : Core) (t : Nat) : (c.cancel t).bcast = c.bcast := rfl
@[simp] theorem Core.cancel_gclock (c : Core) (t : Nat) : (c.cancel t).gclock = c.gclock := rfl
@[simp] theorem Core.cancel_sigs (c : Core) (t : Nat) : (c.cancel t).sigs = c.sigs := rfl
@[simp] theorem Core.cancel_sigNow (c : Core) (t : Nat) : (c.cancel t).sigNow = c.sigNow := rfl
@[simp] theorem Core.cancel_log (c : Core) (t : Nat) : (c.cancel t).log = c.log := rfl
@[simp] theorem Core.cancel_segOpen (c : Core) (t : Nat) : (c.cancel t).segOpen = c.segOpen := rfl
@[simp] theorem Core.cancel_reseg (c : Core) (t : Nat) : (c.cancel t).reseg = c.reseg := rfl
@[simp] theorem Core.cancel_strike (c : Core) (t : Nat) : (c.cancel t).strike = c.strike := rfl
@[simp] theorem Core.cancel_back (c : Core) (t : Nat) : (c.cancel t).back = c.back := rfl
@[simp] theorem Core.cancel_halted (c : Core) (t : Nat) : (c.cancel t).halted = c.halted := rfl
@[simp] theorem Core.cancel_segAt (c : Core) (t : Nat) : (c.cancel t).segAt = c.segAt := rfl
@[simp] theorem Core.cancel_segRun (c : Core) (t : Nat) : (c.cancel t).segRun = c.segRun := rfl
@[simp] theorem Core.cancel_stood (c : Core) (t : Nat) : (c.cancel t).stood = c.stood := rfl
@[simp] theorem Core.cancel_undoRows (c : Core) (t : Nat) : (c.cancel t).undoRows = c.undoRows := rfl
@[simp] theorem Core.cancel_undoEnts (c : Core) (t : Nat) : (c.cancel t).undoEnts = c.undoEnts := rfl
@[simp] theorem Core.cancel_ckpt (c : Core) (t : Nat) : (c.cancel t).ckpt = c.ckpt := rfl
@[simp] theorem Core.cancel_rewinds (c : Core) (t : Nat) : (c.cancel t).rewinds = c.rewinds := rfl
@[simp] theorem Core.cancel_badWords (c : Core) (t : Nat) : (c.cancel t).badWords = c.badWords := rfl
@[simp] theorem Core.cancel_abort (c : Core) (t : Nat) : (c.cancel t).abort = c.abort := rfl
@[simp] theorem Core.cancel_clock (c : Core) (t : Nat) : (c.cancel t).clock = c.clock := rfl

@[simp] theorem Core.mend_r (c : Core) (arr lo n : Nat) : (c.mend arr lo n).r = c.r := by unfold Core.mend; split <;> rfl
@[simp] theorem Core.mend_pc (c : Core) (arr lo n : Nat) : (c.mend arr lo n).pc = c.pc := by unfold Core.mend; split <;> rfl
@[simp] theorem Core.mend_ports (c : Core) (arr lo n : Nat) : (c.mend arr lo n).ports = c.ports := by unfold Core.mend; split <;> rfl
@[simp] theorem Core.mend_sp (c : Core) (arr lo n : Nat) : (c.mend arr lo n).sp = c.sp := by unfold Core.mend; split <;> rfl
@[simp] theorem Core.mend_free (c : Core) (arr lo n : Nat) : (c.mend arr lo n).free = c.free := by unfold Core.mend; split <;> rfl
@[simp] theorem Core.mend_tiles (c : Core) (arr lo n : Nat) : (c.mend arr lo n).tiles = c.tiles := by unfold Core.mend; split <;> rfl
@[simp] theorem Core.mend_dets (c : Core) (arr lo n : Nat) : (c.mend arr lo n).dets = c.dets := by unfold Core.mend; split <;> rfl
@[simp] theorem Core.mend_om (c : Core) (arr lo n : Nat) : (c.mend arr lo n).om = c.om := by unfold Core.mend; split <;> rfl
@[simp] theorem Core.mend_omd (c : Core) (arr lo n : Nat) : (c.mend arr lo n).omd = c.omd := by unfold Core.mend; split <;> rfl
@[simp] theorem Core.mend_tree (c : Core) (arr lo n : Nat) : (c.mend arr lo n).tree = c.tree := by unfold Core.mend; split <;> rfl
@[simp] theorem Core.mend_pats (c : Core) (arr lo n : Nat) : (c.mend arr lo n).pats = c.pats := by unfold Core.mend; split <;> rfl
@[simp] theorem Core.mend_mat (c : Core) (arr lo n : Nat) : (c.mend arr lo n).mat = c.mat := by unfold Core.mend; split <;> rfl
@[simp] theorem Core.mend_rtns (c : Core) (arr lo n : Nat) : (c.mend arr lo n).rtns = c.rtns := by unfold Core.mend; split <;> rfl
@[simp] theorem Core.mend_kern (c : Core) (arr lo n : Nat) : (c.mend arr lo n).kern = c.kern := by unfold Core.mend; split <;> rfl
@[simp] theorem Core.mend_dict (c : Core) (arr lo n : Nat) : (c.mend arr lo n).dict = c.dict := by unfold Core.mend; split <;> rfl
@[simp] theorem Core.mend_dictBad (c : Core) (arr lo n : Nat) : (c.mend arr lo n).dictBad = c.dictBad := by unfold Core.mend; split <;> rfl
@[simp] theorem Core.mend_lines (c : Core) (arr lo n : Nat) : (c.mend arr lo n).lines = c.lines := by unfold Core.mend; split <;> rfl
@[simp] theorem Core.mend_codeSeen (c : Core) (arr lo n : Nat) : (c.mend arr lo n).codeSeen = c.codeSeen := by unfold Core.mend; split <;> rfl
@[simp] theorem Core.mend_fetch (c : Core) (arr lo n : Nat) : (c.mend arr lo n).fetch = c.fetch := by unfold Core.mend; split <;> rfl
@[simp] theorem Core.mend_badfetch (c : Core) (arr lo n : Nat) : (c.mend arr lo n).badfetch = c.badfetch := by unfold Core.mend; split <;> rfl
@[simp] theorem Core.mend_flight (c : Core) (arr lo n : Nat) : (c.mend arr lo n).flight = c.flight := by unfold Core.mend; split <;> rfl
@[simp] theorem Core.mend_captured (c : Core) (arr lo n : Nat) : (c.mend arr lo n).captured = c.captured := by unfold Core.mend; split <;> rfl
@[simp] theorem Core.mend_resume (c : Core) (arr lo n : Nat) : (c.mend arr lo n).resume = c.resume := by unfold Core.mend; split <;> rfl
@[simp] theorem Core.mend_mu (c : Core) (arr lo n : Nat) : (c.mend arr lo n).mu = c.mu := by unfold Core.mend; split <;> rfl
@[simp] theorem Core.mend_sump (c : Core) (arr lo n : Nat) : (c.mend arr lo n).sump = c.sump := by unfold Core.mend; split <;> rfl
@[simp] theorem Core.mend_heldCls (c : Core) (arr lo n : Nat) : (c.mend arr lo n).heldCls = c.heldCls := by unfold Core.mend; split <;> rfl
@[simp] theorem Core.mend_l1 (c : Core) (arr lo n : Nat) : (c.mend arr lo n).l1 = c.l1 := by unfold Core.mend; split <;> rfl
@[simp] theorem Core.mend_l1old (c : Core) (arr lo n : Nat) : (c.mend arr lo n).l1old = c.l1old := by unfold Core.mend; split <;> rfl
@[simp] theorem Core.mend_fences (c : Core) (arr lo n : Nat) : (c.mend arr lo n).fences = c.fences := by unfold Core.mend; split <;> rfl
@[simp] theorem Core.mend_tlb (c : Core) (arr lo n : Nat) : (c.mend arr lo n).tlb = c.tlb := by unfold Core.mend; split <;> rfl
@[simp] theorem Core.mend_ocache (c : Core) (arr lo n : Nat) : (c.mend arr lo n).ocache = c.ocache := by unfold Core.mend; split <;> rfl
@[simp] theorem Core.mend_declared (c : Core) (arr lo n : Nat) : (c.mend arr lo n).declared = c.declared := by unfold Core.mend; split <;> rfl
@[simp] theorem Core.mend_chans (c : Core) (arr lo n : Nat) : (c.mend arr lo n).chans = c.chans := by unfold Core.mend; split <;> rfl
@[simp] theorem Core.mend_wl (c : Core) (arr lo n : Nat) : (c.mend arr lo n).wl = c.wl := by unfold Core.mend; split <;> rfl
@[simp] theorem Core.mend_iss (c : Core) (arr lo n : Nat) : (c.mend arr lo n).iss = c.iss := by unfold Core.mend; split <;> rfl
@[simp] theorem Core.mend_hold (c : Core) (arr lo n : Nat) : (c.mend arr lo n).hold = c.hold := by unfold Core.mend; split <;> rfl
@[simp] theorem Core.mend_task (c : Core) (arr lo n : Nat) : (c.mend arr lo n).task = c.task := by unfold Core.mend; split <;> rfl
@[simp] theorem Core.mend_ranges (c : Core) (arr lo n : Nat) : (c.mend arr lo n).ranges = c.ranges := by unfold Core.mend; split <;> rfl
@[simp] theorem Core.mend_bcast (c : Core) (arr lo n : Nat) : (c.mend arr lo n).bcast = c.bcast := by unfold Core.mend; split <;> rfl
@[simp] theorem Core.mend_gclock (c : Core) (arr lo n : Nat) : (c.mend arr lo n).gclock = c.gclock := by unfold Core.mend; split <;> rfl
@[simp] theorem Core.mend_sigs (c : Core) (arr lo n : Nat) : (c.mend arr lo n).sigs = c.sigs := by unfold Core.mend; split <;> rfl
@[simp] theorem Core.mend_sigNow (c : Core) (arr lo n : Nat) : (c.mend arr lo n).sigNow = c.sigNow := by unfold Core.mend; split <;> rfl
@[simp] theorem Core.mend_log (c : Core) (arr lo n : Nat) : (c.mend arr lo n).log = c.log := by unfold Core.mend; split <;> rfl
@[simp] theorem Core.mend_segOpen (c : Core) (arr lo n : Nat) : (c.mend arr lo n).segOpen = c.segOpen := by unfold Core.mend; split <;> rfl
@[simp] theorem Core.mend_reseg (c : Core) (arr lo n : Nat) : (c.mend arr lo n).reseg = c.reseg := by unfold Core.mend; split <;> rfl
@[simp] theorem Core.mend_strike (c : Core) (arr lo n : Nat) : (c.mend arr lo n).strike = c.strike := by unfold Core.mend; split <;> rfl
@[simp] theorem Core.mend_back (c : Core) (arr lo n : Nat) : (c.mend arr lo n).back = c.back := by unfold Core.mend; split <;> rfl
@[simp] theorem Core.mend_halted (c : Core) (arr lo n : Nat) : (c.mend arr lo n).halted = c.halted := by unfold Core.mend; split <;> rfl
@[simp] theorem Core.mend_segAt (c : Core) (arr lo n : Nat) : (c.mend arr lo n).segAt = c.segAt := by unfold Core.mend; split <;> rfl
@[simp] theorem Core.mend_segRun (c : Core) (arr lo n : Nat) : (c.mend arr lo n).segRun = c.segRun := by unfold Core.mend; split <;> rfl
@[simp] theorem Core.mend_stood (c : Core) (arr lo n : Nat) : (c.mend arr lo n).stood = c.stood := by unfold Core.mend; split <;> rfl
@[simp] theorem Core.mend_undoRows (c : Core) (arr lo n : Nat) : (c.mend arr lo n).undoRows = c.undoRows := by unfold Core.mend; split <;> rfl
@[simp] theorem Core.mend_undoEnts (c : Core) (arr lo n : Nat) : (c.mend arr lo n).undoEnts = c.undoEnts := by unfold Core.mend; split <;> rfl
@[simp] theorem Core.mend_ckpt (c : Core) (arr lo n : Nat) : (c.mend arr lo n).ckpt = c.ckpt := by unfold Core.mend; split <;> rfl
@[simp] theorem Core.mend_rewinds (c : Core) (arr lo n : Nat) : (c.mend arr lo n).rewinds = c.rewinds := by unfold Core.mend; split <;> rfl
@[simp] theorem Core.mend_abort (c : Core) (arr lo n : Nat) : (c.mend arr lo n).abort = c.abort := by unfold Core.mend; split <;> rfl
@[simp] theorem Core.mend_clock (c : Core) (arr lo n : Nat) : (c.mend arr lo n).clock = c.clock := by unfold Core.mend; split <;> rfl

@[simp] theorem Core.giveBack_pc (c : Core) (e : Tile) : (c.giveBack e).pc = c.pc := by unfold Core.giveBack; split <;> rfl
@[simp] theorem Core.giveBack_ports (c : Core) (e : Tile) : (c.giveBack e).ports = c.ports := by unfold Core.giveBack; split <;> rfl
@[simp] theorem Core.giveBack_sp (c : Core) (e : Tile) : (c.giveBack e).sp = c.sp := by unfold Core.giveBack; split <;> rfl
@[simp] theorem Core.giveBack_tiles (c : Core) (e : Tile) : (c.giveBack e).tiles = c.tiles := by unfold Core.giveBack; split <;> rfl
@[simp] theorem Core.giveBack_dets (c : Core) (e : Tile) : (c.giveBack e).dets = c.dets := by unfold Core.giveBack; split <;> rfl
@[simp] theorem Core.giveBack_om (c : Core) (e : Tile) : (c.giveBack e).om = c.om := by unfold Core.giveBack; split <;> rfl
@[simp] theorem Core.giveBack_omd (c : Core) (e : Tile) : (c.giveBack e).omd = c.omd := by unfold Core.giveBack; split <;> rfl
@[simp] theorem Core.giveBack_tree (c : Core) (e : Tile) : (c.giveBack e).tree = c.tree := by unfold Core.giveBack; split <;> rfl
@[simp] theorem Core.giveBack_pats (c : Core) (e : Tile) : (c.giveBack e).pats = c.pats := by unfold Core.giveBack; split <;> rfl
@[simp] theorem Core.giveBack_mat (c : Core) (e : Tile) : (c.giveBack e).mat = c.mat := by unfold Core.giveBack; split <;> rfl
@[simp] theorem Core.giveBack_rtns (c : Core) (e : Tile) : (c.giveBack e).rtns = c.rtns := by unfold Core.giveBack; split <;> rfl
@[simp] theorem Core.giveBack_kern (c : Core) (e : Tile) : (c.giveBack e).kern = c.kern := by unfold Core.giveBack; split <;> rfl
@[simp] theorem Core.giveBack_dict (c : Core) (e : Tile) : (c.giveBack e).dict = c.dict := by unfold Core.giveBack; split <;> rfl
@[simp] theorem Core.giveBack_dictBad (c : Core) (e : Tile) : (c.giveBack e).dictBad = c.dictBad := by unfold Core.giveBack; split <;> rfl
@[simp] theorem Core.giveBack_lines (c : Core) (e : Tile) : (c.giveBack e).lines = c.lines := by unfold Core.giveBack; split <;> rfl
@[simp] theorem Core.giveBack_codeSeen (c : Core) (e : Tile) : (c.giveBack e).codeSeen = c.codeSeen := by unfold Core.giveBack; split <;> rfl
@[simp] theorem Core.giveBack_fetch (c : Core) (e : Tile) : (c.giveBack e).fetch = c.fetch := by unfold Core.giveBack; split <;> rfl
@[simp] theorem Core.giveBack_badfetch (c : Core) (e : Tile) : (c.giveBack e).badfetch = c.badfetch := by unfold Core.giveBack; split <;> rfl
@[simp] theorem Core.giveBack_flight (c : Core) (e : Tile) : (c.giveBack e).flight = c.flight := by unfold Core.giveBack; split <;> rfl
@[simp] theorem Core.giveBack_captured (c : Core) (e : Tile) : (c.giveBack e).captured = c.captured := by unfold Core.giveBack; split <;> rfl
@[simp] theorem Core.giveBack_resume (c : Core) (e : Tile) : (c.giveBack e).resume = c.resume := by unfold Core.giveBack; split <;> rfl
@[simp] theorem Core.giveBack_mu (c : Core) (e : Tile) : (c.giveBack e).mu = c.mu := by unfold Core.giveBack; split <;> rfl
@[simp] theorem Core.giveBack_sump (c : Core) (e : Tile) : (c.giveBack e).sump = c.sump := by unfold Core.giveBack; split <;> rfl
@[simp] theorem Core.giveBack_heldCls (c : Core) (e : Tile) : (c.giveBack e).heldCls = c.heldCls := by unfold Core.giveBack; split <;> rfl
@[simp] theorem Core.giveBack_l1 (c : Core) (e : Tile) : (c.giveBack e).l1 = c.l1 := by unfold Core.giveBack; split <;> rfl
@[simp] theorem Core.giveBack_l1old (c : Core) (e : Tile) : (c.giveBack e).l1old = c.l1old := by unfold Core.giveBack; split <;> rfl
@[simp] theorem Core.giveBack_fences (c : Core) (e : Tile) : (c.giveBack e).fences = c.fences := by unfold Core.giveBack; split <;> rfl
@[simp] theorem Core.giveBack_tlb (c : Core) (e : Tile) : (c.giveBack e).tlb = c.tlb := by unfold Core.giveBack; split <;> rfl
@[simp] theorem Core.giveBack_ocache (c : Core) (e : Tile) : (c.giveBack e).ocache = c.ocache := by unfold Core.giveBack; split <;> rfl
@[simp] theorem Core.giveBack_declared (c : Core) (e : Tile) : (c.giveBack e).declared = c.declared := by unfold Core.giveBack; split <;> rfl
@[simp] theorem Core.giveBack_chans (c : Core) (e : Tile) : (c.giveBack e).chans = c.chans := by unfold Core.giveBack; split <;> rfl
@[simp] theorem Core.giveBack_wl (c : Core) (e : Tile) : (c.giveBack e).wl = c.wl := by unfold Core.giveBack; split <;> rfl
@[simp] theorem Core.giveBack_iss (c : Core) (e : Tile) : (c.giveBack e).iss = c.iss := by unfold Core.giveBack; split <;> rfl
@[simp] theorem Core.giveBack_hold (c : Core) (e : Tile) : (c.giveBack e).hold = c.hold := by unfold Core.giveBack; split <;> rfl
@[simp] theorem Core.giveBack_task (c : Core) (e : Tile) : (c.giveBack e).task = c.task := by unfold Core.giveBack; split <;> rfl
@[simp] theorem Core.giveBack_ranges (c : Core) (e : Tile) : (c.giveBack e).ranges = c.ranges := by unfold Core.giveBack; split <;> rfl
@[simp] theorem Core.giveBack_bcast (c : Core) (e : Tile) : (c.giveBack e).bcast = c.bcast := by unfold Core.giveBack; split <;> rfl
@[simp] theorem Core.giveBack_gclock (c : Core) (e : Tile) : (c.giveBack e).gclock = c.gclock := by unfold Core.giveBack; split <;> rfl
@[simp] theorem Core.giveBack_sigs (c : Core) (e : Tile) : (c.giveBack e).sigs = c.sigs := by unfold Core.giveBack; split <;> rfl
@[simp] theorem Core.giveBack_sigNow (c : Core) (e : Tile) : (c.giveBack e).sigNow = c.sigNow := by unfold Core.giveBack; split <;> rfl
@[simp] theorem Core.giveBack_log (c : Core) (e : Tile) : (c.giveBack e).log = c.log := by unfold Core.giveBack; split <;> rfl
@[simp] theorem Core.giveBack_segOpen (c : Core) (e : Tile) : (c.giveBack e).segOpen = c.segOpen := by unfold Core.giveBack; split <;> rfl
@[simp] theorem Core.giveBack_reseg (c : Core) (e : Tile) : (c.giveBack e).reseg = c.reseg := by unfold Core.giveBack; split <;> rfl
@[simp] theorem Core.giveBack_strike (c : Core) (e : Tile) : (c.giveBack e).strike = c.strike := by unfold Core.giveBack; split <;> rfl
@[simp] theorem Core.giveBack_back (c : Core) (e : Tile) : (c.giveBack e).back = c.back := by unfold Core.giveBack; split <;> rfl
@[simp] theorem Core.giveBack_halted (c : Core) (e : Tile) : (c.giveBack e).halted = c.halted := by unfold Core.giveBack; split <;> rfl
@[simp] theorem Core.giveBack_segAt (c : Core) (e : Tile) : (c.giveBack e).segAt = c.segAt := by unfold Core.giveBack; split <;> rfl
@[simp] theorem Core.giveBack_segRun (c : Core) (e : Tile) : (c.giveBack e).segRun = c.segRun := by unfold Core.giveBack; split <;> rfl
@[simp] theorem Core.giveBack_stood (c : Core) (e : Tile) : (c.giveBack e).stood = c.stood := by unfold Core.giveBack; split <;> rfl
@[simp] theorem Core.giveBack_undoRows (c : Core) (e : Tile) : (c.giveBack e).undoRows = c.undoRows := by unfold Core.giveBack; split <;> rfl
@[simp] theorem Core.giveBack_undoEnts (c : Core) (e : Tile) : (c.giveBack e).undoEnts = c.undoEnts := by unfold Core.giveBack; split <;> rfl
@[simp] theorem Core.giveBack_ckpt (c : Core) (e : Tile) : (c.giveBack e).ckpt = c.ckpt := by unfold Core.giveBack; split <;> rfl
@[simp] theorem Core.giveBack_rewinds (c : Core) (e : Tile) : (c.giveBack e).rewinds = c.rewinds := by unfold Core.giveBack; split <;> rfl
@[simp] theorem Core.giveBack_badWords (c : Core) (e : Tile) : (c.giveBack e).badWords = c.badWords := by unfold Core.giveBack; split <;> rfl
@[simp] theorem Core.giveBack_abort (c : Core) (e : Tile) : (c.giveBack e).abort = c.abort := by unfold Core.giveBack; split <;> rfl
@[simp] theorem Core.giveBack_clock (c : Core) (e : Tile) : (c.giveBack e).clock = c.clock := by unfold Core.giveBack; split <;> rfl

@[simp] theorem Core.dropRep_r (c : Core) (e : Tile) : (c.dropRep e).r = c.r := by unfold Core.dropRep; split <;> rfl
@[simp] theorem Core.dropRep_pc (c : Core) (e : Tile) : (c.dropRep e).pc = c.pc := by unfold Core.dropRep; split <;> rfl
@[simp] theorem Core.dropRep_ports (c : Core) (e : Tile) : (c.dropRep e).ports = c.ports := by unfold Core.dropRep; split <;> rfl
@[simp] theorem Core.dropRep_sp (c : Core) (e : Tile) : (c.dropRep e).sp = c.sp := by unfold Core.dropRep; split <;> rfl
@[simp] theorem Core.dropRep_free (c : Core) (e : Tile) : (c.dropRep e).free = c.free := by unfold Core.dropRep; split <;> rfl
@[simp] theorem Core.dropRep_dets (c : Core) (e : Tile) : (c.dropRep e).dets = c.dets := by unfold Core.dropRep; split <;> rfl
@[simp] theorem Core.dropRep_om (c : Core) (e : Tile) : (c.dropRep e).om = c.om := by unfold Core.dropRep; split <;> rfl
@[simp] theorem Core.dropRep_omd (c : Core) (e : Tile) : (c.dropRep e).omd = c.omd := by unfold Core.dropRep; split <;> rfl
@[simp] theorem Core.dropRep_tree (c : Core) (e : Tile) : (c.dropRep e).tree = c.tree := by unfold Core.dropRep; split <;> rfl
@[simp] theorem Core.dropRep_pats (c : Core) (e : Tile) : (c.dropRep e).pats = c.pats := by unfold Core.dropRep; split <;> rfl
@[simp] theorem Core.dropRep_mat (c : Core) (e : Tile) : (c.dropRep e).mat = c.mat := by unfold Core.dropRep; split <;> rfl
@[simp] theorem Core.dropRep_rtns (c : Core) (e : Tile) : (c.dropRep e).rtns = c.rtns := by unfold Core.dropRep; split <;> rfl
@[simp] theorem Core.dropRep_kern (c : Core) (e : Tile) : (c.dropRep e).kern = c.kern := by unfold Core.dropRep; split <;> rfl
@[simp] theorem Core.dropRep_dict (c : Core) (e : Tile) : (c.dropRep e).dict = c.dict := by unfold Core.dropRep; split <;> rfl
@[simp] theorem Core.dropRep_dictBad (c : Core) (e : Tile) : (c.dropRep e).dictBad = c.dictBad := by unfold Core.dropRep; split <;> rfl
@[simp] theorem Core.dropRep_lines (c : Core) (e : Tile) : (c.dropRep e).lines = c.lines := by unfold Core.dropRep; split <;> rfl
@[simp] theorem Core.dropRep_codeSeen (c : Core) (e : Tile) : (c.dropRep e).codeSeen = c.codeSeen := by unfold Core.dropRep; split <;> rfl
@[simp] theorem Core.dropRep_fetch (c : Core) (e : Tile) : (c.dropRep e).fetch = c.fetch := by unfold Core.dropRep; split <;> rfl
@[simp] theorem Core.dropRep_badfetch (c : Core) (e : Tile) : (c.dropRep e).badfetch = c.badfetch := by unfold Core.dropRep; split <;> rfl
@[simp] theorem Core.dropRep_flight (c : Core) (e : Tile) : (c.dropRep e).flight = c.flight := by unfold Core.dropRep; split <;> rfl
@[simp] theorem Core.dropRep_captured (c : Core) (e : Tile) : (c.dropRep e).captured = c.captured := by unfold Core.dropRep; split <;> rfl
@[simp] theorem Core.dropRep_resume (c : Core) (e : Tile) : (c.dropRep e).resume = c.resume := by unfold Core.dropRep; split <;> rfl
@[simp] theorem Core.dropRep_mu (c : Core) (e : Tile) : (c.dropRep e).mu = c.mu := by unfold Core.dropRep; split <;> rfl
@[simp] theorem Core.dropRep_sump (c : Core) (e : Tile) : (c.dropRep e).sump = c.sump := by unfold Core.dropRep; split <;> rfl
@[simp] theorem Core.dropRep_heldCls (c : Core) (e : Tile) : (c.dropRep e).heldCls = c.heldCls := by unfold Core.dropRep; split <;> rfl
@[simp] theorem Core.dropRep_l1 (c : Core) (e : Tile) : (c.dropRep e).l1 = c.l1 := by unfold Core.dropRep; split <;> rfl
@[simp] theorem Core.dropRep_l1old (c : Core) (e : Tile) : (c.dropRep e).l1old = c.l1old := by unfold Core.dropRep; split <;> rfl
@[simp] theorem Core.dropRep_fences (c : Core) (e : Tile) : (c.dropRep e).fences = c.fences := by unfold Core.dropRep; split <;> rfl
@[simp] theorem Core.dropRep_tlb (c : Core) (e : Tile) : (c.dropRep e).tlb = c.tlb := by unfold Core.dropRep; split <;> rfl
@[simp] theorem Core.dropRep_ocache (c : Core) (e : Tile) : (c.dropRep e).ocache = c.ocache := by unfold Core.dropRep; split <;> rfl
@[simp] theorem Core.dropRep_declared (c : Core) (e : Tile) : (c.dropRep e).declared = c.declared := by unfold Core.dropRep; split <;> rfl
@[simp] theorem Core.dropRep_chans (c : Core) (e : Tile) : (c.dropRep e).chans = c.chans := by unfold Core.dropRep; split <;> rfl
@[simp] theorem Core.dropRep_wl (c : Core) (e : Tile) : (c.dropRep e).wl = c.wl := by unfold Core.dropRep; split <;> rfl
@[simp] theorem Core.dropRep_iss (c : Core) (e : Tile) : (c.dropRep e).iss = c.iss := by unfold Core.dropRep; split <;> rfl
@[simp] theorem Core.dropRep_hold (c : Core) (e : Tile) : (c.dropRep e).hold = c.hold := by unfold Core.dropRep; split <;> rfl
@[simp] theorem Core.dropRep_task (c : Core) (e : Tile) : (c.dropRep e).task = c.task := by unfold Core.dropRep; split <;> rfl
@[simp] theorem Core.dropRep_ranges (c : Core) (e : Tile) : (c.dropRep e).ranges = c.ranges := by unfold Core.dropRep; split <;> rfl
@[simp] theorem Core.dropRep_bcast (c : Core) (e : Tile) : (c.dropRep e).bcast = c.bcast := by unfold Core.dropRep; split <;> rfl
@[simp] theorem Core.dropRep_gclock (c : Core) (e : Tile) : (c.dropRep e).gclock = c.gclock := by unfold Core.dropRep; split <;> rfl
@[simp] theorem Core.dropRep_sigs (c : Core) (e : Tile) : (c.dropRep e).sigs = c.sigs := by unfold Core.dropRep; split <;> rfl
@[simp] theorem Core.dropRep_sigNow (c : Core) (e : Tile) : (c.dropRep e).sigNow = c.sigNow := by unfold Core.dropRep; split <;> rfl
@[simp] theorem Core.dropRep_log (c : Core) (e : Tile) : (c.dropRep e).log = c.log := by unfold Core.dropRep; split <;> rfl
@[simp] theorem Core.dropRep_segOpen (c : Core) (e : Tile) : (c.dropRep e).segOpen = c.segOpen := by unfold Core.dropRep; split <;> rfl
@[simp] theorem Core.dropRep_reseg (c : Core) (e : Tile) : (c.dropRep e).reseg = c.reseg := by unfold Core.dropRep; split <;> rfl
@[simp] theorem Core.dropRep_strike (c : Core) (e : Tile) : (c.dropRep e).strike = c.strike := by unfold Core.dropRep; split <;> rfl
@[simp] theorem Core.dropRep_back (c : Core) (e : Tile) : (c.dropRep e).back = c.back := by unfold Core.dropRep; split <;> rfl
@[simp] theorem Core.dropRep_halted (c : Core) (e : Tile) : (c.dropRep e).halted = c.halted := by unfold Core.dropRep; split <;> rfl
@[simp] theorem Core.dropRep_segAt (c : Core) (e : Tile) : (c.dropRep e).segAt = c.segAt := by unfold Core.dropRep; split <;> rfl
@[simp] theorem Core.dropRep_segRun (c : Core) (e : Tile) : (c.dropRep e).segRun = c.segRun := by unfold Core.dropRep; split <;> rfl
@[simp] theorem Core.dropRep_stood (c : Core) (e : Tile) : (c.dropRep e).stood = c.stood := by unfold Core.dropRep; split <;> rfl
@[simp] theorem Core.dropRep_undoRows (c : Core) (e : Tile) : (c.dropRep e).undoRows = c.undoRows := by unfold Core.dropRep; split <;> rfl
@[simp] theorem Core.dropRep_undoEnts (c : Core) (e : Tile) : (c.dropRep e).undoEnts = c.undoEnts := by unfold Core.dropRep; split <;> rfl
@[simp] theorem Core.dropRep_ckpt (c : Core) (e : Tile) : (c.dropRep e).ckpt = c.ckpt := by unfold Core.dropRep; split <;> rfl
@[simp] theorem Core.dropRep_rewinds (c : Core) (e : Tile) : (c.dropRep e).rewinds = c.rewinds := by unfold Core.dropRep; split <;> rfl
@[simp] theorem Core.dropRep_badWords (c : Core) (e : Tile) : (c.dropRep e).badWords = c.badWords := by unfold Core.dropRep; split <;> rfl
@[simp] theorem Core.dropRep_abort (c : Core) (e : Tile) : (c.dropRep e).abort = c.abort := by unfold Core.dropRep; split <;> rfl
@[simp] theorem Core.dropRep_clock (c : Core) (e : Tile) : (c.dropRep e).clock = c.clock := by unfold Core.dropRep; split <;> rfl

/-! ### The machine -/

@[simp] theorem State.onCore_core (s : State) (f : Core → Core) : (s.onCore f).core = f s.core := rfl
@[simp] theorem State.onCore_cid (s : State) (f : Core → Core) : (s.onCore f).cid = s.cid := rfl
@[simp] theorem State.onCore_others (s : State) (f : Core → Core) : (s.onCore f).others = s.others := rfl
@[simp] theorem State.onCore_turn (s : State) (f : Core → Core) : (s.onCore f).turn = s.turn := rfl
@[simp] theorem State.onCore_cycle (s : State) (f : Core → Core) : (s.onCore f).cycle = s.cycle := rfl
@[simp] theorem State.onCore_free (s : State) (f : Core → Core) : (s.onCore f).free = s.free := rfl
@[simp] theorem State.onCore_inputs (s : State) (f : Core → Core) : (s.onCore f).inputs = s.inputs := rfl
@[simp] theorem State.onCore_fw (s : State) (f : Core → Core) : (s.onCore f).fw = s.fw := rfl
@[simp] theorem State.onCore_mem (s : State) (f : Core → Core) : (s.onCore f).mem = s.mem := rfl
@[simp] theorem State.onCore_unc (s : State) (f : Core → Core) : (s.onCore f).unc = s.unc := rfl
@[simp] theorem State.onCore_spaces (s : State) (f : Core → Core) : (s.onCore f).spaces = s.spaces := rfl
@[simp] theorem State.onCore_jobs (s : State) (f : Core → Core) : (s.onCore f).jobs = s.jobs := rfl
@[simp] theorem State.onCore_slots (s : State) (f : Core → Core) : (s.onCore f).slots = s.slots := rfl
@[simp] theorem State.onCore_accs (s : State) (f : Core → Core) : (s.onCore f).accs = s.accs := rfl
@[simp] theorem State.onCore_faults (s : State) (f : Core → Core) : (s.onCore f).faults = s.faults := rfl
@[simp] theorem State.onCore_hot (s : State) (f : Core → Core) : (s.onCore f).hot = s.hot := rfl
@[simp] theorem State.onCore_hotthr (s : State) (f : Core → Core) : (s.onCore f).hotthr = s.hotthr := rfl
@[simp] theorem State.onCore_wtlb (s : State) (f : Core → Core) : (s.onCore f).wtlb = s.wtlb := rfl
@[simp] theorem State.onCore_walks (s : State) (f : Core → Core) : (s.onCore f).walks = s.walks := rfl
@[simp] theorem State.onCore_nextChange (s : State) (f : Core → Core) : (s.onCore f).nextChange = s.nextChange := rfl
@[simp] theorem State.onCore_drains (s : State) (f : Core → Core) : (s.onCore f).drains = s.drains := rfl
@[simp] theorem State.onCore_nextFrame (s : State) (f : Core → Core) : (s.onCore f).nextFrame = s.nextFrame := rfl
@[simp] theorem State.onCore_notes (s : State) (f : Core → Core) : (s.onCore f).notes = s.notes := rfl
@[simp] theorem State.onCore_ustamp (s : State) (f : Core → Core) : (s.onCore f).ustamp = s.ustamp := rfl
@[simp] theorem State.onCore_freePages (s : State) (f : Core → Core) : (s.onCore f).freePages = s.freePages := rfl
@[simp] theorem State.onCore_freeHi (s : State) (f : Core → Core) : (s.onCore f).freeHi = s.freeHi := rfl
@[simp] theorem State.onCore_freeLo (s : State) (f : Core → Core) : (s.onCore f).freeLo = s.freeLo := rfl
@[simp] theorem State.onCore_host (s : State) (f : Core → Core) : (s.onCore f).host = s.host := rfl
@[simp] theorem State.onCore_stroke (s : State) (f : Core → Core) : (s.onCore f).stroke = s.stroke := rfl
@[simp] theorem State.onCore_stklen (s : State) (f : Core → Core) : (s.onCore f).stklen = s.stklen := rfl
@[simp] theorem State.onCore_strokePos (s : State) (f : Core → Core) : (s.onCore f).strokePos = s.strokePos := rfl
@[simp] theorem State.onCore_saves (s : State) (f : Core → Core) : (s.onCore f).saves = s.saves := rfl
@[simp] theorem State.onCore_fabric (s : State) (f : Core → Core) : (s.onCore f).fabric = s.fabric := rfl
@[simp] theorem State.onCore_therm (s : State) (f : Core → Core) : (s.onCore f).therm = s.therm := rfl

@[simp] theorem State.sched_core (s : State) (lat : Nat) (w : Write) : (s.sched lat w).core = s.core.push (s.cycle + lat) w := rfl
@[simp] theorem State.sched_cid (s : State) (lat : Nat) (w : Write) : (s.sched lat w).cid = s.cid := rfl
@[simp] theorem State.sched_others (s : State) (lat : Nat) (w : Write) : (s.sched lat w).others = s.others := rfl
@[simp] theorem State.sched_turn (s : State) (lat : Nat) (w : Write) : (s.sched lat w).turn = s.turn := rfl
@[simp] theorem State.sched_cycle (s : State) (lat : Nat) (w : Write) : (s.sched lat w).cycle = s.cycle := rfl
@[simp] theorem State.sched_free (s : State) (lat : Nat) (w : Write) : (s.sched lat w).free = s.free := rfl
@[simp] theorem State.sched_inputs (s : State) (lat : Nat) (w : Write) : (s.sched lat w).inputs = s.inputs := rfl
@[simp] theorem State.sched_fw (s : State) (lat : Nat) (w : Write) : (s.sched lat w).fw = s.fw := rfl
@[simp] theorem State.sched_mem (s : State) (lat : Nat) (w : Write) : (s.sched lat w).mem = s.mem := rfl
@[simp] theorem State.sched_unc (s : State) (lat : Nat) (w : Write) : (s.sched lat w).unc = s.unc := rfl
@[simp] theorem State.sched_spaces (s : State) (lat : Nat) (w : Write) : (s.sched lat w).spaces = s.spaces := rfl
@[simp] theorem State.sched_jobs (s : State) (lat : Nat) (w : Write) : (s.sched lat w).jobs = s.jobs := rfl
@[simp] theorem State.sched_slots (s : State) (lat : Nat) (w : Write) : (s.sched lat w).slots = s.slots := rfl
@[simp] theorem State.sched_accs (s : State) (lat : Nat) (w : Write) : (s.sched lat w).accs = s.accs := rfl
@[simp] theorem State.sched_faults (s : State) (lat : Nat) (w : Write) : (s.sched lat w).faults = s.faults := rfl
@[simp] theorem State.sched_hot (s : State) (lat : Nat) (w : Write) : (s.sched lat w).hot = s.hot := rfl
@[simp] theorem State.sched_hotthr (s : State) (lat : Nat) (w : Write) : (s.sched lat w).hotthr = s.hotthr := rfl
@[simp] theorem State.sched_wtlb (s : State) (lat : Nat) (w : Write) : (s.sched lat w).wtlb = s.wtlb := rfl
@[simp] theorem State.sched_walks (s : State) (lat : Nat) (w : Write) : (s.sched lat w).walks = s.walks := rfl
@[simp] theorem State.sched_nextChange (s : State) (lat : Nat) (w : Write) : (s.sched lat w).nextChange = s.nextChange := rfl
@[simp] theorem State.sched_drains (s : State) (lat : Nat) (w : Write) : (s.sched lat w).drains = s.drains := rfl
@[simp] theorem State.sched_nextFrame (s : State) (lat : Nat) (w : Write) : (s.sched lat w).nextFrame = s.nextFrame := rfl
@[simp] theorem State.sched_notes (s : State) (lat : Nat) (w : Write) : (s.sched lat w).notes = s.notes := rfl
@[simp] theorem State.sched_ustamp (s : State) (lat : Nat) (w : Write) : (s.sched lat w).ustamp = s.ustamp := rfl
@[simp] theorem State.sched_freePages (s : State) (lat : Nat) (w : Write) : (s.sched lat w).freePages = s.freePages := rfl
@[simp] theorem State.sched_freeHi (s : State) (lat : Nat) (w : Write) : (s.sched lat w).freeHi = s.freeHi := rfl
@[simp] theorem State.sched_freeLo (s : State) (lat : Nat) (w : Write) : (s.sched lat w).freeLo = s.freeLo := rfl
@[simp] theorem State.sched_host (s : State) (lat : Nat) (w : Write) : (s.sched lat w).host = s.host := rfl
@[simp] theorem State.sched_stroke (s : State) (lat : Nat) (w : Write) : (s.sched lat w).stroke = s.stroke := rfl
@[simp] theorem State.sched_stklen (s : State) (lat : Nat) (w : Write) : (s.sched lat w).stklen = s.stklen := rfl
@[simp] theorem State.sched_strokePos (s : State) (lat : Nat) (w : Write) : (s.sched lat w).strokePos = s.strokePos := rfl
@[simp] theorem State.sched_saves (s : State) (lat : Nat) (w : Write) : (s.sched lat w).saves = s.saves := rfl
@[simp] theorem State.sched_fabric (s : State) (lat : Nat) (w : Write) : (s.sched lat w).fabric = s.fabric := rfl
@[simp] theorem State.sched_therm (s : State) (lat : Nat) (w : Write) : (s.sched lat w).therm = s.therm := rfl

@[simp] theorem State.schedX_core (s : State) (lat : Nat) (d : XReg) (v : Word) : (s.schedX lat d v).core = s.core.push (s.cycle + lat) (.x d v) := rfl
@[simp] theorem State.schedX_cid (s : State) (lat : Nat) (d : XReg) (v : Word) : (s.schedX lat d v).cid = s.cid := rfl
@[simp] theorem State.schedX_others (s : State) (lat : Nat) (d : XReg) (v : Word) : (s.schedX lat d v).others = s.others := rfl
@[simp] theorem State.schedX_turn (s : State) (lat : Nat) (d : XReg) (v : Word) : (s.schedX lat d v).turn = s.turn := rfl
@[simp] theorem State.schedX_cycle (s : State) (lat : Nat) (d : XReg) (v : Word) : (s.schedX lat d v).cycle = s.cycle := rfl
@[simp] theorem State.schedX_free (s : State) (lat : Nat) (d : XReg) (v : Word) : (s.schedX lat d v).free = s.free := rfl
@[simp] theorem State.schedX_inputs (s : State) (lat : Nat) (d : XReg) (v : Word) : (s.schedX lat d v).inputs = s.inputs := rfl
@[simp] theorem State.schedX_fw (s : State) (lat : Nat) (d : XReg) (v : Word) : (s.schedX lat d v).fw = s.fw := rfl
@[simp] theorem State.schedX_mem (s : State) (lat : Nat) (d : XReg) (v : Word) : (s.schedX lat d v).mem = s.mem := rfl
@[simp] theorem State.schedX_unc (s : State) (lat : Nat) (d : XReg) (v : Word) : (s.schedX lat d v).unc = s.unc := rfl
@[simp] theorem State.schedX_spaces (s : State) (lat : Nat) (d : XReg) (v : Word) : (s.schedX lat d v).spaces = s.spaces := rfl
@[simp] theorem State.schedX_jobs (s : State) (lat : Nat) (d : XReg) (v : Word) : (s.schedX lat d v).jobs = s.jobs := rfl
@[simp] theorem State.schedX_slots (s : State) (lat : Nat) (d : XReg) (v : Word) : (s.schedX lat d v).slots = s.slots := rfl
@[simp] theorem State.schedX_accs (s : State) (lat : Nat) (d : XReg) (v : Word) : (s.schedX lat d v).accs = s.accs := rfl
@[simp] theorem State.schedX_faults (s : State) (lat : Nat) (d : XReg) (v : Word) : (s.schedX lat d v).faults = s.faults := rfl
@[simp] theorem State.schedX_hot (s : State) (lat : Nat) (d : XReg) (v : Word) : (s.schedX lat d v).hot = s.hot := rfl
@[simp] theorem State.schedX_hotthr (s : State) (lat : Nat) (d : XReg) (v : Word) : (s.schedX lat d v).hotthr = s.hotthr := rfl
@[simp] theorem State.schedX_wtlb (s : State) (lat : Nat) (d : XReg) (v : Word) : (s.schedX lat d v).wtlb = s.wtlb := rfl
@[simp] theorem State.schedX_walks (s : State) (lat : Nat) (d : XReg) (v : Word) : (s.schedX lat d v).walks = s.walks := rfl
@[simp] theorem State.schedX_nextChange (s : State) (lat : Nat) (d : XReg) (v : Word) : (s.schedX lat d v).nextChange = s.nextChange := rfl
@[simp] theorem State.schedX_drains (s : State) (lat : Nat) (d : XReg) (v : Word) : (s.schedX lat d v).drains = s.drains := rfl
@[simp] theorem State.schedX_nextFrame (s : State) (lat : Nat) (d : XReg) (v : Word) : (s.schedX lat d v).nextFrame = s.nextFrame := rfl
@[simp] theorem State.schedX_notes (s : State) (lat : Nat) (d : XReg) (v : Word) : (s.schedX lat d v).notes = s.notes := rfl
@[simp] theorem State.schedX_ustamp (s : State) (lat : Nat) (d : XReg) (v : Word) : (s.schedX lat d v).ustamp = s.ustamp := rfl
@[simp] theorem State.schedX_freePages (s : State) (lat : Nat) (d : XReg) (v : Word) : (s.schedX lat d v).freePages = s.freePages := rfl
@[simp] theorem State.schedX_freeHi (s : State) (lat : Nat) (d : XReg) (v : Word) : (s.schedX lat d v).freeHi = s.freeHi := rfl
@[simp] theorem State.schedX_freeLo (s : State) (lat : Nat) (d : XReg) (v : Word) : (s.schedX lat d v).freeLo = s.freeLo := rfl
@[simp] theorem State.schedX_host (s : State) (lat : Nat) (d : XReg) (v : Word) : (s.schedX lat d v).host = s.host := rfl
@[simp] theorem State.schedX_stroke (s : State) (lat : Nat) (d : XReg) (v : Word) : (s.schedX lat d v).stroke = s.stroke := rfl
@[simp] theorem State.schedX_stklen (s : State) (lat : Nat) (d : XReg) (v : Word) : (s.schedX lat d v).stklen = s.stklen := rfl
@[simp] theorem State.schedX_strokePos (s : State) (lat : Nat) (d : XReg) (v : Word) : (s.schedX lat d v).strokePos = s.strokePos := rfl
@[simp] theorem State.schedX_saves (s : State) (lat : Nat) (d : XReg) (v : Word) : (s.schedX lat d v).saves = s.saves := rfl
@[simp] theorem State.schedX_fabric (s : State) (lat : Nat) (d : XReg) (v : Word) : (s.schedX lat d v).fabric = s.fabric := rfl
@[simp] theorem State.schedX_therm (s : State) (lat : Nat) (d : XReg) (v : Word) : (s.schedX lat d v).therm = s.therm := rfl

@[simp] theorem State.wait_core (s : State) : (s.wait).core = { s.core with iss := { s.core.iss with verdict := .held } } := rfl
@[simp] theorem State.wait_cid (s : State) : (s.wait).cid = s.cid := rfl
@[simp] theorem State.wait_others (s : State) : (s.wait).others = s.others := rfl
@[simp] theorem State.wait_turn (s : State) : (s.wait).turn = s.turn := rfl
@[simp] theorem State.wait_cycle (s : State) : (s.wait).cycle = s.cycle := rfl
@[simp] theorem State.wait_free (s : State) : (s.wait).free = s.free := rfl
@[simp] theorem State.wait_inputs (s : State) : (s.wait).inputs = s.inputs := rfl
@[simp] theorem State.wait_fw (s : State) : (s.wait).fw = s.fw := rfl
@[simp] theorem State.wait_mem (s : State) : (s.wait).mem = s.mem := rfl
@[simp] theorem State.wait_unc (s : State) : (s.wait).unc = s.unc := rfl
@[simp] theorem State.wait_spaces (s : State) : (s.wait).spaces = s.spaces := rfl
@[simp] theorem State.wait_jobs (s : State) : (s.wait).jobs = s.jobs := rfl
@[simp] theorem State.wait_slots (s : State) : (s.wait).slots = s.slots := rfl
@[simp] theorem State.wait_accs (s : State) : (s.wait).accs = s.accs := rfl
@[simp] theorem State.wait_faults (s : State) : (s.wait).faults = s.faults := rfl
@[simp] theorem State.wait_hot (s : State) : (s.wait).hot = s.hot := rfl
@[simp] theorem State.wait_hotthr (s : State) : (s.wait).hotthr = s.hotthr := rfl
@[simp] theorem State.wait_wtlb (s : State) : (s.wait).wtlb = s.wtlb := rfl
@[simp] theorem State.wait_walks (s : State) : (s.wait).walks = s.walks := rfl
@[simp] theorem State.wait_nextChange (s : State) : (s.wait).nextChange = s.nextChange := rfl
@[simp] theorem State.wait_drains (s : State) : (s.wait).drains = s.drains := rfl
@[simp] theorem State.wait_nextFrame (s : State) : (s.wait).nextFrame = s.nextFrame := rfl
@[simp] theorem State.wait_notes (s : State) : (s.wait).notes = s.notes := rfl
@[simp] theorem State.wait_ustamp (s : State) : (s.wait).ustamp = s.ustamp := rfl
@[simp] theorem State.wait_freePages (s : State) : (s.wait).freePages = s.freePages := rfl
@[simp] theorem State.wait_freeHi (s : State) : (s.wait).freeHi = s.freeHi := rfl
@[simp] theorem State.wait_freeLo (s : State) : (s.wait).freeLo = s.freeLo := rfl
@[simp] theorem State.wait_host (s : State) : (s.wait).host = s.host := rfl
@[simp] theorem State.wait_stroke (s : State) : (s.wait).stroke = s.stroke := rfl
@[simp] theorem State.wait_stklen (s : State) : (s.wait).stklen = s.stklen := rfl
@[simp] theorem State.wait_strokePos (s : State) : (s.wait).strokePos = s.strokePos := rfl
@[simp] theorem State.wait_saves (s : State) : (s.wait).saves = s.saves := rfl
@[simp] theorem State.wait_fabric (s : State) : (s.wait).fabric = s.fabric := rfl
@[simp] theorem State.wait_therm (s : State) : (s.wait).therm = s.therm := rfl

@[simp] theorem State.trapSlot_cid (s : State) (t : Trap) (past : Nat) : (s.trapSlot t past).cid = s.cid := rfl
@[simp] theorem State.trapSlot_others (s : State) (t : Trap) (past : Nat) : (s.trapSlot t past).others = s.others := rfl
@[simp] theorem State.trapSlot_turn (s : State) (t : Trap) (past : Nat) : (s.trapSlot t past).turn = s.turn := rfl
@[simp] theorem State.trapSlot_cycle (s : State) (t : Trap) (past : Nat) : (s.trapSlot t past).cycle = s.cycle := rfl
@[simp] theorem State.trapSlot_free (s : State) (t : Trap) (past : Nat) : (s.trapSlot t past).free = s.free := rfl
@[simp] theorem State.trapSlot_inputs (s : State) (t : Trap) (past : Nat) : (s.trapSlot t past).inputs = s.inputs := rfl
@[simp] theorem State.trapSlot_fw (s : State) (t : Trap) (past : Nat) : (s.trapSlot t past).fw = s.fw := rfl
@[simp] theorem State.trapSlot_mem (s : State) (t : Trap) (past : Nat) : (s.trapSlot t past).mem = s.mem := rfl
@[simp] theorem State.trapSlot_unc (s : State) (t : Trap) (past : Nat) : (s.trapSlot t past).unc = s.unc := rfl
@[simp] theorem State.trapSlot_spaces (s : State) (t : Trap) (past : Nat) : (s.trapSlot t past).spaces = s.spaces := rfl
@[simp] theorem State.trapSlot_jobs (s : State) (t : Trap) (past : Nat) : (s.trapSlot t past).jobs = s.jobs := rfl
@[simp] theorem State.trapSlot_slots (s : State) (t : Trap) (past : Nat) : (s.trapSlot t past).slots = s.slots := rfl
@[simp] theorem State.trapSlot_accs (s : State) (t : Trap) (past : Nat) : (s.trapSlot t past).accs = s.accs := rfl
@[simp] theorem State.trapSlot_faults (s : State) (t : Trap) (past : Nat) : (s.trapSlot t past).faults = s.faults := rfl
@[simp] theorem State.trapSlot_hot (s : State) (t : Trap) (past : Nat) : (s.trapSlot t past).hot = s.hot := rfl
@[simp] theorem State.trapSlot_hotthr (s : State) (t : Trap) (past : Nat) : (s.trapSlot t past).hotthr = s.hotthr := rfl
@[simp] theorem State.trapSlot_wtlb (s : State) (t : Trap) (past : Nat) : (s.trapSlot t past).wtlb = s.wtlb := rfl
@[simp] theorem State.trapSlot_walks (s : State) (t : Trap) (past : Nat) : (s.trapSlot t past).walks = s.walks := rfl
@[simp] theorem State.trapSlot_nextChange (s : State) (t : Trap) (past : Nat) : (s.trapSlot t past).nextChange = s.nextChange := rfl
@[simp] theorem State.trapSlot_drains (s : State) (t : Trap) (past : Nat) : (s.trapSlot t past).drains = s.drains := rfl
@[simp] theorem State.trapSlot_nextFrame (s : State) (t : Trap) (past : Nat) : (s.trapSlot t past).nextFrame = s.nextFrame := rfl
@[simp] theorem State.trapSlot_notes (s : State) (t : Trap) (past : Nat) : (s.trapSlot t past).notes = s.notes := rfl
@[simp] theorem State.trapSlot_ustamp (s : State) (t : Trap) (past : Nat) : (s.trapSlot t past).ustamp = s.ustamp := rfl
@[simp] theorem State.trapSlot_freePages (s : State) (t : Trap) (past : Nat) : (s.trapSlot t past).freePages = s.freePages := rfl
@[simp] theorem State.trapSlot_freeHi (s : State) (t : Trap) (past : Nat) : (s.trapSlot t past).freeHi = s.freeHi := rfl
@[simp] theorem State.trapSlot_freeLo (s : State) (t : Trap) (past : Nat) : (s.trapSlot t past).freeLo = s.freeLo := rfl
@[simp] theorem State.trapSlot_host (s : State) (t : Trap) (past : Nat) : (s.trapSlot t past).host = s.host := rfl
@[simp] theorem State.trapSlot_stroke (s : State) (t : Trap) (past : Nat) : (s.trapSlot t past).stroke = s.stroke := rfl
@[simp] theorem State.trapSlot_stklen (s : State) (t : Trap) (past : Nat) : (s.trapSlot t past).stklen = s.stklen := rfl
@[simp] theorem State.trapSlot_strokePos (s : State) (t : Trap) (past : Nat) : (s.trapSlot t past).strokePos = s.strokePos := rfl
@[simp] theorem State.trapSlot_saves (s : State) (t : Trap) (past : Nat) : (s.trapSlot t past).saves = s.saves := rfl
@[simp] theorem State.trapSlot_fabric (s : State) (t : Trap) (past : Nat) : (s.trapSlot t past).fabric = s.fabric := rfl
@[simp] theorem State.trapSlot_therm (s : State) (t : Trap) (past : Nat) : (s.trapSlot t past).therm = s.therm := rfl

@[simp] theorem State.writeByte_core (s : State) (a : Nat) (v : Byte) : (s.writeByte a v).core = s.core := rfl
@[simp] theorem State.writeByte_cid (s : State) (a : Nat) (v : Byte) : (s.writeByte a v).cid = s.cid := rfl
@[simp] theorem State.writeByte_others (s : State) (a : Nat) (v : Byte) : (s.writeByte a v).others = s.others := rfl
@[simp] theorem State.writeByte_turn (s : State) (a : Nat) (v : Byte) : (s.writeByte a v).turn = s.turn := rfl
@[simp] theorem State.writeByte_cycle (s : State) (a : Nat) (v : Byte) : (s.writeByte a v).cycle = s.cycle := rfl
@[simp] theorem State.writeByte_free (s : State) (a : Nat) (v : Byte) : (s.writeByte a v).free = s.free := rfl
@[simp] theorem State.writeByte_inputs (s : State) (a : Nat) (v : Byte) : (s.writeByte a v).inputs = s.inputs := rfl
@[simp] theorem State.writeByte_fw (s : State) (a : Nat) (v : Byte) : (s.writeByte a v).fw = s.fw := rfl
@[simp] theorem State.writeByte_mem (s : State) (a : Nat) (v : Byte) : (s.writeByte a v).mem = Sparse.set memDefault s.mem a v := rfl
@[simp] theorem State.writeByte_unc (s : State) (a : Nat) (v : Byte) : (s.writeByte a v).unc = s.unc := rfl
@[simp] theorem State.writeByte_spaces (s : State) (a : Nat) (v : Byte) : (s.writeByte a v).spaces = s.spaces := rfl
@[simp] theorem State.writeByte_jobs (s : State) (a : Nat) (v : Byte) : (s.writeByte a v).jobs = s.jobs := rfl
@[simp] theorem State.writeByte_slots (s : State) (a : Nat) (v : Byte) : (s.writeByte a v).slots = s.slots := rfl
@[simp] theorem State.writeByte_accs (s : State) (a : Nat) (v : Byte) : (s.writeByte a v).accs = s.accs := rfl
@[simp] theorem State.writeByte_faults (s : State) (a : Nat) (v : Byte) : (s.writeByte a v).faults = s.faults := rfl
@[simp] theorem State.writeByte_hot (s : State) (a : Nat) (v : Byte) : (s.writeByte a v).hot = s.hot := rfl
@[simp] theorem State.writeByte_hotthr (s : State) (a : Nat) (v : Byte) : (s.writeByte a v).hotthr = s.hotthr := rfl
@[simp] theorem State.writeByte_wtlb (s : State) (a : Nat) (v : Byte) : (s.writeByte a v).wtlb = s.wtlb := rfl
@[simp] theorem State.writeByte_walks (s : State) (a : Nat) (v : Byte) : (s.writeByte a v).walks = s.walks := rfl
@[simp] theorem State.writeByte_nextChange (s : State) (a : Nat) (v : Byte) : (s.writeByte a v).nextChange = s.nextChange := rfl
@[simp] theorem State.writeByte_drains (s : State) (a : Nat) (v : Byte) : (s.writeByte a v).drains = s.drains := rfl
@[simp] theorem State.writeByte_nextFrame (s : State) (a : Nat) (v : Byte) : (s.writeByte a v).nextFrame = s.nextFrame := rfl
@[simp] theorem State.writeByte_notes (s : State) (a : Nat) (v : Byte) : (s.writeByte a v).notes = s.notes := rfl
@[simp] theorem State.writeByte_ustamp (s : State) (a : Nat) (v : Byte) : (s.writeByte a v).ustamp = s.ustamp := rfl
@[simp] theorem State.writeByte_freePages (s : State) (a : Nat) (v : Byte) : (s.writeByte a v).freePages = s.freePages := rfl
@[simp] theorem State.writeByte_freeHi (s : State) (a : Nat) (v : Byte) : (s.writeByte a v).freeHi = s.freeHi := rfl
@[simp] theorem State.writeByte_freeLo (s : State) (a : Nat) (v : Byte) : (s.writeByte a v).freeLo = s.freeLo := rfl
@[simp] theorem State.writeByte_host (s : State) (a : Nat) (v : Byte) : (s.writeByte a v).host = s.host := rfl
@[simp] theorem State.writeByte_stroke (s : State) (a : Nat) (v : Byte) : (s.writeByte a v).stroke = s.stroke := rfl
@[simp] theorem State.writeByte_stklen (s : State) (a : Nat) (v : Byte) : (s.writeByte a v).stklen = s.stklen := rfl
@[simp] theorem State.writeByte_strokePos (s : State) (a : Nat) (v : Byte) : (s.writeByte a v).strokePos = s.strokePos := rfl
@[simp] theorem State.writeByte_saves (s : State) (a : Nat) (v : Byte) : (s.writeByte a v).saves = s.saves := rfl
@[simp] theorem State.writeByte_fabric (s : State) (a : Nat) (v : Byte) : (s.writeByte a v).fabric = s.fabric := rfl
@[simp] theorem State.writeByte_therm (s : State) (a : Nat) (v : Byte) : (s.writeByte a v).therm = s.therm := rfl

theorem State.writePieces_frame (s : State) (l : List (Nat × Nat)) (b : List Byte) : ∃ m, s.writePieces l b = { s with mem := m } := by
  induction l generalizing s b with
  | nil => exact ⟨s.mem, rfl⟩
  | cons p l ih =>
    obtain ⟨m, h⟩ := ih { s with mem := Sparse.setMany memDefault s.mem p.1 (b.take p.2) } (b.drop p.2)
    exact ⟨m, by rw [State.writePieces, h]⟩

@[simp] theorem State.writePieces_core (s : State) (l : List (Nat × Nat)) (b : List Byte) : (s.writePieces l b).core = s.core := by
  obtain ⟨m, h⟩ := s.writePieces_frame l b; rw [h]
@[simp] theorem State.writePieces_cid (s : State) (l : List (Nat × Nat)) (b : List Byte) : (s.writePieces l b).cid = s.cid := by
  obtain ⟨m, h⟩ := s.writePieces_frame l b; rw [h]
@[simp] theorem State.writePieces_others (s : State) (l : List (Nat × Nat)) (b : List Byte) : (s.writePieces l b).others = s.others := by
  obtain ⟨m, h⟩ := s.writePieces_frame l b; rw [h]
@[simp] theorem State.writePieces_turn (s : State) (l : List (Nat × Nat)) (b : List Byte) : (s.writePieces l b).turn = s.turn := by
  obtain ⟨m, h⟩ := s.writePieces_frame l b; rw [h]
@[simp] theorem State.writePieces_cycle (s : State) (l : List (Nat × Nat)) (b : List Byte) : (s.writePieces l b).cycle = s.cycle := by
  obtain ⟨m, h⟩ := s.writePieces_frame l b; rw [h]
@[simp] theorem State.writePieces_free (s : State) (l : List (Nat × Nat)) (b : List Byte) : (s.writePieces l b).free = s.free := by
  obtain ⟨m, h⟩ := s.writePieces_frame l b; rw [h]
@[simp] theorem State.writePieces_inputs (s : State) (l : List (Nat × Nat)) (b : List Byte) : (s.writePieces l b).inputs = s.inputs := by
  obtain ⟨m, h⟩ := s.writePieces_frame l b; rw [h]
@[simp] theorem State.writePieces_fw (s : State) (l : List (Nat × Nat)) (b : List Byte) : (s.writePieces l b).fw = s.fw := by
  obtain ⟨m, h⟩ := s.writePieces_frame l b; rw [h]
@[simp] theorem State.writePieces_unc (s : State) (l : List (Nat × Nat)) (b : List Byte) : (s.writePieces l b).unc = s.unc := by
  obtain ⟨m, h⟩ := s.writePieces_frame l b; rw [h]
@[simp] theorem State.writePieces_spaces (s : State) (l : List (Nat × Nat)) (b : List Byte) : (s.writePieces l b).spaces = s.spaces := by
  obtain ⟨m, h⟩ := s.writePieces_frame l b; rw [h]
@[simp] theorem State.writePieces_jobs (s : State) (l : List (Nat × Nat)) (b : List Byte) : (s.writePieces l b).jobs = s.jobs := by
  obtain ⟨m, h⟩ := s.writePieces_frame l b; rw [h]
@[simp] theorem State.writePieces_slots (s : State) (l : List (Nat × Nat)) (b : List Byte) : (s.writePieces l b).slots = s.slots := by
  obtain ⟨m, h⟩ := s.writePieces_frame l b; rw [h]
@[simp] theorem State.writePieces_accs (s : State) (l : List (Nat × Nat)) (b : List Byte) : (s.writePieces l b).accs = s.accs := by
  obtain ⟨m, h⟩ := s.writePieces_frame l b; rw [h]
@[simp] theorem State.writePieces_faults (s : State) (l : List (Nat × Nat)) (b : List Byte) : (s.writePieces l b).faults = s.faults := by
  obtain ⟨m, h⟩ := s.writePieces_frame l b; rw [h]
@[simp] theorem State.writePieces_hot (s : State) (l : List (Nat × Nat)) (b : List Byte) : (s.writePieces l b).hot = s.hot := by
  obtain ⟨m, h⟩ := s.writePieces_frame l b; rw [h]
@[simp] theorem State.writePieces_hotthr (s : State) (l : List (Nat × Nat)) (b : List Byte) : (s.writePieces l b).hotthr = s.hotthr := by
  obtain ⟨m, h⟩ := s.writePieces_frame l b; rw [h]
@[simp] theorem State.writePieces_wtlb (s : State) (l : List (Nat × Nat)) (b : List Byte) : (s.writePieces l b).wtlb = s.wtlb := by
  obtain ⟨m, h⟩ := s.writePieces_frame l b; rw [h]
@[simp] theorem State.writePieces_walks (s : State) (l : List (Nat × Nat)) (b : List Byte) : (s.writePieces l b).walks = s.walks := by
  obtain ⟨m, h⟩ := s.writePieces_frame l b; rw [h]
@[simp] theorem State.writePieces_nextChange (s : State) (l : List (Nat × Nat)) (b : List Byte) : (s.writePieces l b).nextChange = s.nextChange := by
  obtain ⟨m, h⟩ := s.writePieces_frame l b; rw [h]
@[simp] theorem State.writePieces_drains (s : State) (l : List (Nat × Nat)) (b : List Byte) : (s.writePieces l b).drains = s.drains := by
  obtain ⟨m, h⟩ := s.writePieces_frame l b; rw [h]
@[simp] theorem State.writePieces_nextFrame (s : State) (l : List (Nat × Nat)) (b : List Byte) : (s.writePieces l b).nextFrame = s.nextFrame := by
  obtain ⟨m, h⟩ := s.writePieces_frame l b; rw [h]
@[simp] theorem State.writePieces_notes (s : State) (l : List (Nat × Nat)) (b : List Byte) : (s.writePieces l b).notes = s.notes := by
  obtain ⟨m, h⟩ := s.writePieces_frame l b; rw [h]
@[simp] theorem State.writePieces_ustamp (s : State) (l : List (Nat × Nat)) (b : List Byte) : (s.writePieces l b).ustamp = s.ustamp := by
  obtain ⟨m, h⟩ := s.writePieces_frame l b; rw [h]
@[simp] theorem State.writePieces_freePages (s : State) (l : List (Nat × Nat)) (b : List Byte) : (s.writePieces l b).freePages = s.freePages := by
  obtain ⟨m, h⟩ := s.writePieces_frame l b; rw [h]
@[simp] theorem State.writePieces_freeHi (s : State) (l : List (Nat × Nat)) (b : List Byte) : (s.writePieces l b).freeHi = s.freeHi := by
  obtain ⟨m, h⟩ := s.writePieces_frame l b; rw [h]
@[simp] theorem State.writePieces_freeLo (s : State) (l : List (Nat × Nat)) (b : List Byte) : (s.writePieces l b).freeLo = s.freeLo := by
  obtain ⟨m, h⟩ := s.writePieces_frame l b; rw [h]
@[simp] theorem State.writePieces_host (s : State) (l : List (Nat × Nat)) (b : List Byte) : (s.writePieces l b).host = s.host := by
  obtain ⟨m, h⟩ := s.writePieces_frame l b; rw [h]
@[simp] theorem State.writePieces_stroke (s : State) (l : List (Nat × Nat)) (b : List Byte) : (s.writePieces l b).stroke = s.stroke := by
  obtain ⟨m, h⟩ := s.writePieces_frame l b; rw [h]
@[simp] theorem State.writePieces_stklen (s : State) (l : List (Nat × Nat)) (b : List Byte) : (s.writePieces l b).stklen = s.stklen := by
  obtain ⟨m, h⟩ := s.writePieces_frame l b; rw [h]
@[simp] theorem State.writePieces_strokePos (s : State) (l : List (Nat × Nat)) (b : List Byte) : (s.writePieces l b).strokePos = s.strokePos := by
  obtain ⟨m, h⟩ := s.writePieces_frame l b; rw [h]
@[simp] theorem State.writePieces_saves (s : State) (l : List (Nat × Nat)) (b : List Byte) : (s.writePieces l b).saves = s.saves := by
  obtain ⟨m, h⟩ := s.writePieces_frame l b; rw [h]
@[simp] theorem State.writePieces_fabric (s : State) (l : List (Nat × Nat)) (b : List Byte) : (s.writePieces l b).fabric = s.fabric := by
  obtain ⟨m, h⟩ := s.writePieces_frame l b; rw [h]
@[simp] theorem State.writePieces_therm (s : State) (l : List (Nat × Nat)) (b : List Byte) : (s.writePieces l b).therm = s.therm := by
  obtain ⟨m, h⟩ := s.writePieces_frame l b; rw [h]

@[simp] theorem State.putCore_core (s : State) (i : Nat) (c : Core) : (s.putCore i c).core = if i = s.cid then c else s.core := by unfold State.putCore; split <;> rfl
@[simp] theorem State.putCore_cid (s : State) (i : Nat) (c : Core) : (s.putCore i c).cid = s.cid := by unfold State.putCore; split <;> rfl
@[simp] theorem State.putCore_others (s : State) (i : Nat) (c : Core) : (s.putCore i c).others = if i = s.cid then s.others else Sparse.set Core.reset s.others i c := by unfold State.putCore; split <;> rfl
@[simp] theorem State.putCore_turn (s : State) (i : Nat) (c : Core) : (s.putCore i c).turn = s.turn := by unfold State.putCore; split <;> rfl
@[simp] theorem State.putCore_cycle (s : State) (i : Nat) (c : Core) : (s.putCore i c).cycle = s.cycle := by unfold State.putCore; split <;> rfl
@[simp] theorem State.putCore_free (s : State) (i : Nat) (c : Core) : (s.putCore i c).free = s.free := by unfold State.putCore; split <;> rfl
@[simp] theorem State.putCore_inputs (s : State) (i : Nat) (c : Core) : (s.putCore i c).inputs = s.inputs := by unfold State.putCore; split <;> rfl
@[simp] theorem State.putCore_fw (s : State) (i : Nat) (c : Core) : (s.putCore i c).fw = s.fw := by unfold State.putCore; split <;> rfl
@[simp] theorem State.putCore_mem (s : State) (i : Nat) (c : Core) : (s.putCore i c).mem = s.mem := by unfold State.putCore; split <;> rfl
@[simp] theorem State.putCore_unc (s : State) (i : Nat) (c : Core) : (s.putCore i c).unc = s.unc := by unfold State.putCore; split <;> rfl
@[simp] theorem State.putCore_spaces (s : State) (i : Nat) (c : Core) : (s.putCore i c).spaces = s.spaces := by unfold State.putCore; split <;> rfl
@[simp] theorem State.putCore_jobs (s : State) (i : Nat) (c : Core) : (s.putCore i c).jobs = s.jobs := by unfold State.putCore; split <;> rfl
@[simp] theorem State.putCore_slots (s : State) (i : Nat) (c : Core) : (s.putCore i c).slots = s.slots := by unfold State.putCore; split <;> rfl
@[simp] theorem State.putCore_accs (s : State) (i : Nat) (c : Core) : (s.putCore i c).accs = s.accs := by unfold State.putCore; split <;> rfl
@[simp] theorem State.putCore_faults (s : State) (i : Nat) (c : Core) : (s.putCore i c).faults = s.faults := by unfold State.putCore; split <;> rfl
@[simp] theorem State.putCore_hot (s : State) (i : Nat) (c : Core) : (s.putCore i c).hot = s.hot := by unfold State.putCore; split <;> rfl
@[simp] theorem State.putCore_hotthr (s : State) (i : Nat) (c : Core) : (s.putCore i c).hotthr = s.hotthr := by unfold State.putCore; split <;> rfl
@[simp] theorem State.putCore_wtlb (s : State) (i : Nat) (c : Core) : (s.putCore i c).wtlb = s.wtlb := by unfold State.putCore; split <;> rfl
@[simp] theorem State.putCore_walks (s : State) (i : Nat) (c : Core) : (s.putCore i c).walks = s.walks := by unfold State.putCore; split <;> rfl
@[simp] theorem State.putCore_nextChange (s : State) (i : Nat) (c : Core) : (s.putCore i c).nextChange = s.nextChange := by unfold State.putCore; split <;> rfl
@[simp] theorem State.putCore_drains (s : State) (i : Nat) (c : Core) : (s.putCore i c).drains = s.drains := by unfold State.putCore; split <;> rfl
@[simp] theorem State.putCore_nextFrame (s : State) (i : Nat) (c : Core) : (s.putCore i c).nextFrame = s.nextFrame := by unfold State.putCore; split <;> rfl
@[simp] theorem State.putCore_notes (s : State) (i : Nat) (c : Core) : (s.putCore i c).notes = s.notes := by unfold State.putCore; split <;> rfl
@[simp] theorem State.putCore_ustamp (s : State) (i : Nat) (c : Core) : (s.putCore i c).ustamp = s.ustamp := by unfold State.putCore; split <;> rfl
@[simp] theorem State.putCore_freePages (s : State) (i : Nat) (c : Core) : (s.putCore i c).freePages = s.freePages := by unfold State.putCore; split <;> rfl
@[simp] theorem State.putCore_freeHi (s : State) (i : Nat) (c : Core) : (s.putCore i c).freeHi = s.freeHi := by unfold State.putCore; split <;> rfl
@[simp] theorem State.putCore_freeLo (s : State) (i : Nat) (c : Core) : (s.putCore i c).freeLo = s.freeLo := by unfold State.putCore; split <;> rfl
@[simp] theorem State.putCore_host (s : State) (i : Nat) (c : Core) : (s.putCore i c).host = s.host := by unfold State.putCore; split <;> rfl
@[simp] theorem State.putCore_stroke (s : State) (i : Nat) (c : Core) : (s.putCore i c).stroke = s.stroke := by unfold State.putCore; split <;> rfl
@[simp] theorem State.putCore_stklen (s : State) (i : Nat) (c : Core) : (s.putCore i c).stklen = s.stklen := by unfold State.putCore; split <;> rfl
@[simp] theorem State.putCore_strokePos (s : State) (i : Nat) (c : Core) : (s.putCore i c).strokePos = s.strokePos := by unfold State.putCore; split <;> rfl
@[simp] theorem State.putCore_saves (s : State) (i : Nat) (c : Core) : (s.putCore i c).saves = s.saves := by unfold State.putCore; split <;> rfl
@[simp] theorem State.putCore_fabric (s : State) (i : Nat) (c : Core) : (s.putCore i c).fabric = s.fabric := by unfold State.putCore; split <;> rfl
@[simp] theorem State.putCore_therm (s : State) (i : Nat) (c : Core) : (s.putCore i c).therm = s.therm := by unfold State.putCore; split <;> rfl

end Sys2Proof.Machine
end

