-- ==== Sys2Proof/Laws/Mapping.lean ====
section
/-! SUPPORT. What changes of a mapping leave alone, said once for each shared operation (13 R347 to R356). -/

namespace Sys2Proof.Machine

open Sys2Proof

/-- A listed value after an entry is put. -/
theorem Sparse.find_put {α : Type} (m : Sparse α) (i j : Nat) (v : α) : (m.put i v).find j = if j = i then some v else m.find j := by
  induction m with
  | nil =>
    by_cases h : j = i
    · subst h; simp [Sparse.put, Sparse.find]
    · simp [Sparse.put, Sparse.find, h, Ne.symm h]
  | cons e t ih =>
    obtain ⟨k, w⟩ := e
    simp only [Sparse.put]
    split
    · subst i
      by_cases h : j = k
      · subst h; simp [Sparse.find]
      · simp [Sparse.find, h, Ne.symm h]
    · rename_i hik
      split
      · by_cases h : j = i
        · subst h; simp [Sparse.find]
        · simp [Sparse.find, h, Ne.symm h]
      · by_cases hk : k = j
        · subst hk; simp [Sparse.find, Ne.symm hik]
        · have h1 : ∀ x : Sparse α, Sparse.find ((k, w) :: x) j = Sparse.find x j := by intro x; simp [Sparse.find, hk]
          rw [h1, h1, ih]

/-- Another space stays when one is changed. -/
theorem State.space_modSpace_ne (s : State) {a b : Nat} (f : Space → Space) (h : b ≠ a) : (s.modSpace a f).space b = s.space b := by
  simp only [State.modSpace, State.space]
  induction s.spaces with
  | nil => rfl
  | cons e t ih =>
    by_cases hk : e.1 = a
    · have h1 : (e.1 == b) = false := by simpa [hk] using Ne.symm h
      have h2 : (a == b) = false := by simpa using Ne.symm h
      simpa [hk, h1, h2, List.find?_cons] using ih
    · simp only [List.map_cons, hk, if_false, List.find?_cons]
      cases hb : e.1 == b
      · simpa using ih
      · rfl

/-- A space that exists, when it is changed. -/
theorem State.space_modSpace (s : State) {a : Nat} (f : Space → Space) (h : ∃ x, (a, x) ∈ s.spaces) : (s.modSpace a f).space a = f (s.space a) := by
  simp only [State.modSpace, State.space]
  obtain ⟨x, hx⟩ := h
  revert hx
  induction s.spaces with
  | nil => intro hx; simp at hx
  | cons e t ih =>
    intro hx
    by_cases hk : e.1 = a
    · simp [hk]
    · have h1 : (e.1 == a) = false := by simpa using hk
      have hx' : (a, x) ∈ t := by
        rcases List.mem_cons.mp hx with h | h
        · exact absurd (by rw [← h]) hk
        · exact h
      simpa [hk, h1, List.find?_cons] using ih hx'

/-- A space that does not exist stays so. -/
theorem State.space_modSpace_none (s : State) {a : Nat} (f : Space → Space) (h : ∀ x, (a, x) ∉ s.spaces) (b : Nat) : (s.modSpace a f).space b = s.space b := by
  have : s.modSpace a f = s := by
    have : s.spaces.map (fun e => if e.1 = a then (e.1, f e.2) else e) = s.spaces := by
      conv => rhs; rw [← List.map_id s.spaces]
      exact List.map_congr_left (fun e he => by
        have : e.1 ≠ a := fun hk => h e.2 (by rw [← hk]; exact he)
        simp [this])
    simp [State.modSpace, this]
  rw [this]

/-- What a change of mapping leaves alone: every register and everything else of every core but its channels' queues and its
issue numbers, memory, jobs, faults, and of every space all but its list of changes. -/
structure State.Maps (s t : State) : Prop where
  r : t.core.r = s.core.r
  mem : t.mem = s.mem
  faults : t.faults = s.faults
  jobs : t.jobs = s.jobs
  cycle : t.cycle = s.cycle
  cid : t.cid = s.cid
  accs : t.accs = s.accs
  unc : t.unc = s.unc
  slots : t.slots = s.slots
  host : t.host = s.host
  has : ∀ a, (∃ x, (a, x) ∈ t.spaces) ↔ ∃ x, (a, x) ∈ s.spaces
  space : ∀ a, ({ t.space a with changes := [] } : Space) = { s.space a with changes := [] }

theorem State.Maps.refl (s : State) : s.Maps s := ⟨rfl, rfl, rfl, rfl, rfl, rfl, rfl, rfl, rfl, rfl, fun _ => Iff.rfl, fun _ => rfl⟩

theorem State.Maps.trans {s t u : State} (h : s.Maps t) (g : t.Maps u) : s.Maps u := by
  refine ⟨g.r.trans h.r, g.mem.trans h.mem, g.faults.trans h.faults, g.jobs.trans h.jobs, g.cycle.trans h.cycle, g.cid.trans h.cid, g.accs.trans h.accs,
    g.unc.trans h.unc, g.slots.trans h.slots, g.host.trans h.host, fun a => (g.has a).trans (h.has a), fun a => ?_⟩
  exact (g.space a).trans (h.space a)

theorem State.Maps.of {s t : State} (r : t.core.r = s.core.r) (mem : t.mem = s.mem) (faults : t.faults = s.faults) (jobs : t.jobs = s.jobs)
    (cycle : t.cycle = s.cycle) (cid : t.cid = s.cid) (accs : t.accs = s.accs) (unc : t.unc = s.unc) (slots : t.slots = s.slots) (host : t.host = s.host)
    (spaces : t.spaces = s.spaces) : s.Maps t :=
  ⟨r, mem, faults, jobs, cycle, cid, accs, unc, slots, host, fun a => by rw [spaces], fun a => by simp only [State.space, spaces]⟩

theorem State.Maps.ptes {s t : State} (h : s.Maps t) (a : Nat) : (t.space a).ptes = (s.space a).ptes := by simpa using congrArg Space.ptes (h.space a)
theorem State.Maps.objs {s t : State} (h : s.Maps t) (a : Nat) : (t.space a).objs = (s.space a).objs := by simpa using congrArg Space.objs (h.space a)
theorem State.Maps.regions {s t : State} (h : s.Maps t) (a : Nat) : (t.space a).regions = (s.space a).regions := by simpa using congrArg Space.regions (h.space a)
theorem State.Maps.moving {s t : State} (h : s.Maps t) (a : Nat) : (t.space a).moving = (s.space a).moving := by simpa using congrArg Space.moving (h.space a)

theorem State.putCore_maps (s : State) (i : Nat) (c : Core) (h : c.r = (s.coreAt i).r) : s.Maps (s.putCore i c) := by
  by_cases hi : i = s.cid
  · subst hi
    have : c.r = s.core.r := by simpa [State.coreAt] using h
    simp only [State.putCore, if_true]
    exact State.Maps.of this rfl rfl rfl rfl rfl rfl rfl rfl rfl rfl
  · simp only [State.putCore, hi, if_false]
    exact State.Maps.of rfl rfl rfl rfl rfl rfl rfl rfl rfl rfl rfl

theorem State.modChanges_maps (s : State) (a : Nat) (f : Space → Space) (hf : ∀ sp, ({ f sp with changes := [] } : Space) = { sp with changes := [] }) :
    s.Maps (s.modSpace a f) := by
  refine ⟨rfl, rfl, rfl, rfl, rfl, rfl, rfl, rfl, rfl, rfl, fun b => ?_, fun b => ?_⟩
  · simp only [State.modSpace, List.mem_map]
    constructor
    · rintro ⟨x, e, he, hx⟩
      split at hx
      · exact ⟨e.2, by simp only [Prod.mk.injEq] at hx; rw [← hx.1]; exact he⟩
      · exact ⟨x, hx ▸ he⟩
    · rintro ⟨x, hx⟩
      by_cases hb : b = a
      · exact ⟨_, (b, x), hx, by simp [hb]; rfl⟩
      · exact ⟨x, (b, x), hx, by simp [hb]⟩
  · by_cases hb : b = a
    · subst hb
      by_cases h : ∃ x, (b, x) ∈ s.spaces
      · rw [State.space_modSpace _ _ h]; exact hf _
      · rw [State.space_modSpace_none _ _ (fun x hx => h ⟨x, hx⟩)]
    · rw [State.space_modSpace_ne _ _ hb]

/-- Changes whose markers have completed leave, and their pages count free. -/
theorem State.settleChanges_maps (s : State) (a : Nat) : s.Maps (s.settleChanges a) := by
  have h : ∀ (t : State) l, t.Maps (t.freeBack l) := fun _ _ => State.Maps.of rfl rfl rfl rfl rfl rfl rfl rfl rfl rfl rfl
  simp only [State.settleChanges]
  refine State.Maps.trans ?_ (h _ _)
  exact State.modChanges_maps s a _ (fun _ => rfl)

/-- Entries leave the wells' caches. -/
theorem State.dropWells_maps (s : State) (p : Nat × Nat → Bool) : s.Maps (s.dropWells p) :=
  State.Maps.of rfl rfl rfl rfl rfl rfl rfl rfl rfl rfl rfl

/-- The markers of a change enter the queues of the cores. -/
theorem State.markAll_maps (l : List Nat) (page n id : Nat) (s : State) : s.Maps (s.markAll l page n id) := by
  induction l generalizing s with
  | nil => exact .refl s
  | cons i l ih => exact (State.putCore_maps s i ((s.coreAt i).mark s.cycle page n id) rfl).trans (ih _)

/-- A published change adds to the space's list and to the queues of the cores, and changes nothing else. -/
theorem State.publish_maps (s : State) (a : Nat) (olds : List (Nat × Nat × BitVec 128)) (page n : Nat) (back : List (Nat × Nat)) :
    s.Maps (s.publish a olds page n back) := by
  simp only [State.publish]
  refine State.Maps.trans ?_ (State.settleChanges_maps _ a)
  have h (t u : State) (h : t.Maps u) (k : Nat) : t.Maps { u with nextChange := k } := h.trans (State.Maps.of rfl rfl rfl rfl rfl rfl rfl rfl rfl rfl rfl)
  refine h _ _ ?_ _
  refine State.Maps.trans ?_ (State.markAll_maps _ _ _ _ _)
  refine State.Maps.trans ?_ (State.dropWells_maps _ _)
  exact State.modChanges_maps s a _ (fun _ => rfl)


theorem State.markAll_spaces (l : List Nat) (page n id : Nat) (s : State) : (s.markAll l page n id).spaces = s.spaces := by
  induction l generalizing s with
  | nil => rfl
  | cons i l ih => exact (ih (s.putCore i ((s.coreAt i).mark s.cycle page n id))).trans (State.putCore_spaces s i _)

/-- While a core of the space has the marker before it, a change stays in the space's list. -/
theorem State.settleChanges_keeps (s : State) (a : Nat) (h : ∃ x, (a, x) ∈ s.spaces) {ch : Change} (hc : ch ∈ (s.space a).changes)
    (hw : ch.wait ≠ []) : ∃ m, { ch with muWait := m } ∈ ((s.settleChanges a).space a).changes := by
  refine ⟨ch.muWait.filter (fun w => (s.coreAt w.1).mu.any (fun i => decide (i.seq < w.2))), ?_⟩
  have h1 : ∀ (t : State) l, (t.freeBack l).space a = t.space a := fun _ _ => rfl
  simp only [State.settleChanges, h1, State.space_modSpace _ _ h, List.mem_filter, List.mem_map]
  exact ⟨⟨ch, hc, rfl⟩, by cases hx : ch.wait <;> simp_all⟩

/-- A published change stays in the space's list while a core has a task in the space. -/
theorem State.publish_keeps (s : State) (a : Nat) (olds : List (Nat × Nat × BitVec 128)) (page n : Nat) (back : List (Nat × Nat))
    (h : ∃ x, (a, x) ∈ s.spaces) (hc : s.coresIn a ≠ []) :
    ∃ m, { s.newChange a olds page n back with muWait := m } ∈ ((s.publish a olds page n back).space a).changes := by
  have hs (ch : Change) (t : State) (ht : t.spaces = (s.addChange a ch).spaces) : (∃ x, (a, x) ∈ t.spaces) ∧ ch ∈ (t.space a).changes := by
    refine ⟨by rw [ht]; exact ((State.modChanges_maps s a (fun sp => { sp with changes := sp.changes ++ [ch] }) (fun _ => rfl)).has a).mpr h, ?_⟩
    have : t.space a = (s.addChange a ch).space a := by simp only [State.space, ht]
    rw [this, State.addChange, State.space_modSpace _ _ h]; simp
  obtain ⟨he, hm⟩ := hs (s.newChange a olds page n back)
    { State.markAll ((s.addChange a (s.newChange a olds page n back)).dropWells (fun e => e.1 == a && decide (page ≤ e.2 ∧ e.2 < page + n))) (s.coresIn a) page n
        (s.newChange a olds page n back).id with nextChange := s.nextChange + 1 } (State.markAll_spaces _ _ _ _ _)
  refine State.settleChanges_keeps _ a he hm ?_
  cases hx : s.coresIn a with
  | nil => exact absurd hx hc
  | cons i l => simp [State.newChange, hx, List.range_succ]

/-- Where a search for free pages ends: they lie in the address space, and none of them is taken. -/
theorem Space.spot_fits {sp : Space} {first n p : Nat} (h : sp.spot first n = some p) :
    p + n ≤ 2 ^ 36 ∧ ∀ r ∈ sp.taken, ¬ (r.1 < p + n ∧ p < r.1 + r.2) := by
  simpa using List.find?_some h

end Sys2Proof.Machine
end

