-- ==== Sys2Proof/Laws/Memory.lean ====
section
/-! SUPPORT. Every operation that writes physical memory keeps its canonical form. -/

namespace Sys2Proof.Machine

open Sys2Proof

theorem Memory.wf_set {m : List Host.Cell} {a : Nat} {v : Byte} (h : Memory.wf m = true) :
    Memory.wf (Sparse.set memDefault m a v) = true := Sparse.wf_set h

theorem Memory.wf_setMany {m : List Host.Cell} {a : Nat} {l : List Byte} (h : Memory.wf m = true) :
    Memory.wf (Sparse.setMany memDefault m a l) = true := Sparse.wf_setMany h

theorem Memory.wf_filter {m : List Host.Cell} {p : Host.Cell → Bool} (h : Memory.wf m = true) :
    Memory.wf (m.filter p) = true := Sparse.wf_filter (p := p) h

theorem State.wf_writePieces {s : State} {l : List (Nat × Nat)} {b : List Byte} (h : Memory.wf s.mem = true) :
    Memory.wf (s.writePieces l b).mem = true := by
  induction l generalizing s b with
  | nil => exact h
  | cons p l ih => exact ih (Memory.wf_setMany h)

theorem State.wf_storeBytes {s : State} {l : List (Nat × Nat)} {b : List Byte} (h : Memory.wf s.mem = true) :
    Memory.wf (s.storeBytes l b).mem = true := State.wf_writePieces h

theorem State.wf_foldl {α : Type} {f : State → α → State} {l : List α} {s : State}
    (hf : ∀ s x, Memory.wf s.mem = true → Memory.wf (f s x).mem = true) (h : Memory.wf s.mem = true) :
    Memory.wf (l.foldl f s).mem = true := by
  induction l generalizing s with
  | nil => exact h
  | cons x l ih => exact ih (hf s x h)

theorem State.wf_putBytes {s : State} {l : List (Nat × Nat)} {b : List Byte} (h : Memory.wf s.mem = true) :
    Memory.wf (s.putBytes l b).mem = true :=
  State.wf_foldl (fun _ _ h => State.wf_writePieces h) (State.wf_storeBytes h)

theorem State.wf_writePage {s : State} {asid va : Nat} {b : List Byte} (h : Memory.wf s.mem = true) :
    Memory.wf (s.writePage asid va b).mem = true := by
  unfold State.writePage
  split
  · exact State.wf_putBytes (State.wf_putBytes h)
  · exact h

theorem State.wf_writeVa {s : State} {asid va : Nat} {b : List Byte} (h : Memory.wf s.mem = true) :
    Memory.wf (s.writeVa asid va b).mem = true :=
  State.wf_foldl (fun _ _ h => State.wf_writePage h) h

theorem State.wf_writeStatus {s : State} {job : Nat} (h : Memory.wf s.mem = true) :
    Memory.wf (s.writeStatus job).mem = true := by
  unfold State.writeStatus
  split
  · exact State.wf_writeVa h
  · exact h

/-- Cells set one after another, at or above a base, keep a form that starts at the base. -/
theorem Memory.wfFrom_foldl {l : List (Nat × Byte)} {m : List Host.Cell} {b : Nat} (hl : ∀ e ∈ l, b ≤ e.1)
    (h : Sparse.wfFrom memDefault b m = true) :
    Sparse.wfFrom memDefault b (l.foldl (fun m e => Sparse.set memDefault m e.1 e.2) m) = true := by
  induction l generalizing m with
  | nil => exact h
  | cons e l ih => exact ih (fun e' he' => hl e' (by simp [he'])) (Sparse.wfFrom_set (hl e (by simp)) h)

/-- Cells set one after another below an end leave nothing at or above it. -/
theorem Memory.lt_foldl {l : List (Nat × Byte)} {m : List Host.Cell} {b : Nat} (hl : ∀ e ∈ l, e.1 < b) (h : ∀ e ∈ m, e.1 < b) :
    ∀ e ∈ l.foldl (fun m e => Sparse.set memDefault m e.1 e.2) m, e.1 < b := by
  induction l generalizing m with
  | nil => exact h
  | cons e l ih =>
    exact ih (fun e' he' => hl e' (by simp [he'])) (Sparse.mem_set_lt (hl e (by simp)) h)

/-- A page of a context save keeps the canonical form. -/
theorem Memory.wf_putPage {mem : List Host.Cell} {a off : Nat} {covers : Nat → Bool} {new : Cells} (h : Memory.wf mem = true)
    (hn : ∀ e ∈ new, off ≤ e.1 ∧ e.1 < off + 4096) : Memory.wf (putPage mem a off covers new) = true := by
  have hs : ∀ e ∈ new.map (fun e => (a + (e.1 - off), e.2)), a ≤ e.1 ∧ e.1 < a + 4096 := by
    intro e he
    obtain ⟨x, hx, rfl⟩ := List.mem_map.mp he
    have := hn x hx
    exact ⟨by simp, by simp only; omega⟩
  have mid : ∀ e ∈ mem.filter (fun e => decide (a ≤ e.1 ∧ e.1 < a + 4096) && !covers (off + (e.1 - a))), a ≤ e.1 ∧ e.1 < a + 4096 := by
    intro e he
    have := (List.mem_filter.mp he).2
    simp only [Bool.and_eq_true, decide_eq_true_eq] at this
    exact this.1
  have shift (m : List Host.Cell) : new.foldl (fun m e => Sparse.set memDefault m (a + (e.1 - off)) e.2) m =
      (new.map (fun e => (a + (e.1 - off), e.2))).foldl (fun m e => Sparse.set memDefault m e.1 e.2) m := by rw [List.foldl_map]
  unfold putPage
  simp only [List.append_assoc]
  rw [shift]
  refine Sparse.wfFrom_append (b := a) (Nat.zero_le _) (Memory.wf_filter h) (fun e he => by simpa using (List.mem_filter.mp he).2) ?_
  refine Sparse.wfFrom_append (b := a + 4096) (by omega) (Memory.wfFrom_foldl (fun e he => (hs e he).1)
    (Sparse.wfFrom_raise (Memory.wf_filter h) fun e he => (mid e he).1)) (Memory.lt_foldl (fun e he => (hs e he).2) fun e he => (mid e he).2) ?_
  exact Sparse.wfFrom_raise (Memory.wf_filter h) fun e he => by simpa using (List.mem_filter.mp he).2

/-- A context save keeps the canonical form. -/
theorem State.wf_writeArea {s : State} {asid va : Nat} {c : Core} (h : Memory.wf s.mem = true) :
    Memory.wf (s.writeArea asid va c).mem = true := by
  unfold State.writeArea
  generalize List.range areaPages = l
  simp only
  induction l generalizing s with
  | nil => exact h
  | cons p l ih =>
    rw [List.foldl_cons]
    refine ih ?_
    split
    · exact h
    · split
      · exact Memory.wf_putPage h fun e he => by simpa using (List.mem_filter.mp he).2
      · exact State.wf_storeBytes h
      · exact h

end Sys2Proof.Machine
end

