-- ==== Sys2Proof/Laws/Order.lean ====
section
/-! SUPPORT. What settling the fences of L1 does, said once: it changes only which lines of L1 serve which classes, and no access that
may be performed. -/

namespace Sys2Proof.Machine

open Sys2Proof

/-- Settling leaves the fences whose earlier events are still to come, and marks lines of L1 as old. -/
theorem Core.settleOld_frame (c : Core) (ph : Where) :
    ∃ l, c.settleOld ph = { c with fences := c.fences.filter (fun f => c.openBefore ph f.1), l1old := c.l1old ++ l } := by
  unfold Core.settleOld
  by_cases h : (c.fences.filter (fun f => !c.openBefore ph f.1)).isEmpty = true
  · refine ⟨[], ?_⟩
    have e : c.fences.filter (fun f => c.openBefore ph f.1) = c.fences := by
      rw [List.filter_eq_self]
      intro f hf
      rw [List.isEmpty_iff, List.filter_eq_nil_iff] at h
      simpa using h f hf
    simp only [h, e, if_true, List.append_nil]
  · exact ⟨_, by simp only [h]; rfl⟩

/-- An access may be performed after settling where it might before. -/
theorem Core.settleOld_mayPerform (c : Core) (ph : Where) (i : MuItem) : (c.settleOld ph).mayPerform ph i = c.mayPerform ph i := by
  obtain ⟨l, e⟩ := c.settleOld_frame ph
  have a : (c.settleOld ph).awaits ph i = c.awaits ph i := by
    rw [e]
    unfold Core.awaits
    congr 1
    show (c.fences.filter (fun f => c.openBefore ph f.1)).any (fun f => decide (f.1 < i.seq) && f.2.testBit i.cls && c.openBefore ph f.1) = _
    rw [List.any_filter]
    congr 1
    funext f
    cases c.openBefore ph f.1 <;> simp
  have w : (c.settleOld ph).waits ph i = c.waits ph i := by rw [e]; rfl
  have q (m : Nat) : (c.settleOld ph).quietBefore i.seq m = c.quietBefore i.seq m := by rw [e]; rfl
  unfold Core.mayPerform
  rw [a, w]
  simp only [q]

/-- Settling leaves the task, so that its translation is the same. -/
theorem Core.settleOld_task (c : Core) (ph : Where) : (c.settleOld ph).task = c.task := by
  obtain ⟨l, e⟩ := c.settleOld_frame ph
  rw [e]

/-- The access that is performed next is the same after settling. -/
theorem State.settleOld_nextItem (s : State) : (s.onCore (fun c => c.settleOld s.whereIs)).nextItem = s.nextItem := by
  have w : (s.onCore (fun c => c.settleOld s.whereIs)).whereIs = s.whereIs := by
    show (fun va n => match (s.space (s.core.settleOld s.whereIs).task.asid).xlat none va n false with
      | .ok l _ _ => l
      | .fault _ => []) = s.whereIs
    rw [Core.settleOld_task]
    rfl
  have m := s.core.settleOld_mayPerform s.whereIs
  obtain ⟨l, e⟩ := s.core.settleOld_frame s.whereIs
  have chk : (s.core.settleOld s.whereIs).r = s.core.r := by rw [e]
  have mu : (s.core.settleOld s.whereIs).mu = s.core.mu := by rw [e]
  unfold State.nextItem
  rw [w]
  show (if (s.core.settleOld s.whereIs).r.chk then none
    else (s.core.settleOld s.whereIs).mu.find? (fun i => decide (i.ready ≤ s.cycle) && (s.core.settleOld s.whereIs).mayPerform s.whereIs i)) = _
  rw [chk, mu]
  simp only [m]

end Sys2Proof.Machine
end

