-- ==== Sys2Proof/Laws/PerInstr.lean ====
section
/-! SUPPORT. Statements made per instruction. -/

namespace Sys2Proof.Laws.OneSlot

open Sys2Proof

/-- At most one of the five encoders, one per kind of slot and one for micro-words, has a word for the operation
(03 R83, R89; 08 R250): no operation has two encodings, and an event of the machine has none. -/
def Statement (i : Instr) : Prop :=
  (encodeS i).isSome.toNat + (encodeV i).isSome.toNat + (encodeM i).isSome.toNat + (encodeP i).isSome.toNat +
    (encodeU i).isSome.toNat ≤ 1

theorem add (g d a b) : Statement (.add g d a b) := Nat.le_refl 1
theorem sub (g d a b) : Statement (.sub g d a b) := Nat.le_refl 1
theorem and_ (g d a b) : Statement (.and_ g d a b) := Nat.le_refl 1
theorem or_ (g d a b) : Statement (.or_ g d a b) := Nat.le_refl 1
theorem xor (g d a b) : Statement (.xor g d a b) := Nat.le_refl 1
theorem shl (g d a b) : Statement (.shl g d a b) := Nat.le_refl 1
theorem shr (g d a b) : Statement (.shr g d a b) := Nat.le_refl 1
theorem sar (g d a b) : Statement (.sar g d a b) := Nat.le_refl 1
theorem mul (g d a b) : Statement (.mul g d a b) := Nat.le_refl 1
theorem mulh (g d a b) : Statement (.mulh g d a b) := Nat.le_refl 1
theorem mulhu (g d a b) : Statement (.mulhu g d a b) := Nat.le_refl 1
theorem div (g d a b) : Statement (.div g d a b) := Nat.le_refl 1
theorem divu (g d a b) : Statement (.divu g d a b) := Nat.le_refl 1
theorem rem (g d a b) : Statement (.rem g d a b) := Nat.le_refl 1
theorem remu (g d a b) : Statement (.remu g d a b) := Nat.le_refl 1
theorem min_ (g d a b) : Statement (.min_ g d a b) := Nat.le_refl 1
theorem max_ (g d a b) : Statement (.max_ g d a b) := Nat.le_refl 1
theorem minu (g d a b) : Statement (.minu g d a b) := Nat.le_refl 1
theorem maxu (g d a b) : Statement (.maxu g d a b) := Nat.le_refl 1
theorem clz (g d a) : Statement (.clz g d a) := Nat.le_refl 1
theorem popc (g d a) : Statement (.popc g d a) := Nat.le_refl 1
theorem sext (g w d a) : Statement (.sext g w d a) := Nat.le_refl 1
theorem zext (g w d a) : Statement (.zext g w d a) := Nat.le_refl 1
theorem addi (g d a imm) : Statement (.addi g d a imm) := Nat.le_refl 1
theorem andi (g d a imm) : Statement (.andi g d a imm) := Nat.le_refl 1
theorem ori (g d a imm) : Statement (.ori g d a imm) := Nat.le_refl 1
theorem xori (g d a imm) : Statement (.xori g d a imm) := Nat.le_refl 1
theorem shlImm (g d a k) : Statement (.shlImm g d a k) := Nat.le_refl 1
theorem shrImm (g d a k) : Statement (.shrImm g d a k) := Nat.le_refl 1
theorem sarImm (g d a k) : Statement (.sarImm g d a k) := Nat.le_refl 1
theorem movi (g d imm) : Statement (.movi g d imm) := Nat.le_refl 1
theorem movhi (g d a imm) : Statement (.movhi g d a imm) := Nat.le_refl 1
theorem fadd (g dbl d a b) : Statement (.fadd g dbl d a b) := Nat.le_refl 1
theorem fsub (g dbl d a b) : Statement (.fsub g dbl d a b) := Nat.le_refl 1
theorem fmul (g dbl d a b) : Statement (.fmul g dbl d a b) := Nat.le_refl 1
theorem ffma (g dbl d a b) : Statement (.ffma g dbl d a b) := Nat.le_refl 1
theorem fmin (g dbl d a b) : Statement (.fmin g dbl d a b) := Nat.le_refl 1
theorem fmax (g dbl d a b) : Statement (.fmax g dbl d a b) := Nat.le_refl 1
theorem fcvtS2d (g d a) : Statement (.fcvtS2d g d a) := Nat.le_refl 1
theorem fcvtD2s (g d a) : Statement (.fcvtD2s g d a) := Nat.le_refl 1
theorem fcvtS2l (g d a) : Statement (.fcvtS2l g d a) := Nat.le_refl 1
theorem fcvtD2l (g d a) : Statement (.fcvtD2l g d a) := Nat.le_refl 1
theorem fcvtL2s (g d a) : Statement (.fcvtL2s g d a) := Nat.le_refl 1
theorem fcvtL2d (g d a) : Statement (.fcvtL2d g d a) := Nat.le_refl 1
theorem fcmpEq (g dbl d a b) : Statement (.fcmpEq g dbl d a b) := Nat.le_refl 1
theorem fcmpLt (g dbl d a b) : Statement (.fcmpLt g dbl d a b) := Nat.le_refl 1
theorem fcmpLe (g dbl d a b) : Statement (.fcmpLe g dbl d a b) := Nat.le_refl 1
theorem fcmpUn (g dbl d a b) : Statement (.fcmpUn g dbl d a b) := Nat.le_refl 1
theorem fclass (g dbl d a) : Statement (.fclass g dbl d a) := Nat.le_refl 1
theorem cmpEq (g d a b) : Statement (.cmpEq g d a b) := Nat.le_refl 1
theorem cmpNe (g d a b) : Statement (.cmpNe g d a b) := Nat.le_refl 1
theorem cmpLt (g d a b) : Statement (.cmpLt g d a b) := Nat.le_refl 1
theorem cmpGe (g d a b) : Statement (.cmpGe g d a b) := Nat.le_refl 1
theorem cmpLtu (g d a b) : Statement (.cmpLtu g d a b) := Nat.le_refl 1
theorem cmpGeu (g d a b) : Statement (.cmpGeu g d a b) := Nat.le_refl 1
theorem cmpBt (g d a b) : Statement (.cmpBt g d a b) := Nat.le_refl 1
theorem cmpiEq (g d a imm) : Statement (.cmpiEq g d a imm) := Nat.le_refl 1
theorem cmpiNe (g d a imm) : Statement (.cmpiNe g d a imm) := Nat.le_refl 1
theorem cmpiLt (g d a imm) : Statement (.cmpiLt g d a imm) := Nat.le_refl 1
theorem cmpiGe (g d a imm) : Statement (.cmpiGe g d a imm) := Nat.le_refl 1
theorem cmpiLtu (g d a imm) : Statement (.cmpiLtu g d a imm) := Nat.le_refl 1
theorem cmpiGeu (g d a imm) : Statement (.cmpiGeu g d a imm) := Nat.le_refl 1
theorem cmpiBt (g d a imm) : Statement (.cmpiBt g d a imm) := Nat.le_refl 1
theorem plogAnd (g d a b) : Statement (.plogAnd g d a b) := Nat.le_refl 1
theorem plogOr (g d a b) : Statement (.plogOr g d a b) := Nat.le_refl 1
theorem plogXor (g d a b) : Statement (.plogXor g d a b) := Nat.le_refl 1
theorem plogAndn (g d a b) : Statement (.plogAndn g d a b) := Nat.le_refl 1
theorem plogOrn (g d a b) : Statement (.plogOrn g d a b) := Nat.le_refl 1
theorem plogNand (g d a b) : Statement (.plogNand g d a b) := Nat.le_refl 1
theorem plogNor (g d a b) : Statement (.plogNor g d a b) := Nat.le_refl 1
theorem plogXnor (g d a b) : Statement (.plogXnor g d a b) := Nat.le_refl 1
theorem sel (g d a b q) : Statement (.sel g d a b q) := Nat.le_refl 1
theorem movpGet (g d) : Statement (.movpGet g d) := Nat.le_refl 1
theorem movpPut (g a) : Statement (.movpPut g a) := Nat.le_refl 1
theorem movpQx (g d a) : Statement (.movpQx g d a) := Nat.le_refl 1
theorem movpXq (g d a) : Statement (.movpXq g d a) := Nat.le_refl 1
theorem br (g disp) : Statement (.br g disp) := Nat.le_refl 1
theorem brx (g a) : Statement (.brx g a) := Nat.le_refl 1
theorem call (g link disp) : Statement (.call g link disp) := Nat.le_refl 1
theorem ret (g a) : Statement (.ret g a) := Nat.le_refl 1
theorem loop (g link disp) : Statement (.loop g link disp) := Nat.le_refl 1
theorem ld (g strong w d a cls imm) : Statement (.ld g strong w d a cls imm) := Nat.le_refl 1
theorem st (g strong w d a cls imm) : Statement (.st g strong w d a cls imm) := Nat.le_refl 1
theorem ldw (g strong w hd ha xb xc cls off) : Statement (.ldw g strong w hd ha xb xc cls off) := Nat.le_refl 1
theorem ldh (g strong hd xb cls off) : Statement (.ldh g strong hd xb cls off) := Nat.le_refl 1
theorem sth (g strong ha xb cls off) : Statement (.sth g strong ha xb cls off) := Nat.le_refl 1
theorem aadd (g w64 d a b cls) : Statement (.aadd g w64 d a b cls) := Nat.le_refl 1
theorem amax (g w64 u d a b cls) : Statement (.amax g w64 u d a b cls) := Nat.le_refl 1
theorem amin (g w64 u d a b cls) : Statement (.amin g w64 u d a b cls) := Nat.le_refl 1
theorem axchg (g w64 d a b cls) : Statement (.axchg g w64 d a b cls) := Nat.le_refl 1
theorem acas (g w64 d a b cls) : Statement (.acas g w64 d a b cls) := Nat.le_refl 1
theorem afadd (g f a b cls) : Statement (.afadd g f a b cls) := Nat.le_refl 1
theorem accres (g f d a b cls) : Statement (.accres g f d a b cls) := Nat.le_refl 1
theorem accrel (g f d a b cls) : Statement (.accrel g f d a b cls) := Nat.le_refl 1
theorem fence (g mask scope) : Statement (.fence g mask scope) := Nat.le_refl 1
theorem sync (g mask scope) : Statement (.sync g mask scope) := Nat.le_refl 1
theorem stkwait (g d a) : Statement (.stkwait g d a) := Nat.le_refl 1
theorem pwait (g ch a imm) : Statement (.pwait g ch a imm) := Nat.le_refl 1
theorem owait (g ha) : Statement (.owait g ha) := Nat.le_refl 1
theorem cread (g d num) : Statement (.cread g d num) := Nat.le_refl 1
theorem cwrite (g a num) : Statement (.cwrite g a num) := Nat.le_refl 1
theorem trap (g imm) : Statement (.trap g imm) := Nat.le_refl 1
theorem tret (g) : Statement (.tret g) := Nat.le_refl 1
theorem halt (g) : Statement (.halt g) := Nat.le_refl 1
theorem launch (g xb) : Statement (.launch g xb) := Nat.le_refl 1
theorem talloc (g ha fmt det keep) : Statement (.talloc g ha fmt det keep) := Nat.le_refl 1
theorem tfree (g ha) : Statement (.tfree g ha) := Nat.le_refl 1
theorem tsymZero (g ha fmt) : Statement (.tsymZero g ha fmt) := Nat.le_refl 1
theorem tsymConst (g ha xb fmt) : Statement (.tsymConst g ha xb fmt) := Nat.le_refl 1
theorem tsymRamp (g ha xb fmt rax) : Statement (.tsymRamp g ha xb fmt rax) := Nat.le_refl 1
theorem tsymRepeat (g hd ha) : Statement (.tsymRepeat g hd ha) := Nat.le_refl 1
theorem tprobeLo (g hd ha) : Statement (.tprobeLo g hd ha) := Nat.le_refl 1
theorem tprobeHi (g hd ha) : Statement (.tprobeHi g hd ha) := Nat.le_refl 1
theorem tretype (g ha fmt) : Statement (.tretype g ha fmt) := Nat.le_refl 1
theorem townGive (g ha own) : Statement (.townGive g ha own) := Nat.le_refl 1
theorem townTake (g ha own) : Statement (.townTake g ha own) := Nat.le_refl 1
theorem tflag (g ha det keep wdet wkeep) : Statement (.tflag g ha det keep wdet wkeep) := Nat.le_refl 1
theorem tld (g hd ha xb ix) : Statement (.tld g hd ha xb ix) := Nat.le_refl 1
theorem tst (g ha xb xc ix) : Statement (.tst g ha xb xc ix) := Nat.le_refl 1
theorem hmov (g hd ha) : Statement (.hmov g hd ha) := Nat.le_refl 1
theorem hset (g hd xb k) : Statement (.hset g hd xb k) := Nat.le_refl 1
theorem hget (g hd ha k) : Statement (.hget g hd ha k) := Nat.le_refl 1
theorem hmkt (g hd xb imm) : Statement (.hmkt g hd xb imm) := Nat.le_refl 1
theorem hmkw (g hd xb xc imm) : Statement (.hmkw g hd xb xc imm) := Nat.le_refl 1
theorem hmkv (g hd ha xb xc fmt keep) : Statement (.hmkv g hd ha xb xc fmt keep) := Nat.le_refl 1
theorem portsetBind (g ha port) : Statement (.portsetBind g ha port) := Nat.le_refl 1
theorem portsetClr (g port) : Statement (.portsetClr g port) := Nat.le_refl 1
theorem portget (g hd xc port) : Statement (.portget g hd xc port) := Nat.le_refl 1
theorem portadvStep (g xb port n) : Statement (.portadvStep g xb port n) := Nat.le_refl 1
theorem portadvSet (g xb port) : Statement (.portadvSet g xb port) := Nat.le_refl 1
theorem stgPut (g d a) : Statement (.stgPut g d a) := Nat.le_refl 1
theorem stgGet (g d a) : Statement (.stgGet g d a) := Nat.le_refl 1
theorem maput (g d a) : Statement (.maput g d a) := Nat.le_refl 1
theorem patld (g ha r0 e0 n) : Statement (.patld g ha r0 e0 n) := Nat.le_refl 1
theorem patsw (g) : Statement (.patsw g) := Nat.le_refl 1
theorem oalloc (g hd xb xc prio cow fmt geom tier write) : Statement (.oalloc g hd xb xc prio cow fmt geom tier write) := Nat.le_refl 1
theorem oref (g hd ha) : Statement (.oref g hd ha) := Nat.le_refl 1
theorem odrop (g ha) : Statement (.odrop g ha) := Nat.le_refl 1
theorem oweak (g hd ha) : Statement (.oweak g hd ha) := Nat.le_refl 1
theorem ounweak (g ha xc) : Statement (.ounweak g ha xc) := Nat.le_refl 1
theorem oupg (g hd ha xc) : Statement (.oupg g hd ha xc) := Nat.le_refl 1
theorem oprio (g ha xc prio) : Statement (.oprio g ha xc prio) := Nat.le_refl 1
theorem ostat (g hd ha k) : Statement (.ostat g hd ha k) := Nat.le_refl 1
theorem ktclr (g) : Statement (.ktclr g) := Nat.le_refl 1
theorem ktadd (g hd xb xc) : Statement (.ktadd g hd xb xc) := Nat.le_refl 1
theorem ktset (g xb xc) : Statement (.ktset g xb xc) := Nat.le_refl 1
theorem ktgetNode (g hd xb) : Statement (.ktgetNode g hd xb) := Nat.le_refl 1
theorem ktgetDepth (g hd xb) : Statement (.ktgetDepth g hd xb) := Nat.le_refl 1
theorem ktgetNodes (g hd) : Statement (.ktgetNodes g hd) := Nat.le_refl 1
theorem ktanc (g ha xb xc) : Statement (.ktanc g ha xb xc) := Nat.le_refl 1
theorem ktpos (g ha xb) : Statement (.ktpos g ha xb) := Nat.le_refl 1
theorem ktprune (g hd ha xb xc) : Statement (.ktprune g hd ha xb xc) := Nat.le_refl 1
theorem wlcfg (g xb lv word) : Statement (.wlcfg g xb lv word) := Nat.le_refl 1
theorem wltpl (g xb xc lv tpl) : Statement (.wltpl g xb xc lv tpl) := Nat.le_refl 1
theorem wlrun (g lv) : Statement (.wlrun g lv) := Nat.le_refl 1
theorem wlstop (g) : Statement (.wlstop g) := Nat.le_refl 1
theorem wlstat (g hd lv item) : Statement (.wlstat g hd lv item) := Nat.le_refl 1
theorem setseq (g xb) : Statement (.setseq g xb) := Nat.le_refl 1
theorem vadd (v) : Statement (.vadd v) := Nat.le_refl 1
theorem vsub (v) : Statement (.vsub v) := Nat.le_refl 1
theorem vmul (v) : Statement (.vmul v) := Nat.le_refl 1
theorem vfma (v) : Statement (.vfma v) := Nat.le_refl 1
theorem vfms (v) : Statement (.vfms v) := Nat.le_refl 1
theorem vmin (v) : Statement (.vmin v) := Nat.le_refl 1
theorem vmax (v) : Statement (.vmax v) := Nat.le_refl 1
theorem vabs (v) : Statement (.vabs v) := Nat.le_refl 1
theorem vneg (v) : Statement (.vneg v) := Nat.le_refl 1
theorem vand (v) : Statement (.vand v) := Nat.le_refl 1
theorem vor (v) : Statement (.vor v) := Nat.le_refl 1
theorem vxor (v) : Statement (.vxor v) := Nat.le_refl 1
theorem vnot (v) : Statement (.vnot v) := Nat.le_refl 1
theorem vshl (v) : Statement (.vshl v) := Nat.le_refl 1
theorem vshr (v) : Statement (.vshr v) := Nat.le_refl 1
theorem vsar (v) : Statement (.vsar v) := Nat.le_refl 1
theorem vcmp (v) : Statement (.vcmp v) := Nat.le_refl 1
theorem vsel (v) : Statement (.vsel v) := Nat.le_refl 1
theorem vmsk (v) : Statement (.vmsk v) := Nat.le_refl 1
theorem vcvt (v) : Statement (.vcvt v) := Nat.le_refl 1
theorem vclamp (v) : Statement (.vclamp v) := Nat.le_refl 1
theorem vmov (v) : Statement (.vmov v) := Nat.le_refl 1
theorem vsplat (v) : Statement (.vsplat v) := Nat.le_refl 1
theorem viota (v) : Statement (.viota v) := Nat.le_refl 1
theorem vexp (v) : Statement (.vexp v) := Nat.le_refl 1
theorem vexpq (v) : Statement (.vexpq v) := Nat.le_refl 1
theorem vlog2 (v) : Statement (.vlog2 v) := Nat.le_refl 1
theorem vrcp (v) : Statement (.vrcp v) := Nat.le_refl 1
theorem vrsq (v) : Statement (.vrsq v) := Nat.le_refl 1
theorem vrefineRcp (v) : Statement (.vrefineRcp v) := Nat.le_refl 1
theorem vrefineRsq (v) : Statement (.vrefineRsq v) := Nat.le_refl 1
theorem vrrot (v) : Statement (.vrrot v) := Nat.le_refl 1
theorem vcrot (v) : Statement (.vcrot v) := Nat.le_refl 1
theorem vrbc (v) : Statement (.vrbc v) := Nat.le_refl 1
theorem vcbc (v) : Statement (.vcbc v) := Nat.le_refl 1
theorem vrred (v) : Statement (.vrred v) := Nat.le_refl 1
theorem vcred (v) : Statement (.vcred v) := Nat.le_refl 1
theorem vrscan (v) : Statement (.vrscan v) := Nat.le_refl 1
theorem vshuf (v) : Statement (.vshuf v) := Nat.le_refl 1
theorem vscale (v) : Statement (.vscale v) := Nat.le_refl 1
theorem dadd (v) : Statement (.dadd v) := Nat.le_refl 1
theorem dsub (v) : Statement (.dsub v) := Nat.le_refl 1
theorem dmul (v) : Statement (.dmul v) := Nat.le_refl 1
theorem dfma (v) : Statement (.dfma v) := Nat.le_refl 1
theorem dquant (v) : Statement (.dquant v) := Nat.le_refl 1
theorem drnd (v) : Statement (.drnd v) := Nat.le_refl 1
theorem dcmp (v) : Statement (.dcmp v) := Nat.le_refl 1
theorem dcvtTo (v) : Statement (.dcvtTo v) := Nat.le_refl 1
theorem dcvtFrom (v) : Statement (.dcvtFrom v) := Nat.le_refl 1
theorem mcall (g rix ovm ov tag) : Statement (.mcall g rix ovm ov tag) := Nat.le_refl 1
theorem mclaim (g slot cnt) : Statement (.mclaim g slot cnt) := Nat.le_refl 1
theorem mrel (g slot cnt) : Statement (.mrel g slot cnt) := Nat.le_refl 1
theorem mwait (g k t) : Statement (.mwait g k t) := Nat.le_refl 1
theorem pcopy (p) : Statement (.pcopy p) := Nat.le_refl 1
theorem pgatherList (p) : Statement (.pgatherList p) := Nat.le_refl 1
theorem pgatherPairs (p) : Statement (.pgatherPairs p) := Nat.le_refl 1
theorem pscatter (p) : Statement (.pscatter p) := Nat.le_refl 1
theorem preduce (p) : Statement (.preduce p) := Nat.le_refl 1
theorem pbcast (p) : Statement (.pbcast p) := Nat.le_refl 1
theorem pfill (p) : Statement (.pfill p) := Nat.le_refl 1
theorem pinvm (p) : Statement (.pinvm p) := Nat.le_refl 1
theorem mend : Statement .mend := Nat.le_refl 1
theorem mlda (ma off s0 s1) : Statement (.mlda ma off s0 s1) := Nat.le_refl 1
theorem mldb (mode ma off s0 s1) : Statement (.mldb mode ma off s0 s1) := Nat.le_refl 1
theorem mmac (mode z acc) : Statement (.mmac mode z acc) := Nat.le_refl 1
theorem mps (on) : Statement (.mps on) := Nat.le_refl 1
theorem mout (acc cnt ma off s0 s1 clr fromma ofmt sat) : Statement (.mout acc cnt ma off s0 s1 clr fromma ofmt sat) := Nat.le_refl 1
theorem mclr (mask) : Statement (.mclr mask) := Nat.le_refl 1
theorem mloop (j fromma ma target count) : Statement (.mloop j fromma ma target count) := Nat.le_refl 1
theorem mifz (target) : Statement (.mifz target) := Nat.le_refl 1
theorem mscl (mask k fromma ma) : Statement (.mscl mask k fromma ma) := Nat.le_refl 1
theorem msig (ma off s0 s1) : Statement (.msig ma off s0 s1) := Nat.le_refl 1
theorem emptyBundle (seg) : Statement (.emptyBundle seg) := Nat.zero_le 1
theorem reservedEncoding (slot) : Statement (.reservedEncoding slot) := Nat.zero_le 1
theorem resultVisible : Statement .resultVisible := Nat.zero_le 1
theorem loadReturn : Statement .loadReturn := Nat.zero_le 1
theorem parcelFetch : Statement .parcelFetch := Nat.zero_le 1
theorem promotionHoldEnd : Statement .promotionHoldEnd := Nat.zero_le 1
theorem detectionResult : Statement .detectionResult := Nat.zero_le 1
theorem sumpReplay : Statement .sumpReplay := Nat.zero_le 1
theorem sumpReport : Statement .sumpReport := Nat.zero_le 1
theorem objectOpHome : Statement .objectOpHome := Nat.zero_le 1
theorem afaddAtSlice : Statement .afaddAtSlice := Nat.zero_le 1
theorem accessPerformed : Statement .accessPerformed := Nat.zero_le 1
theorem pageWalkEnd : Statement .pageWalkEnd := Nat.zero_le 1
theorem faultSettle (asid va level pte) : Statement (.faultSettle asid va level pte) := Nat.zero_le 1
theorem faultDeclare (asid va cow) : Statement (.faultDeclare asid va cow) := Nat.zero_le 1
theorem translationChange (asid va level pte) : Statement (.translationChange asid va level pte) := Nat.zero_le 1
theorem markerAtHead (ch) : Statement (.markerAtHead ch) := Nat.zero_le 1
theorem markerComplete (ch) : Statement (.markerComplete ch) := Nat.zero_le 1
theorem pageMigration (asid va frame tier phase) : Statement (.pageMigration asid va frame tier phase) := Nat.zero_le 1
theorem drainReclaim (die tier) : Statement (.drainReclaim die tier) := Nat.zero_le 1
theorem pumpCommandStart (ch) : Statement (.pumpCommandStart ch) := Nat.zero_le 1
theorem wptrAdvance (ch) : Statement (.wptrAdvance ch) := Nat.zero_le 1
theorem pumpCommandComplete (ch) : Statement (.pumpCommandComplete ch) := Nat.zero_le 1
theorem pumpFault (ch) : Statement (.pumpFault ch) := Nat.zero_le 1
theorem routineStart : Statement .routineStart := Nat.zero_le 1
theorem arrayBlockUpdate : Statement .arrayBlockUpdate := Nat.zero_le 1
theorem psumRowPresent : Statement .psumRowPresent := Nat.zero_le 1
theorem outputRowWrite : Statement .outputRowWrite := Nat.zero_le 1
theorem outputPathOperation : Statement .outputPathOperation := Nat.zero_le 1
theorem windlassLookup : Statement .windlassLookup := Nat.zero_le 1
theorem windlassReplayEnd : Statement .windlassReplayEnd := Nat.zero_le 1
theorem syncRelease (core) : Statement (.syncRelease core) := Nat.zero_le 1
theorem syncRestart : Statement .syncRestart := Nat.zero_le 1
theorem strokeBoundary : Statement .strokeBoundary := Nat.zero_le 1
theorem launchRecordTaken (host q) : Statement (.launchRecordTaken host q) := Nat.zero_le 1
theorem bindRecordReady (die ix rec) : Statement (.bindRecordReady die ix rec) := Nat.zero_le 1
theorem preemptWrite (die ix) : Statement (.preemptWrite die ix) := Nat.zero_le 1
theorem bindRecordEnd (die ix) : Statement (.bindRecordEnd die ix) := Nat.zero_le 1
theorem dispatchBind (die ix) : Statement (.dispatchBind die ix) := Nat.zero_le 1
theorem preemptArrival : Statement .preemptArrival := Nat.zero_le 1
theorem contextSave : Statement .contextSave := Nat.zero_le 1
theorem haltComplete : Statement .haltComplete := Nat.zero_le 1
theorem signatureCompare : Statement .signatureCompare := Nat.zero_le 1
theorem rewindReissue : Statement .rewindReissue := Nat.zero_le 1
theorem abortCompletion : Statement .abortCompletion := Nat.zero_le 1
theorem eccScrub (pa) : Statement (.eccScrub pa) := Nat.zero_le 1
theorem softError (unc arr core ix) : Statement (.softError unc arr core ix) := Nat.zero_le 1
theorem ascreate : Statement .ascreate := Nat.zero_le 1
theorem asdestroy (asid) : Statement (.asdestroy asid) := Nat.zero_le 1
theorem load (asid va len dst) : Statement (.load asid va len dst) := Nat.zero_le 1
theorem map (kind asid va len bus attr) : Statement (.map kind asid va len bus attr) := Nat.zero_le 1
theorem qcreate (q log cls res asid base) : Statement (.qcreate q log cls res asid base) := Nat.zero_le 1
theorem qdestroy (q) : Statement (.qdestroy q) := Nat.zero_le 1
theorem drvread (drive lba asid oid page cnt) : Statement (.drvread drive lba asid oid page cnt) := Nat.zero_le 1
theorem drvwrite (drive lba asid oid page cnt) : Statement (.drvwrite drive lba asid oid page cnt) := Nat.zero_le 1
theorem attest (nonce) : Statement (.attest nonce) := Nat.zero_le 1
theorem jobend (job) : Statement (.jobend job) := Nat.zero_le 1
theorem driveCompletion (ok data) : Statement (.driveCompletion ok data) := Nat.zero_le 1
theorem qhead (q v) : Statement (.qhead q v) := Nat.zero_le 1
theorem barRegisterWrite (off v) : Statement (.barRegisterWrite off v) := Nat.zero_le 1
theorem bar4Access (write off v) : Statement (.bar4Access write off v) := Nat.zero_le 1
theorem functionLevelReset : Statement .functionLevelReset := Nat.zero_le 1
theorem conventionalReset (bootErr fabric) : Statement (.conventionalReset bootErr fabric) := Nat.zero_le 1
theorem fabricPortDown (port) : Statement (.fabricPortDown port) := Nat.zero_le 1
theorem packageUnreachable (pkg) : Statement (.packageUnreachable pkg) := Nat.zero_le 1
theorem strokeDrift : Statement .strokeDrift := Nat.zero_le 1
theorem thermalNearLimit (die preempt) : Statement (.thermalNearLimit die preempt) := Nat.zero_le 1
theorem thermalAbsoluteLimit : Statement .thermalAbsoluteLimit := Nat.zero_le 1
theorem launchRingWrite (off v) : Statement (.launchRingWrite off v) := Nat.zero_le 1
theorem mbxdb (v) : Statement (.mbxdb v) := Nat.zero_le 1

end Sys2Proof.Laws.OneSlot
end

