-- ==== Sys2Proof/Tests/Slice0.lean ====
section
/-! SUPPORT. Tests: words of the spec decode to what they stand for, well-formedness refuses, single steps give what
the spec's examples say, and for every statement with hypotheses a concrete state and operands that meet them. -/

namespace Sys2Proof.Tests

open Sys2Proof Sys2Proof.Machine Sys2Proof.Stmt

/-! ### Helpers -/

/-- V fields all zero. -/
def va : VArgs := { g := Guard.always, fmt := 0, rnd := 0, sa := 0, sb := 0, sc := 0, dw := 0, sat := false, t := false, xs := 0, pat := 0, imm := 0 }
/-- P fields all zero. -/
def pa : PArgs := { g := Guard.always, ch := 0, cls := 0, set := 0, hs := 0, hd := 0, flags := 0 }

/-- Registers X1 = 6, X2 = 7, X3 = 2^48, X4 = -1, X5 = the most negative word, X6 = 0x100004, X7 = 1. -/
def cx : Core :=
  { Core.reset with r := ((((((Arch.reset.setX 1 6).setX 2 7).setX 3 0x1000000000000).setX 4 0xFFFFFFFFFFFFFFFF).setX 5 0x8000000000000000).setX 6 0x100004).setX 7 1 }
/-- The machine with that core. -/
def sx : State := { State.reset with core := cx }
/-- A core with H registers. -/
def withH (c : Core) (l : List (HReg × Handle)) : Core := { c with r := l.foldl (fun r e => r.setH e.1 e.2) c.r }
/-- A core with X registers. -/
def withX (c : Core) (l : List (XReg × Word)) : Core := { c with r := l.foldl (fun r e => r.setX e.1 e.2) c.r }
/-- A TILE handle. -/
def th (t : Nat) : Handle := BitVec.ofNat 256 (2 ^ 252 + t)
/-- A core with tiles. -/
def withT (c : Core) (l : List (Nat × Tile)) : Core := { c with tiles := l }
/-- A space with 16 writable pages from page 0x100, in frames from 0x20. -/
def sp1 : Space := { regions := [{ page := 0x100, n := 16, pte := mkLeaf true 0 1 0 0x20 2 none }] }
/-- A job of one task in space 0. -/
def job1 : Job := { asid := 0, kid := 1, ntasks := 1, argva := 0, gang := 1, skew := 0, cls := 0, flags := 0, wells := 0, jsva := 0 }
/-- The machine with that space as space 0, and that job as job 0. -/
def sm : State := { sx with spaces := [(0, sp1)], jobs := [(0, job1)] }
/-- A bundle of one operation. -/
def one (k : Nat) (i : Instr) : Bundle := { mask := BitVec.ofNat 6 (2 ^ k), stop := true, seg := false, tple := false, bad := false, ops := [(k, some i)], len := 6 }

/-! ### Decoding: words of the spec's own examples and words written out from the encoding tables -/

/-- A literal bundle of one S operation, as 05 writes `loop x9, top [stop]` with displacement -24, and 04 its other examples. -/
theorem test_decode_stream :
    decodeStream [0xFFFF, 0x0041, 0x4400, 0x2400, 0xFFFF, 0xFFE8] = some (.loop Guard.always 9 0xFFFFFFE8) ∧
    decodeStream [0xFFFF, 0x0041, 0x1700, 0x1400, 0x0000, 0x0007] = some (.addi Guard.always 5 0 7) ∧
    decodeStream [0xFFFF, 0x0041, 0x7900, 0x0000, 0x0000, 0x0000] = some (.halt Guard.always) := by decide

/-- 03 Table 8: a bundle of an S and a V0 operation, the first under a guard. -/
theorem test_decode_bundle :
    decodeS 0x1720145000000040 = some (.addi { qp := 2, qn := false } 5 5 64) ∧
    decodeV 0x0000800800000000 = some (.vadd { va with fmt := 2, sb := 1 }) := by decide

/-- Integer and floating: `add x1, x2, x3` and `fadd.d x3, x1, x2` from 03 Table 3. -/
theorem test_decode_arithmetic :
    decodeS 0x00000420C0000000 = some (.add Guard.always 1 2 3) ∧
    decodeS 0x20010C1080000000 = some (.fadd Guard.always true 3 1 2) ∧
    decodeS 0x3102080000000005 = some (.cmpiLt Guard.always 2 0 5) := by decide

/-- 05 `ld.s.w32 x7, x3, 16, cls=2`; 18 `sync 0x4_0000`; 19 `accres.f64 x20, x11, x14` and `afadd.f64 a=x27, b=x26`. -/
theorem test_decode_memory :
    decodeS 0x50061C3200000010 = some (.ld Guard.always true 2 7 3 2 16) ∧
    decodeS 0x7100000000040000 = some (.sync Guard.always 0 4) ∧
    decodeS 0x660150B380000000 = some (.accres Guard.always 1 20 11 14 0) ∧
    decodeS 0x650101B680000000 = some (.afadd Guard.always 1 27 26 0) := by decide

/-- 06 `tst h3, x4, x5, 65`, 12 `tst h2, x11, x12, 0`, 18 `tsym.ramp.i16 ha=h10, xb=x20, imm24=0x20` and `tld x44, h4, x42`. -/
theorem test_decode_tiles :
    decodeS 0x8800003105000041 = some (.tst Guard.always 3 4 5 65) ∧
    decodeS 0x88000022CC000000 = some (.tst Guard.always 2 11 12 0) ∧
    decodeS 0x820200A500000022 = some (.tsymRamp Guard.always 10 20 2 1) ∧
    decodeS 0x8700B04A80000000 = some (.tld Guard.always 44 4 42 0) := by decide

/-- 15 `ktprune x18, h30, x48, x16`; 09 `wlrun imm24=1`. -/
theorem test_decode_units :
    decodeS 0xB60049EC10000000 = some (.ktprune Guard.always 18 30 48 16) ∧
    decodeS 0xBA00000000000001 = some (.wlrun Guard.always 1) := by decide

/-- 07 `vexpq.f32 wp1, rp0, rp1, xs=x20`; 11 `vrrot` by 1 and `vfma` of tap 0; 19 `dcvt.f64 wp0, rp0` and `dquant.d64 wp1, rp1, rp2`. -/
theorem test_decode_vector :
    decodeV 0x4103000811400000 = some (.vexpq { va with fmt := 12, sb := 1, dw := 1, xs := 20 }) ∧
    decodeV 0x4800800000000001 = some (.vrrot { va with fmt := 2, imm := 1 }) ∧
    decodeV 0x0300809D10000000 = some (.vfma { va with fmt := 2, sa := 1, sb := 3, sc := 10, dw := 1 }) ∧
    decodeV 0x6703400000000000 = some (.dcvtTo { va with fmt := 13 }) ∧
    decodeV 0x6403809010000000 = some (.dquant { va with fmt := 14, sa := 1, sb := 2, dw := 1 }) := by decide

/-- 08 `mcall 0, ma2=0x41` and `mclaim slot=0, cnt=4`; 15 `mcall 11, ma1=0x05, ma2=0x31`. -/
theorem test_decode_matrix :
    decodeM 0x00000008000000000082 = some (.mcall Guard.always 0 4 0x41 false) ∧
    decodeM 0x01020000000000000000 = some (.mclaim Guard.always 0 4) ∧
    decodeM 0x0000160C00000000620A = some (.mcall Guard.always 11 6 0x3105 false) := by decide

/-- 09 `pgather ch=2, hs=h4, hd=h6, set=1, gq=q3`; 18 `pfill ch=0, hs=h10, dk=2, cfmt=bf16` and `pcopy ch=3, hs=h5, hd=h3, dk=1, set=2`. -/
theorem test_decode_pumps :
    decodeP 0x040808830003 = some (.pgatherList { pa with ch := 2, set := 1, hs := 4, hd := 6, flags := 3 }) ∧
    decodeP 0x140001401540 = some (.pfill { pa with hs := 10, flags := 0x1540 }) ∧
    decodeP 0x000C10A18800 = some (.pcopy { pa with ch := 3, set := 2, hs := 5, hd := 3, flags := 0x0800 }) := by decide

/-- 08: the `mldb` and `mmac` words of routine 0. -/
theorem test_decode_micro :
    decodeU 0x0802008000000000 = some (.mldb 0 1 0 1 0) ∧ decodeU 0x0C00000000000000 = some (.mmac 0 false 0) := by decide

/-- A reserved opcode, a field that must be zero and an undefined sub value decode to nothing (03 R89). -/
theorem test_decode_refuses :
    decodeS 0x2900000000000000 = none ∧ decodeS 0x0000000000000001 = none ∧ decodeS 0x0001000000000000 = none ∧
    decodeV 0x7F00000000000000 = none ∧ decodeM 0x04000000000000000000 = none ∧ decodeP 0x1C0000000000 = none ∧
    decodeU 0x2C00000000000000 = none := by decide

/-! ### Well-formedness: one ill-formed term for each check -/

/-- S operations: each line breaks one check of 03 R89 and of the rule that names the field. -/
theorem test_wf_scalar :
    [Instr.sext Guard.always 3 1 1, .zext Guard.always 3 1 1, .afadd Guard.always 3 1 1 0, .accres Guard.always 3 1 1 1 0,
     .accrel Guard.always 3 1 1 1 0, .loop Guard.always 0 0, .fence Guard.always 1 5, .sync Guard.always 0x1000 1,
     .sync Guard.always 1 3, .sync Guard.always 0 5, .cread Guard.always 1 0x1E, .cwrite Guard.always 1 0x80,
     .talloc Guard.always 1 31 false false, .tsymZero Guard.always 1 31, .tsymConst Guard.always 1 1 31,
     .tsymRamp Guard.always 1 1 2 3, .tretype Guard.always 1 31, .townGive Guard.always 1 0, .townGive Guard.always 1 11,
     .hmkv Guard.always 1 1 1 1 30 false, .portsetBind Guard.always 1 12, .portsetClr Guard.always 12,
     .portget Guard.always 1 1 12, .portadvStep Guard.always 1 12 0, .portadvSet Guard.always 1 12,
     .patld Guard.always 1 0 0 0, .patld Guard.always 1 1 0 16, .patld Guard.always 1 0 49 16,
     .oalloc Guard.always 1 1 1 0 false 0 3 0 false, .oalloc Guard.always 1 1 1 0 false 0 0 3 false,
     .wlcfg Guard.always 1 6 0, .wlcfg Guard.always 1 0 11, .wltpl Guard.always 1 1 6 0, .wltpl Guard.always 1 1 0 3,
     .wlrun Guard.always 6, .wlstat Guard.always 1 0 17, .wlstat Guard.always 1 6 0].all (fun i => !i.wf) = true := by decide

/-- V operations: a format, a source code, an unused source, a destination, a rounding mode, saturation, T, the immediate, xs and the
pattern that a class refuses (07 R212 to R232). -/
theorem test_wf_vector :
    [Instr.vadd { va with fmt := 31 }, .vadd { va with sa := 12 }, .vabs { va with sb := 1 }, .vadd { va with dw := 4 },
     .vadd { va with rnd := 6 }, .vadd { va with fmt := 12, sb := 1, rnd := 5 }, .vand { va with sat := true },
     .vadd { va with imm := 1 }, .vadd { va with xs := 1 }, .vadd { va with pat := 1 }, .vcrot { va with fmt := 2 },
     .vcmp { va with imm := 7 }, .vsel { va with sc := 9 }, .vmsk { va with imm := 8 }, .vcvt { va with fmt := 2, imm := 2 },
     .vrrot { va with fmt := 2, imm := 128 }, .vrred { va with fmt := 2, imm := 3 }, .vexpq { va with fmt := 12, t := true },
     .vscale { va with fmt := 12 }, .dadd { va with fmt := 12 }, .dcmp { va with fmt := 14, imm := 7 }, .viota { va with fmt := 12 }].all
      (fun i => !i.wf) = true := by decide

/-- M and P operations and micro-words (08 Table 1, R250; 09 Table 2, R270). -/
theorem test_wf_units :
    [Instr.mcall Guard.always 0 0 1 false, .mcall Guard.always 0 0x7F 0 false, .mclaim Guard.always 60 4, .mrel Guard.always 63 1,
     .mwait Guard.always 1 true, .pcopy { pa with flags := 0x6000 }, .pcopy { pa with flags := 0x0040 },
     .pgatherList { pa with flags := 0x2000 }, .pscatter { pa with flags := 0x0800 }, .pfill { pa with flags := 0x4000 },
     .pinvm { pa with hs := 1 }, .pcopy { pa with hs := 1, flags := 0x4000 }, .mldb 6 0 0 0 0, .mmac 7 false 0,
     .mout 0 0 0 0 0 0 false false 31 false, .mout 0 0 0 0 0 0 false true 1 false].all (fun i => !i.wf) = true := by decide

/-- A well-formed operation of each kind. -/
theorem test_wf_accepts :
    [Instr.sext Guard.always 2 1 1, .sync Guard.always 0xFFF 1, .talloc Guard.always 1 2 true false, .vadd { va with fmt := 2, sb := 1 },
     .mcall Guard.always 0 4 0x41 false, .pfill { pa with flags := 0x1540 }, .mmac 5 true 3].all (fun i => i.wf) = true := by decide

/-! ### Witnesses: concrete states and operands that meet the hypotheses of each statement -/

theorem witness_GuardFalseNoEffect : sx.core.guard (Instr.add { qp := 1, qn := false } 1 1 1).guard = false := by decide
theorem witness_IntegerResults : sx.core.guard Guard.always = true ∧ sx.core.guard { qp := 15, qn := true } = true := by decide
theorem witness_DivisionResults :
    sx.core.guard Guard.always = true ∧ sx.core.x 0 = 0 ∧ (sx.core.x 5 = 0x8000000000000000 ∧ sx.core.x 4 = 0xFFFFFFFFFFFFFFFF) ∧
    (sx.core.x 2 ≠ 0 ∧ ¬(sx.core.x 1 = 0x8000000000000000 ∧ sx.core.x 2 = 0xFFFFFFFFFFFFFFFF)) ∧
    ((0, one 0 (.div Guard.always 1 1 2), 6) : Part).2.1.ops = [(0, some (.div Guard.always 1 1 2))] ∧
    (∀ o ∈ realOps [((0, one 0 (.add Guard.always 1 1 2), 6) : Part)], o.2.divides = false) ∧
    0 < ({ cx with iss := { cx.iss with divHold := 1 } } : Core).iss.divHold ∧ (Instr.divu Guard.always 1 1 2).divides = true := by decide
theorem witness_ScalarFloatResults : sx.core.guard Guard.always = true := by decide
theorem witness_PredicateOperations : sx.core.guard Guard.always = true := by decide
theorem witness_ControlTransfers : sx.core.guard Guard.always = true ∧ sx.core.x 1 - 1 ≠ 0 ∧ sx.core.x 7 - 1 = 0 := by decide
theorem witness_RegisterOperationsFrame :
    registerOnly (.add Guard.always 1 1 2) = true ∧ exec (.add Guard.always 1 1 2) sx = .next (sx.schedX 1 1 13) := by
  exact ⟨rfl, rfl⟩

/-- A core with one result due, and one with two to one register. -/
def flying (l : List Pend) : State := { sx with core := { cx with flight := l } }
theorem witness_RegisterResultsBecomeVisible :
    (∀ w ∈ [Write.x 0 1, .x 63 1, .q 0 false, .q 15 true, .qAll 0xFFFF, .h 63 1, .ma 7 1, .stg 63 1, .seqlen 5, .xfp 1 1 0x10, .qfp 1 true 0x10],
      (flying [{ due := 0, seq := 0, slot := 0, w := w }, { due := 1, seq := 1, slot := 0, w := .x 2 1 }]).core.flight.filter
        (fun q => decide (q.due ≤ 0)) = [{ due := 0, seq := 0, slot := 0, w := w }]) ∧
    (flying [{ due := 0, seq := 0, slot := 0, w := .x 1 1 }, { due := 0, seq := 1, slot := 0, w := .x 1 2 }]).core.flight.filter
      (fun q => decide (q.due ≤ 0)) = [{ due := 0, seq := 0, slot := 0, w := .x 1 1 }, { due := 0, seq := 1, slot := 0, w := .x 1 2 }] := by decide
theorem witness_ControlRegisters :
    sx.core.guard Guard.always = true ∧ sx.core.r.prot = false ∧ sx.core.r.chk = false ∧ 0x80 ∉ [0x00, 0x02, 0x08, 0x09, 0x0A, 0x0B] := by decide

/-- A core with a pointer, a tile of an engine's and one of its own. -/
def swait : State :=
  { sx with stroke := 6, core := withT (withH { cx with r := { cx.r with wptr := #v[6, 0, 0, 0, 0, 0, 0, 0] } } [(1, th 1), (2, th 2)]) [(1, { kind := 1 }), (2, { kind := 1, own := 3 })] }
theorem witness_WaitsHoldOrGoOn :
    swait.core.guard Guard.always = true ∧ swait.core.r.prot = false ∧ swait.core.r.chk = false ∧ (swait.core.x 1).toNat ≤ swait.stroke ∧
    swait.stroke < (swait.core.x 2).toNat ∧ (swait.core.chan 0).fault = none ∧ (swait.core.x 1 + (0 : BitVec 32).signExtend 64).toNat ≤ swait.core.wptr 0 ∧
    swait.core.wptr 0 < (swait.core.x 1 + (1 : BitVec 32).signExtend 64).toNat ∧ (swait.core.h 1).kind = 1 ∧
    (swait.core.tile (swait.core.h 1).tix).own = 0 ∧ (swait.core.tile (swait.core.h 2).tix).own ≠ 0 ∧ (swait.core.h 0).kind ≠ 1 := by decide

/-- A core whose kernel has a handler at 0x40, its task running. -/
def ch : Core := { cx with kern := { handler := some 0x40 }, task := { phase := .running } }
theorem running_not_ending (c : Core) (h : c.task.phase = .running) : ¬ Ending c := by
  rintro ⟨f, n, e, d, k⟩; rw [h] at k; cases k
theorem handles_ch : Handles ch 0x40 := ⟨rfl, by decide, by decide, running_not_ending ch rfl⟩
theorem witness_TrapEntry :
    ch.guard Guard.always = true ∧ Handles ch 0x40 ∧ (¬ Ending sx.core ∧ sx.core.kern.handler = none) ∧
    (¬ Ending ({ ch with r := ch.r.setInh true } : Core) ∧ ({ ch with r := ch.r.setInh true } : Core).r.inh = true) ∧
    ({ ch with task := { phase := .ending false 0 7 false } } : Core).task.phase = .ending false 0 7 false := by
  refine ⟨by decide, handles_ch, ⟨?_, rfl⟩, ⟨running_not_ending _ rfl, by decide⟩, rfl⟩
  rintro ⟨f, n, e, d, k⟩; cases k
theorem witness_ReturnFromTrap :
    sx.core.guard Guard.always = true ∧ sx.core.r.inh = false ∧ (let c : Core := { ch with r := ch.r.setInh true }; c.r.inh = true ∧ c.resume = none ∧ c.wl.susp = false) := by
  decide
theorem witness_HaltStopsIssue : sx.core.guard Guard.always = true := by decide

theorem witness_AddressChecks :
    sx.core.guard Guard.always = true ∧ ((sx.core.x 3).getLsbD 48 = true ∧ 48 ≤ 48) ∧
    ((∀ k : Nat, k < 64 → 48 ≤ k → (sx.core.x 1).getLsbD k = false) ∧ (sx.core.x 1).toNat % 4 ≠ 0) ∧
    (sx.core.x 6).toNat < 2 ^ 48 ∧ (sx.core.x 6).toNat % 4 = 0 ∧
    (let c : Core := { cx with ranges := [(0x100000, 8, 1)] }; c.ranges.any (fun r => meets r.1 r.2.1 0x100004 4 && r.2.2 != 0) = true) ∧
    (let c : Core := { cx with r := { cx.r with kstat := 4 } }; c.ranges.any (fun r => meets r.1 r.2.1 0x100004 4) = false ∧ c.r.det = true) := by decide

/-- A machine with an object of one page at 0x180000, its check cached, and OBJS handles of it. -/
def so : State :=
  let o : Obj := { state := 1, strong := 1, pages := 1, base := 0x100000, gen := 5, write := true, frame := 0x20, tier := 1, fmt := 2, onDie0 := 1 }
  { sx with spaces := [(0, { sp1 with objs := [(9, o)] })], core := withH { cx with ocache := [9] } [(1, objHandle 9 5), (2, Handle.withKind (objHandle 9 5) 4)] }
theorem witness_LoadsEnterTheMemoryUnit :
    sm.core.guard Guard.always = true ∧ Plain sm ∧ (sm.core.x 6).toNat < 2 ^ 48 ∧ (sm.core.x 6).toNat % 4 = 0 ∧ sm.core.forward 0x100004 4 0 true = none ∧
    Reads sm 0x100004 4 [(0x20004, 4)] ∧ sm.core.forward 0x100020 32 15 true = none ∧ Reads sm 0x100020 32 [(0x20020, 32)] ∧
    ((so.core.h 1).kind = 3 ∧ so.oidOk (so.core.h 1).oid = true ∧ so.core.ocache.contains (so.core.h 1).oid = true ∧
      (so.core.h 1).gen = (so.objEntry 9).gen ∧ (so.objEntry 9).strong ≠ 0 ∧ 4088 + 8 ≤ (so.objEntry 9).pages * 4096 ∧
      (so.objEntry 9).base + 4088 < 2 ^ 48 ∧ so.core.forward ((so.objEntry 9).base + 4088) 8 0 true = none ∧ Reads so 0x100FF8 8 [(0x20FF8, 8)]) ∧
    Writes sm 0x100004 4 [(0x20004, 4)] := by
  refine ⟨by decide, ⟨by decide, by decide⟩, by decide, by decide, by decide, ⟨_, rfl⟩, by decide, ⟨_, rfl⟩, ⟨by decide, by decide, by decide, by decide, by decide, by decide, by decide, by decide, ⟨_, rfl⟩⟩, ⟨_, rfl⟩⟩
theorem witness_StoresRetireAtIssue :
    sm.core.guard Guard.always = true ∧ Plain sm ∧ (sm.core.x 6).toNat < 2 ^ 48 ∧ (sm.core.x 6).toNat % 4 = 0 ∧
    (sm.core.ranges.any (fun r => meets r.1 r.2.1 0x100004 4 && r.2.2 != 0) = false ∧ sm.core.r.det = false) ∧
    sm.core.mustSump 0 sm.core.iss.seq = false ∧ Writes sm 0x100004 4 [(0x20004, 4)] ∧
    sx.core.sump.length < 64 ∧ (∃ v, sx.reach sx.core.task.asid none 0x100004 4 true (some sx.core.iss.seq) = .wait v) := by
  refine ⟨by decide, ⟨by decide, by decide⟩, by decide, by decide, by decide, by decide, ⟨_, rfl⟩, by decide, ⟨_, rfl⟩⟩
theorem witness_AccumulatorFenceAndLaunch :
    sm.core.guard Guard.always = true ∧ Plain sm ∧ sm.accresForm sm.core.task.job 0 0x100000 0x40 = true ∧ Reads sm 0x100000 0x40 [(0x20000, 0x40)] ∧
    sm.core.quietBefore sm.core.iss.seq 1 = true ∧
    (let c : Core := { cx with mu := [{ seq := 0, kind := .store, cls := 0, strong := true, va := 0, width := 1, phys := [], data := 0, ready := 9, fwd := none, pcv := 0, op := 0 }], iss := { cx.iss with seq := 1 } }; c.quietBefore 1 1 = false) ∧
    0x100040 < 2 ^ 48 ∧ 0x100040 % 64 = 0 ∧ Reads sm 0x100040 64 [(0x20040, 64)] := by
  refine ⟨by decide, ⟨by decide, by decide⟩, by decide, ⟨_, rfl⟩, by decide, by decide, by decide, by decide, ⟨_, rfl⟩⟩
/-- A machine whose memory unit holds one access that may be performed now. -/
def su (k : MuKind) (w : Nat) (p : List (Nat × Nat)) : State :=
  { sm with core := { cx with mu := [{ seq := 0, kind := k, cls := 0, strong := true, va := 0x100004, width := w, phys := p, data := 1, ready := 0, fwd := none, pcv := 0, op := 0 }], iss := { cx.iss with seq := 1 } } }
theorem witness_LoadReturnWritesRegister :
    ∀ k ∈ [MuKind.load 0, .load 63, .loadW 5 15 false, .loadH 63], ∃ i, (su k 4 [(0x20004, 4)]).nextItem = some i ∧ i.kind = k ∧
      (su k 4 [(0x20004, 4)]).aborts i = false ∧ Plain (su k 4 [(0x20004, 4)]) := by
  intro k hk
  simp only [List.mem_cons, List.mem_nil_iff, or_false] at hk
  rcases hk with rfl | rfl | rfl | rfl <;> exact ⟨_, rfl, rfl, by decide, by decide, by decide⟩
theorem witness_AccessesPerformed :
    (∀ k ∈ [MuKind.store, .atomic 4 false 5 0, .afadd 0 false], ∃ i, (su k 4 [(0x20004, 4)]).nextItem = some i ∧ i.kind = k ∧ i.phys = [(0x20004, i.width)] ∧
      i.width = accSize 0 ∧ (su k 4 [(0x20004, 4)]).aborts i = false ∧ Plain (su k 4 [(0x20004, 4)]) ∧ Memory.wf (su k 4 [(0x20004, 4)]).mem = true) ∧
    ((0 : Nat) < 2 ^ 32 ∧ 2 ^ 32 - 1 < 2 ^ 32 ∧ 2 ^ 64 - 1 < 2 ^ 64) := by
  refine ⟨?_, by decide⟩
  intro k hk
  simp only [List.mem_cons, List.mem_nil_iff, or_false] at hk
  rcases hk with rfl | rfl | rfl <;> exact ⟨_, rfl, rfl, rfl, rfl, by decide, ⟨by decide, by decide⟩, by decide⟩

/-- A sump entry for a store to page `p`, and a machine that holds it. -/
def en (va : Nat) (bad : Option (Nat × Nat)) : Sump := { seq := 0, kind := .store, cls := 3, op := 0x51, width := 4, va := va, data := 1, strong := true, bad := bad, pcv := 0 }
/-- A machine whose sump holds one entry. -/
def ssump (e : Sump) : State := { sm with core := { ch with sump := [e], iss := { cx.iss with seq := 1 } } }
theorem witness_SumpReplayAndReport :
    Plain (ssump (en 0x100004 none)) ∧ Memory.wf (ssump (en 0x100004 none)).mem = true ∧
    (∃ e, (ssump (en 0x100004 none)).nextReplay = some (en 0x100004 none, .ok [(0x20004, 4)] false e)) ∧ (ssump (en 0x100004 none)).aborts ((en 0x100004 none).item [(0x20004, 4)]) = false ∧
    (ssump (en 0 (some (3, 0)))).nextReport = some (en 0 (some (3, 0)), 3, 0) ∧ (ssump (en 0 (some (3, 0)))).core.task.phase = .running ∧ Handles (ssump (en 0 (some (3, 0)))).core 0x40 := by
  refine ⟨⟨by decide, by decide⟩, by decide, ⟨_, rfl⟩, by decide, by decide, rfl, ⟨rfl, by decide, by decide, running_not_ending _ rfl⟩⟩

/-- A core that has arrived at a SYNC of a scope, released or not. -/
def ssync (scope : Nat) (r : Option Nat) (go : Bool) : State :=
  { sx with core := { ch with hold := { sync := some { scope := scope, mask := 1, arrived := 0, restart := r, go := go } } } }
theorem witness_BarrierArrivalReleaseRestart :
    (sx.core.guard Guard.always = true ∧ Plain sx ∧ sx.core.task.gpos = 0 ∧ leftOut sx.cid 1 2 = true ∧ leftOut sx.cid 1 1 = false ∧
      sx.strangers 1 = false ∧ leftOut sx.cid 4 0 = false ∧ sx.core.hold.sync = none ∧ sx.core.quietBefore sx.core.iss.seq 0xFFFF = true) ∧
    (∃ w, (ssync 1 (some 0) true).core.hold.sync = some w ∧ w.go = true) ∧ (∃ w, (ssync 1 none false).core.hold.sync = some w ∧ w.go = false) ∧
    ((ssync 1 none false).releasable 0 = true ∧ (ssync 2 none false).releasable 0 = true) ∧
    (∃ w r, (ssync 1 (some 0) false).core.hold.sync = some w ∧ w.restart = some r ∧ w.go = false ∧ r ≤ (ssync 1 (some 0) false).cycle) ∧
    (∃ w r, (ssync 4 (some 0) false).core.hold.sync = some w ∧ w.restart = some r ∧ w.go = false ∧ r ≤ (ssync 4 (some 0) false).stroke) := by
  refine ⟨⟨by decide, ⟨by decide, by decide⟩, by decide, by decide, by decide, by decide, by decide, by decide, by decide⟩, ⟨_, rfl, rfl⟩, ⟨_, rfl, rfl⟩, by decide,
    ⟨_, _, rfl, rfl, rfl, by decide⟩, ⟨_, _, rfl, rfl, rfl, by decide⟩⟩
theorem witness_MemoryReadAfterWrite : Memory.wf sm.mem = true ∧ Memory.wf (sm.writeByte 5 7).mem = true := by decide

/-- A core with TILE handles H1 to H9 of tiles 1 to 9: FREE, STORED INT8, ZERO, CONST, RAMP, a repeater of 2, one of an engine's, one repeated
15 times, the last tile; and H0 of no kind. -/
def ct : Core :=
  withT (withH cx [(1, th 1), (2, th 2), (3, th 3), (4, th 4), (5, th 5), (6, th 6), (7, th 7), (8, th 8), (9, th 4095)])
    [(2, { kind := 1, fmt := 0, base := 0, ext := 64, rpc := 1 }), (3, { kind := 2, fmt := 2 }), (4, { kind := 3, fmt := 2, val := 5 }),
     (5, { kind := 4, fmt := 2, val := 1 }), (6, { kind := 5, fmt := 0, val := 2 }), (7, { kind := 1, fmt := 2, own := 3, base := 64, ext := 128 }),
     (8, { kind := 1, fmt := 2, rpc := 15, base := 192, ext := 128 }), (4095, { kind := 1, fmt := 2, base := 320, ext := 128 })]
/-- The machine with that core. -/
def stl : State := { sx with core := ct }
theorem witness_TileOperations :
    stl.core.guard Guard.always = true ∧ (∀ h ∈ [(1 : HReg), 2, 3, 4, 5, 6, 7, 8, 9], (stl.core.h h).kind = 1) ∧
    (stl.core.tile 1).kind = 0 ∧ (∃ lo free, allocRun stl.core.free 128 = some (lo, free)) ∧
    ((stl.core.tile 4095).own = 0 ∧ (stl.core.tile 4095).rpc = 0 ∧ (stl.core.tile 4095).kind ≠ 0) ∧
    (¬ (fmtOf 2 = .tern2 ∧ (stl.core.x 1).toNat % 4 = 2) ∧ (fmtOf 2).isInt = true ∧ stl.core.hold.symDone = none) ∧
    ((stl.core.tile 3).kind = 2 ∧ (stl.core.tile 4).kind = 3 ∧ (stl.core.tile 5).kind = 4 ∧ (stl.core.tile 6).kind = 5 ∧ (stl.core.tile 6).val.toNat % 4096 = 2 ∧
      (stl.core.tile 2).kind = 1 ∧ (stl.core.tile 2).rpc ≠ 15) ∧
    ((stl.core.tile 2).own = 0 ∧ 0 = (stl.core.tile 2).fmt ∧ 2 ≠ (stl.core.tile 4).fmt + 1 ∧ (stl.core.tile 4).retypeOk 10 = true ∧ stl.core.mustPromote [4095] = false) ∧
    ((stl.core.tile 7).own = 3 ∧ stl.core.engineNames 3 7 = false) := by
  refine ⟨by decide, by decide, by decide, ⟨_, _, rfl⟩, by decide, by decide, by decide, by decide, by decide⟩
theorem witness_TileOperationTraps :
    stl.core.guard Guard.always = true ∧ (stl.core.h 0).kind ≠ 1 ∧ (stl.core.h 2).kind = 1 ∧ (stl.core.tile 2).kind ≠ 0 ∧
    ((stl.core.tile 1).kind = 0 ∧ allocRun ([] : List (Nat × Nat)) 128 = none) ∧ (stl.core.tile 7).own ≠ 0 ∧ ((stl.core.tile 2).own = 0 ∧ (stl.core.tile 2).rpc ≠ 0) ∧
    (fmtOf 5 = .tern2 ∧ (stl.core.x 1).toNat % 4 = 2) ∧ (fmtOf 12).isInt = false ∧ ((stl.core.tile 2).own = 0 ∧ 12 ≠ (stl.core.tile 2).fmt ∧ (stl.core.tile 2).retypeOk 12 = false) ∧
    (stl.core.hold.symDone = none ∧ (stl.core.tile 8).kind = 1 ∧ (stl.core.tile 8).rpc = 15 ∧ (8 : Nat) ≠ 2 ∧ (stl.core.h 0).kind ≠ 1) := by decide
/-- The tile core with a promotion of tile 3 whose hold has ended, or a detection of tile 2, 4095 or 3 that is due. -/
def spromo (u : Nat) : State := { stl with core := { ct with hold := { promo := some { tiles := [(3, some (512, 16))], until_ := u } } } }
/-- The tile core with one detection due at cycle 0. -/
def sdet (t : Nat) : State := { stl with core := { ct with dets := [{ tile := t, due := 0, sym := .zero }] } }
theorem witness_TileChangesTakeEffect :
    (Sparse.wf {} ct.tiles = true ∧ (ct.tile 1).kind = 0 ∧ ((ct.tile 4095).rpc = 0 ∧ (ct.tile 4095).kind ≠ 5 ∧ (ct.tile 4095).kind ≠ 0) ∧
      ((ct.tile 2).kind = 1 ∧ (ct.tile 2).rpc < 15 ∧ 2 ≠ 4095)) ∧
    Sparse.wf 0 stl.core.sp = true ∧ stl.core.hold.promo = none ∧ (∃ p, (spromo 1).core.hold.promo = some p ∧ (spromo 1).cycle < p.until_) ∧
    (∃ p, (spromo 0).core.hold.promo = some p ∧ p.until_ ≤ (spromo 0).cycle ∧ p.tiles = [(3, some (512, 16))] ∧ p.reps = [] ∧ (ct.tile 3).kind = 2 ∧ (ct.tile 3).ext = 0 ∧ 16 = (fmtOf (ct.tile 3).fmt).extent ∧ (ct.tile 4095).kind = 1) ∧
    (∀ t ∈ [2, 3, 4095], ∃ d, (sdet t).core.dets.filter (fun d => decide (d.due ≤ (sdet t).cycle)) = [d] ∧ d.tile = t ∧ ∀ k, d.sym ≠ .rep k) ∧
    ((ct.tile 3).kind ≠ 1 ∧ (ct.tile 2).rpc ≠ 0 ∧ (ct.tile 4095).kind = 1 ∧ (ct.tile 4095).rpc = 0) := by
  refine ⟨by decide, by decide, by decide, ⟨_, rfl, by decide⟩, ⟨_, rfl, by decide, rfl, rfl, by decide⟩, ?_, by decide⟩
  intro t h
  simp only [List.mem_cons, List.mem_nil_iff, or_false] at h
  rcases h with rfl | rfl | rfl <;> exact ⟨_, rfl, rfl, by intro k h; cases h⟩
theorem witness_HandleResults :
    sx.core.guard Guard.always = true ∧ (so.core.h 1).kind = 3 ∧ (so.core.h 2).kind = 4 ∧ ((so.core.h 0).kind ≠ 3 ∧ (so.core.h 0).kind ≠ 4) := by decide

/-- A WALK of rows 0 to 15 of tile 4095, and of the 4 rows of steps 0, 4, 8, 12 twice over. -/
def wk : Handle := BitVec.ofNat 256 (2 * 2 ^ 252 + 4095 * 2 ^ 232 + 1 * 2 ^ 16 + 16)
/-- The tile core with H10 the walk, ports 0 and 8 bound to it at their last step. -/
def cw : Core :=
  let p : Port := { bound := true, walk := wk, i0 := 15 }
  { withH ct [(10, wk)] with ports := #v[p, {}, {}, {}, {}, {}, {}, {}, p, {}, {}, {}] }
/-- The machine with that core. -/
def sw : State := { sx with core := cw }
theorem witness_PortAndPatternOperations :
    sw.core.guard Guard.always = true ∧ (sw.core.h 0).kind ≠ 2 ∧ (sw.core.h 10).kind = 2 ∧ walkLen wk ≤ 1024 ∧ walkTiles wk = [4095] ∧
    ((sw.core.tile 4095).kind ≠ 0 ∧ (sw.core.tile 4095).own = 0) ∧ sw.core.mustPromote (walkTiles wk) = false ∧ (sw.core.port 0).bound = true ∧
    (sw.core.port 1).bound = false ∧ ((sw.core.h 2).kind = 1 ∧ (sw.core.tile 2).kind ≠ 0 ∧ (sw.core.tile 2).own = 0 ∧ (fmtOf (sw.core.tile 2).fmt).width = 8) ∧
    ((sw.core.port 0).i0 < walkCnt (sw.core.port 0).walk 0 ∧ (sw.core.port 0).i1 < walkCnt (sw.core.port 0).walk 1 ∧ (sw.core.port 0).i2 < walkCnt (sw.core.port 0).walk 2) ∧
    (Sparse.wf {} cw.tiles = true ∧ 8 ≤ 11 ∧ 11 < 12 ∧ 4095 ∈ walkTiles (sw.core.port 0).walk) := by decide

/-- The object machine with an operation of bundle 0 sent, answered or not. -/
def sobj (i : Instr) (h : Handle) (x : Word) (ans : Option (Option Trap × Handle × Word × Bool)) : State :=
  { so with core := { so.core with hold := { obj := [{ pcv := 0, i := i, h := h, x := x, due := 0, reclaims := false, ans := ans }] } } }
theorem witness_ObjectOperationsAtIssue :
    so.core.guard Guard.always = true ∧ so.core.r.prot = false ∧ so.core.log = [] ∧ so.core.sentObj = none ∧
    ((so.core.h 1).kind = 3 ∧ (so.core.h 2).kind = 4 ∧ (so.core.h 1).oid < (so.space 0).osize ∧ (so.core.h 0).kind = 0) ∧
    (∃ op, (sobj (.odrop Guard.always 1) (objHandle 9 5) 0 none).core.sentObj = some op ∧ op.ans = none) ∧
    (∃ op, (sobj (.odrop Guard.always 1) (objHandle 9 5) 0 (some (some { code := 7 }, 0, 0, false))).core.sentObj = some op ∧ op.ans = some (some { code := 7 }, 0, 0, false)) ∧
    (∃ op, (sobj (.odrop Guard.always 1) (objHandle 9 5) 0 (some (none, 0, 0, false))).core.sentObj = some op ∧ op.ans = some (none, 0, 0, false)) := by
  refine ⟨by decide, by decide, by decide, by decide, by decide, ⟨_, rfl, rfl⟩, ⟨_, rfl, rfl⟩, ⟨_, rfl, rfl⟩⟩

/-- The object machine with another entry 9. -/
def soe (o : Obj) (i : Instr) (h : Handle) (x : Word) : State :=
  { sobj i h x none with spaces := [(0, { sp1 with objs := [(9, o)] })] }
/-- An entry's counts, generation and state. -/
def ob (state gen strong weak : Nat) : Obj := { state := state, gen := gen, strong := strong, weak := weak, pages := 1, base := 0x180000 }
theorem witness_ObjectTable :
    (∀ o ∈ [ob 1 5 1 0, ob 1 5 2 1, ob 1 5 0xFFFF 0xFFFF, ob 1 5 0 1, ob 1 5 0 0, ob 1 6 1 0, ob 2 6 0 1, ob 2 6 0 2, ob 0 6 0 0],
      let s := soe o (.odrop Guard.always 1) (objHandle 9 5) 0
      s.core.hold.chk = none ∧ s.core.r.prot = false ∧ (s.space s.core.task.asid).objs.get {} 9 = o ∧ Sparse.wf {} (s.space s.core.task.asid).objs = true ∧
        s.nextObj.isSome = true ∧ (objHandle 9 5).gen = 5) ∧
    (∃ op sp, (soe (ob 1 5 1 0) (.odrop Guard.always 1) (objHandle 9 5) 0).nextObj = some op ∧ (0, sp) ∈ (soe (ob 1 5 1 0) (.odrop Guard.always 1) (objHandle 9 5) 0).spaces) ∧
    (∀ x ∈ [(0 : Word), 1, 2 ^ 40, 2 ^ 40 + 1], ∃ op, (soe (ob 1 5 1 0) (.oalloc Guard.always 1 1 1 0 false 0 0 1 true) 0 x).nextObj = some op ∧ op.x = x ∧
      (x = 1 → (op.x.toNat + 4095) / 4096 ≤ (soe (ob 1 5 1 0) (.oalloc Guard.always 1 1 1 0 false 0 0 1 true) 0 x).freeBoth 1 1)) ∧
    (let s : State := { so with core := { so.core with hold := { chk := some (9, 0) } } }; s.core.hold.chk = some (9, 0) ∧ 0 ≤ s.cycle ∧ s.nextObj = none) := by
  refine ⟨by decide, ⟨_, _, rfl, List.mem_cons_self⟩, ?_, by decide⟩
  intro x h
  simp only [List.mem_cons, List.mem_nil_iff, or_false] at h
  rcases h with rfl | rfl | rfl | rfl <;> exact ⟨_, rfl, rfl, by decide⟩

/-- A token tree of nodes 0, 1 (under 0) and 2 (under 1), and one of 256 nodes; tiles 2 MASK1 and 3 INT32. -/
def tn (p slot tok : Nat) : Word := BitVec.ofNat 64 (2 ^ 63 + p * 2 ^ 48 + slot * 2 ^ 32 + tok)
/-- The core with that tree. -/
def ck : Core :=
  { withT (withH (withX cx [(8, 0), (9, 2), (10, 255), (11, 0x8000002A00000007), (12, 0)]) [(2, th 2), (3, th 3)])
      [(2, { kind := 1, fmt := 6, ext := 8 }), (3, { kind := 1, fmt := 3, base := 64, ext := 256 })] with
    tree := [(0, tn 255 40 7), (1, tn 0 41 11), (2, tn 1 42 12)] }
/-- The machine with that core. -/
def sk : State := { sx with core := ck }
set_option maxRecDepth 8000 in
theorem witness_TokenTree :
    sk.core.guard Guard.always = true ∧ sk.core.nextNode = 3 ∧ ({ ck with tree := [(255, tn 255 0 0)] } : Core).nextNode = 256 ∧
    ((sk.core.x 9).toNat % 256 = 2 ∧ (sk.core.tree.get nodeReset 2).getLsbD 63 = true ∧ (sk.core.x 10).toNat % 256 = 255 ∧ (sk.core.x 1).toNat % 256 = 6 ∧ 3 ≤ 6) ∧
    ((sk.core.x 11).getLsbD 63 = true ∧ (sk.core.x 11).toNat / 2 ^ 48 % 256 = 0 ∧ (sk.core.tree.get nodeReset 0).getLsbD 63 = true ∧ 0 < 2) ∧
    ((sk.core.x 12).getLsbD 63 = false ∧ (∀ j ∈ sk.core.nodes, (sk.core.tree.get nodeReset j).toNat / 2 ^ 48 % 256 ≠ 2) ∧
      (∃ j ∈ sk.core.nodes, (sk.core.tree.get nodeReset j).toNat / 2 ^ 48 % 256 = 0)) ∧
    ((sk.core.h 2).kind = 1 ∧ (sk.core.tile 2).kind ≠ 0 ∧ (sk.core.tile 2).own = 0 ∧ sk.core.mustPromote [2] = false ∧ (sk.core.tile 2).fmt = Fmt.mask1.code ∧
      (sk.core.tile 3).fmt = Fmt.int32.code ∧ sk.core.mustPromote [3] = false ∧ (sk.core.tree.get nodeReset 6).getLsbD 63 = false) ∧
    (∀ i ∈ [0, 1, 2], nodeParent (ck.node i) = 255 ∨ (nodeParent (ck.node i) < i ∧ ck.valid (nodeParent (ck.node i)) = true)) ∧
    (∀ i : Nat, i < 256 → ck.valid i = true → i ∈ [0, 1, 2]) := by decide

/-- A Windlass of one level whose body is entry 0 and whose prologue too, over a dictionary of one good entry; level 1 is indirect by tile 3. -/
def cwl : Core :=
  { ck with kern := { n := 1 }, dict := [(0, 0x140)],
            wl := { cfg := [(0, 0x200000000), (11, 0x10000), (12, 0x10000), (16, 0x100000D00), (27, 0x10000), (28, 0x10000)] } }
/-- The machine with that core. -/
def swl : State := { sx with core := cwl }
set_option exponentiation.threshold 512 in
theorem witness_WindlassConfiguration :
    swl.core.guard Guard.always = true ∧ ((6 : Nat) ≠ 0 ∧ swl.core.kern.n < 6) ∧ ((1 : Nat) = 0 ∨ 0 + 1 ≤ swl.core.kern.n) ∧
    (let e := swl.core.dict.get 0 0; e.getLsbD 8 = true ∧ e.getLsbD 6 = true ∧ e.getLsbD 0 = false) ∧
    (let e := ({ cwl with dict := [(0, 0x100)] } : Core).dict.get 0 0; e.getLsbD 8 = true ∧ e.getLsbD 6 = false) ∧
    ((5 : BitVec 5).toNat ≤ 13 ∧ (13 : BitVec 5).toNat ≤ 13 ∧ 15 < (16 : BitVec 5).toNat) ∧
    (∀ l : Nat, l < swl.core.wl.depth → (swl.core.wl.word l 0).getLsbD 8 = false) ∧ swl.core.wl.active = false ∧
    ({ cwl with wl := { active := true } } : Core).wl.active = true := by decide
/-- A load of X7 under way in the memory unit. -/
def busy7 : MuItem := { seq := 0, kind := .load 7, cls := 0, strong := true, va := 0x100004, width := 4, phys := [(0x20004, 4)], data := 0, ready := 9, fwd := none, pcv := 0, op := 0x50 }
/-- The Windlass machine with other configuration words. -/
def swc (l : List (Nat × Word)) : State := { swl with core := { cwl with mu := [busy7], wl := { cfg := l } } }
theorem witness_WindlassRun :
    swl.core.guard Guard.always = true ∧ (1 : BitVec 3).toNat < 6 ∧ swl.core.wl.susp = false ∧ Sparse.wf 0 swl.core.wl.cfg = true ∧
    ({ cwl with wl := { susp := true } } : Core).wl.susp = true ∧
    (((swc [(0, 0x1D)]).core.wl.cfg.get 0 0).extractLsb' 0 2 = 1 ∧ (swc [(0, 0x1D)]).core.xBusy (((swc [(0, 0x1D)]).core.wl.cfg.get 0 0).extractLsb' 2 6) = true) ∧
    ((List.range 2).filter (fun l => ((swc [(0, 0x100), (16, 0x100)]).core.wl.cfg.get 0 (16 * l)).getLsbD 8) = [0, 1]) ∧
    ((List.range 1).filter (fun l => (swl.core.wl.cfg.get 0 (16 * l)).getLsbD 8) = [] ∧ (swl.core.wl.cfg.get 0 12).extractLsb' 16 11 ≠ 0 ∧
      (swl.core.wl.cfg.get 0 11).extractLsb' 16 11 ≠ 0 ∧ (swl.core.wl.cfg.get 0 0).extractLsb' 0 2 ≠ 1) ∧
    ((swc []).core.wl.cfg.get 0 12).extractLsb' 16 11 = 0 ∧
    ((List.range 2).filter (fun l => (swl.core.wl.cfg.get 0 (16 * l)).getLsbD 8) = [1] ∧ ((swl.core.wl.cfg.get 0 16).extractLsb' 10 12).toNat = 3 ∧
      (swl.core.tile 3).kind ≠ 0 ∧ (swl.core.tile 3).own = 0 ∧ (swl.core.tile 3).fmt = Fmt.int32.code ∧ (swl.core.wl.cfg.get 0 28).extractLsb' 16 11 ≠ 0) := by decide

/-- A replay of two levels with a template of one entry each, at a position. -/
def wrep (level tpl entry wc0 wc1 : Nat) (stop : Bool) : Wl :=
  { depth := 2, active := true, level := level, tpl := tpl, entry := entry, stop := stop, trips := #v[2, 1, 0, 0, 0, 0], wc := #v[wc0, wc1, 0, 0, 0, 0],
    cap := [(11, 0x10000), (12, 0x20001), (13, 0x10003), (16, 0x100), (27, 0x10004), (28, 0x10005), (29, 0x10006)] }
theorem witness_ReplayOrder :
    (∀ w ∈ [wrep 0 0 0 0 0 false, wrep 0 1 1 0 0 false, wrep 0 1 2 0 0 false, wrep 1 1 5 0 0 false, wrep 1 2 6 0 0 false, wrep 0 2 3 2 0 false, wrep 0 0 0 0 0 true],
      w.depth ≤ 6 ∧ w.level < w.depth ∧ ∀ l : Nat, l < 2 → ∀ k : Nat, k < 3 → w.tplLen l k ≠ 0) ∧
    (let c : Core := { ck with wl := { wrep 1 1 5 0 0 false with itile := some 3 } };
      c.wl.active = true ∧ c.wl.ind = some 1 ∧ c.wl.itile = some 3 ∧ c.wl.seen ≠ some (c.wl.count 1) ∧ c.wl.look = none ∧ Sparse.wf {} c.tiles = true) ∧
    (let s : State := { sk with core := { ck with wl := { wrep 1 1 5 0 0 false with look := some (0, 7), fin := true } } };
      s.core.wl.look = some (0, 7) ∧ 0 ≤ s.cycle ∧ s.core.wl.active = true ∧ s.core.wl.fin = true) := by decide

/-- 07's example: tiles 0x100 and 0x101 CONST FP32 1.5 and 2.25, tile 0x102 STORED FP32; RP0, RP1 and WP0 walk their rows. -/
def walkOf (t : Nat) : Handle := BitVec.ofNat 256 (2 * 2 ^ 252 + t * 2 ^ 232 + 2 ^ 16 + 16)
/-- The core of that example. -/
def cv : Core :=
  let p (t : Nat) : Port := { bound := true, walk := walkOf t }
  { withT ch [(0x100, { kind := 3, fmt := 12, val := 0x3FC00000 }), (0x101, { kind := 3, fmt := 12, val := 0x40100000 }),
      (0x102, { kind := 1, fmt := 12, base := 0, ext := 256 }), (0x202, { kind := 1, fmt := 14, base := 512, ext := 64 })] with
    ports := #v[p 0x100, p 0x101, p 0x200, {}, {}, {}, {}, {}, p 0x102, {}, {}, {}] }
/-- The machine with that core. -/
def sv : State := { sx with core := cv }
/-- The operation of that example: `vadd.f32 wp0, rp0, rp1`, by rows. -/
def vex : VArgs := { va with fmt := 12, sb := 1 }
theorem witness_VectorOperations :
    sv.core.guard vex.g = true ∧ (∃ n, (Instr.vadd vex).vInfo = some n ∧ n.v = vex ∧ n.n = 2 ∧ n.rows = 1 ∧ n.mask = 0 ∧ n.sf.width = 32 ∧ n.rf.width = 32) ∧
    (sv.core.port 0).bound = true ∧ sv.core.designate 0 1 = [(0x100, 0)] ∧ (sv.core.port 1).bound = true ∧ sv.core.designate 1 1 = [(0x101, 0)] ∧
    (sv.core.port 8).bound = true ∧ sv.core.designate 8 1 = [(0x102, 0)] ∧
    (∀ t ∈ [0x100, 0x101, 0x102], (sv.core.tile t).kind ≠ 0 ∧ (fmtOf (sv.core.tile t).fmt).width = 32 ∧ (sv.core.tile t).rpc = 0) ∧
    ((sv.core.port 2).bound = true ∧ sv.core.designate 2 1 = [(0x200, 0)] ∧ (sv.core.tile 0x200).kind = 0 ∧ (sv.core.port 9).bound = false) ∧
    (fmtOf (sv.core.tile 0x100).fmt).width ≠ 16 := by
  refine ⟨by decide, ⟨_, rfl, rfl, rfl, rfl, rfl, rfl, rfl⟩, by decide, by decide, by decide, by decide, by decide, by decide, by decide, by decide, by decide⟩
theorem witness_VectorOperations_member : (Instr.vadd) ∈ vectorOps ∧ Instr.dcvtFrom ∈ vectorOps := by simp [vectorOps]
theorem witness_VectorResultValues :
    (List.replicate 64 ((1 : Nat), 1, 1)).length = 64 * 1 ∧ 63 < 64 * 1 ∧ (fmtOf 0).isInt = true ∧ (fmtOf 12).isInt = false ∧ (List.replicate 1024 ((1 : Nat), 1, 1)).length = 64 * 16 := by
  refine ⟨List.length_replicate, by decide, by decide, by decide, List.length_replicate⟩

/-- A result of `vadd.f32` in flight: a row of 3.75 for row 0 of tile 0x102, or discarded; and one of DEC64 whose element 1 is inexact. -/
def vres (i : Instr) (d : VDest) (fl : Flags) : VecOp :=
  { i := i, mode := 0, dest := d, from_ := 0, aux := 0, ops := List.replicate 64 (0, 0, 0), res := (0x40700000, 0) :: (0x40700000, fl) :: List.replicate 62 (0x40700000, 0), read := 0, sum := none }
/-- The machine with that result due. -/
def svr (i : Instr) (d : VDest) (fl : Flags) : State :=
  { sv with core := { cv with r := { cv.r with excmask := 0x1F1F }, flight := [{ due := 0, seq := 0, slot := 1, w := .vec (vres i d fl) }] } }
theorem witness_VectorResultsLand :
    (∀ d ∈ [VDest.discard, .rows [(0x102, 0)]],
      let s := svr (.vadd vex) d 0
      s.core.flight.filter (fun q => decide (q.due ≤ s.cycle)) = [{ due := 0, seq := 0, slot := 1, w := .vec (vres (.vadd vex) d 0) }] ∧ (Instr.vadd vex).vInfo.isSome = true ∧
      (∀ x ∈ (vres (.vadd vex) d 0).res, offends (s.core.r.enables (vres (.vadd vex) d 0).trapCode) x.2 = false) ∧ (vres (.vadd vex) d 0).res.length = 64 ∧
      (s.core.tile 0x102).kind = 1 ∧ (s.core.tile 0x102).own = 0 ∧ (∀ x ∈ (vres (.vadd vex) d 0).res, x.1 < 2 ^ 32) ∧ Sparse.wf 0 s.core.sp = true ∧ Sparse.wf {} s.core.tiles = true) ∧
    (∀ d ∈ [VDest.discard, .rows [(0x202, 15)]],
     let s := svr (.dadd { va with fmt := 14 }) d 0x10
     let op := vres (.dadd { va with fmt := 14 }) d 0x10
     op.res.length = 64 ∧ (s.core.tile 0x202).kind = 1 ∧ (s.core.tile 0x202).own = 0 ∧ (∀ x ∈ op.res, x.1 < 2 ^ (fmtOf (s.core.tile 0x202).fmt).width) ∧ s.core.task.phase = .running ∧ offends (s.core.r.enables op.trapCode) (op.res.getD 1 (0, 0)).2 = true ∧ offends (s.core.r.enables op.trapCode) (op.res.getD 0 (0, 0)).2 = false) := by decide
theorem witness_VectorResultsLand_handler : Handles (svr (.dadd { va with fmt := 14 }) .discard 0x10).core 0x40 :=
  ⟨rfl, by decide, by decide, running_not_ending _ rfl⟩

/-- A core whose slots 0 to 4 are claimed, tile 0x31 STORED FP32, routine 0 of the library called. -/
def cm : Core :=
  { withT ch [(0x41, { kind := 1, fmt := 12, base := 0, ext := 256 }), (0x42, { kind := 1, fmt := 12, base := 256, ext := 256 })] with
    r := { ch.r with ma := (ch.r.ma.set 1 0x401).set 2 0xC040 }, omd := (List.range 5).map (fun k => (k, ({ clm := true } : Omd))) }
/-- The machine with that core, and with the matrix unit in another state. -/
def smx (m : Mat) : State := { sx with cycle := 10, core := { cm with mat := m } }
/-- A queued routine. -/
def callx (tag : Bool) : Call := { rix := 0, ma := Vector.replicate 8 0, tag := tag, tiles := [0x41], slots := [0, 1, 2, 3, 4], issued := 0, seq := 0 }
theorem witness_MatrixOperations :
    (smx {}).core.guard Guard.always = true ∧ ((smx {}).core.r.prot = false ∧ (smx {}).core.r.chk = false) ∧ (smx { fault := some (5, 1, 2, 1, 3) }).core.mat.fault = some (5, 1, 2, 1, 3) ∧ (smx {}).core.mat.fault = none ∧
    ((∀ j ∈ [5, 63], ((smx {}).core.omd.get {} j).clm = false) ∧ (∀ j ∈ [0, 4], ((smx {}).core.omd.get {} j).clm = true)) ∧
    ((smx {}).core.mat.ended.1 ≠ (smx {}).cycle ∧ (smx {}).core.mat.queue.length ≤ 0 ∧ 0 < (smx { queue := [callx true] }).core.mat.queue.length ∧
      (∃ q ∈ (smx { queue := [callx true] }).core.mat.queue, q.tag = true) ∧ ∀ q ∈ (smx { queue := [callx false] }).core.mat.queue, q.tag = false) ∧
    ((smx {}).core.routine 63 = none) := by decide
theorem witness_MatrixOperations_call :
    ∃ r, (smx {}).core.routine 0 = some r ∧ r.slots ((smx {}).core.callMa 4 0x41) = [0, 1, 2, 3, 4] ∧
      (∀ j ∈ r.slots ((smx {}).core.callMa 4 0x41), j < 64 ∧ ((smx {}).core.omd.get {} j).clm = true) ∧
      r.tiles 0 ((smx {}).core.callMa 4 0x41) = [(0x41, 12)] ∧ (smx {}).core.badOut [(0x41, 12)] = none ∧ (smx {}).core.mustPromote [0x41] = false ∧
      (smx {}).core.mat.queue.length < 4 ∧ (smx {}).core.badOut [(0x43, 12)] = some (0x43, 2) := by
  refine ⟨_, rfl, by decide, by decide, by decide, by decide, by decide, by decide, by decide⟩
/-- A row at the partial-sum port, of FP32, and the immediate as its scale. -/
theorem witness_MatrixOperations_scale :
    (8 ≤ (9 : BitVec 4).toNat ∧ ((9 : BitVec 4) = 9 ∨ (9 : BitVec 4) = 10 ∨ (9 : BitVec 4).toNat < 8)) ∧ (smx {}).core.mat.psRow = none ∧
    (smx { psRow := some (12, 0, List.replicate 64 0, List.replicate 64 true), windows := [(10, 11)] }).core.mat.psRow.isSome = true ∧
    (∃ w ∈ (smx { windows := [(10, 11)] }).core.mat.windows, w.1 ≤ 10 ∧ 10 < w.2) ∧ 12 ≠ (3 : BitVec 5).toNat := by decide

/-- A running routine, its sequencer at a word. -/
def smr (f : Mat → Mat) : State := smx (f { queue := [callx false], running := true, upc := 3, seqAt := 10 })
/-- A latch of a ZERO slot, and one of INT8. -/
def lz (k fmt : Nat) : Latch := { kind := k, exc := false, fmt := fmt, words := [] }
theorem witness_MicroWords :
    ((smx {}).core.mat.call = none) ∧ (smr id).core.mat.call = some (callx false) ∧ (smr id).core.mat.seqAt ≤ (smr id).cycle ∧
    ((smr fun m => { m with seqAt := 11 }).cycle < (smr fun m => { m with seqAt := 11 }).core.mat.seqAt) ∧
    (0 ∈ (callx false).slots ∧ (∀ i : Nat, i < 4 → 1 + i ∈ (callx false).slots ∧ 1 + i < 64) ∧ 63 ∉ (callx false).slots) ∧ (smr id).core.badWords = [] ∧
    ((lz 2 0).suits (modeA 0) = true ∧ (∀ l ∈ fillB 0 [], l.suits (modeB 0) = true) ∧ (fillB 0 []).length = modeN 0 ∧ (smr id).core.mat.accOf 0 0 % modeC 0 = 0 ∧ (smr id).core.mat.clash 0 0 = false ∧ (smr id).core.mat.psMode = false) ∧
    ((smr fun m => { m with arrayFree := 11 }).cycle < (smr fun m => { m with arrayFree := 11 }).core.mat.arrayFree ∧ ¬ (smr id).cycle < (smr id).core.mat.arrayFree) ∧
    (lz 1 12).suits (modeA 0) = false ∧ ((0 + 1) % 65536 < (smr id).core.mat.loopCount 0 false 0 2 ∧ (smr id).core.mat.loopCount 0 false 0 1 ≤ (0 + 1) % 65536) ∧
    ((smr id).core.mat.idle 10 = true ∧ (smr fun m => { m with outq := [.clear 1] }).core.mat.idle 10 = false) ∧ Sparse.wf {} (smr id).core.tiles = true := by decide

/-- A block due at cycle 10, at the array or at the port. -/
def blk (ps : Bool) (skip : Bool) : Block := { due := 10, acc := 0, mode := 2, a := lz 2 0, b := List.replicate 8 (lz 2 0), ps := ps, row := 0, skip := skip, ahead := 0, uaddr := 0 }
theorem witness_MatrixEngines :
    ((smx {}).core.mayStart 10 = false ∧ (smx { queue := [callx false] }).core.mayStart 10 = true) ∧ (smx {}).core.mat.dueBlock 10 false = none ∧
    (∀ k ∈ [blk false false, blk false true], let m := (smx { blocks := [k] }).core.mat;
      m.dueBlock 10 false = some k ∧ m.updateWaits k = false ∧ (smx {}).core.badWords = [] ∧ Sparse.wf 0 m.acc = true ∧ k.acc + modeC k.mode ≤ 4) ∧
    (let m := (smx { blocks := [blk true false] }).core.mat; m.psRow = none ∧ m.dueBlock 10 true = some (blk true false) ∧ m.updateWaits (blk true false) = false) ∧
    ((List.replicate 64 (0 : Nat)).length = 64 ∧ (63 : Nat) < 64 ∧ (smx {}).core.mat.psRow = none ∧ (smx {}).core.mat.dueBlock 10 true = none) ∧
    (let m := (smr fun m => { m with outq := [.out 0 1 0x41 0 false false 12 true 3], outRow := 15, types := #v[1, 0, 0, 0] }).core.mat;
      m.outReady 10 = some (.out 0 1 0x41 0 false false 12 true 3) ∧ m.call = some (callx false) ∧ (cm.tile 0x41).kind = 1 ∧ (cm.tile 0x41).rpc = 0 ∧ (cm.tile 0x41).fmt = 12 ∧ 0x41 ∈ (callx false).tiles ∧
      (Fmt.ofCode 12).isSome = true ∧ outSuits 1 12 = true ∧ m.outRow + 1 = 16 * 1 ∧ Sparse.wf 0 cm.sp = true ∧ Sparse.wf {} cm.tiles = true ∧
      (∀ i : Nat, i < 64 → (outElem 1 12 false 0 (m.acc.get 0 (0 * 1024 + 64 * 15 + i)).toNat).1 < 2 ^ 32)) ∧
    ((smr fun m => { m with outq := [.clear 1] }).core.mat.outReady 10 = some (.clear 1) ∧ (smr fun m => { m with outq := [.scale 15 (-3)] }).core.mat.outReady 10 = some (.scale 15 (-3)) ∧
      (smr fun m => { m with outq := [.sig 0x41 7] }).core.mat.outReady 10 = some (.sig 0x41 7)) := by decide
/-- The matrix core with TILE handles H1 and H2 of its two tiles, and a staging set 0 that asks for 16 rows; H3 a weak VIEW of an object that is
gone. -/
def cp : Core :=
  { withH cm [(1, th 0x41), (2, th 0x42), (3, BitVec.ofNat 256 (5 * 2 ^ 252 + 31 * 2 ^ 224 + 4 * 2 ^ 96 + 9 * 2 ^ 64))] with
    r := { (withH cm [(1, th 0x41), (2, th 0x42), (3, BitVec.ofNat 256 (5 * 2 ^ 252 + 31 * 2 ^ 224 + 4 * 2 ^ 96 + 9 * 2 ^ 64))]).r with stg := cm.r.stg.set 3 16 },
    ocache := [9] }
/-- The object machine with that core. -/
def sp : State := { so with core := cp }
/-- `pcopy ch=0, hs=h1, hd=h2`, and the same from the VIEW. -/
def pc1 : PArgs := { pa with hs := 1, hd := 2 }
/-- From the VIEW of H3. -/
def pc3 : PArgs := { pa with hs := 3, hd := 2 }
/-- The sides of that command. -/
def sd (t : Nat) : Side := { e := .tile t 0, fmt := some 12 }
/-- What that command asks for. -/
def ask1 : PumpAsk := { op := 0, p := pc1, s0 := 0, s1 := 0, s2 := 0, s3 := 16, src := sd 0x41, dst := sd 0x42, fs := some 12, fd := some 12 }
theorem witness_PumpCommandsAccepted :
    (Instr.pcopy, 0) ∈ pumpOps ∧ sp.core.guard pc1.g = true ∧ Plain sp ∧ (sp.core.chan 0).fault = none ∧ (sp.core.chan 0).full sp.cycle = false ∧
    sp.sideOf pc1.sk pc1.hs (sp.core.staged pc1 0) 0 true true = some (sd 0x41) ∧ sp.sideOf pc1.dk pc1.hd (sp.core.staged pc1 1) 0 true true = some (sd 0x42) ∧
    Usable sp (sd 0x42) true ∧ Usable sp (sd 0x41) false ∧ FmtKnown sp 0 (sd 0x41) none (some 12) ∧ FmtKnown sp 0 (sd 0x42) none (some 12) ∧
    (sp.core.staged pc1 2 = 0 ∧ sp.core.staged pc1 3 = 16 ∧ pc1.cv = false ∧ ask1.shape = ask1 ∧ ask1.n = 16 ∧ ask1.copies = 1 ∧ ask1.dist = 0 ∧ ask1.indexed = false) ∧
    FormatsSuit ask1 12 12 ∧ RegionsHold ask1 12 12 ∧ ReduceOk sp ask1 12 ∧ (sd 0x41).tiles 16 1 0 = [0x41] ∧ (sd 0x42).tiles 16 1 0 = [0x42] ∧
    ((sp.core.tile 0x41).kind ≠ 0 ∧ (sp.core.tile 0x42).kind ≠ 0 ∧ (fmtOf (sp.core.tile 0x42).fmt).width = (fmtOf 12).width) ∧
    Unheld sp.core 0 0x41 ∧ Unheld sp.core 0 0x42 ∧ sp.core.mustPromote [0x42] = false := by
  refine ⟨by simp [pumpOps], by decide, ⟨by decide, by decide⟩, by decide, by decide, by decide, by decide, ?_, ?_, rfl, rfl, by decide, ?_, ?_, ?_, by decide, by decide,
    by decide, ⟨by decide, by decide, by decide, by decide⟩, ⟨by decide, by decide, by decide, by decide⟩, by decide⟩
  · intro h e; cases e
  · intro h e; cases e
  · exact ⟨by decide, by decide, by decide, by decide, by decide⟩
  · exact ⟨by decide, by decide, by decide⟩
  · intro h; cases h
/-- Into the VIEW of H3. -/
def pc4 : PArgs := { pa with hs := 1, hd := 3 }
theorem lost_of {x : Side} {h : Handle} (e : x.view = some h) (v : h.vfmt = 31) (o : sp.oidOk h.oid = true) (k : sp.core.ocache.contains h.oid = true)
    (w : h.str = false) (g : ¬ (h.gen = (sp.objEntry h.oid).gen ∧ (sp.objEntry h.oid).state = 1)) : Lost sp x := ⟨h, e, Or.inl v, o, k, w, g⟩
/-- The source is a gone VIEW and the destination a tile; the source a tile and the destination a gone VIEW. -/
theorem witness_PumpCommandsAccepted_gone :
    (∃ x, sp.sideOf pc3.sk pc3.hs (sp.core.staged pc3 0) 0 true true = some x ∧ Lost sp x ∧ Usable sp (sd 0x42) true ∧ FmtKnown sp 0 (sd 0x42) none (some 12)) ∧
    (∃ y, sp.sideOf pc4.dk pc4.hd (sp.core.staged pc4 1) 0 true true = some y ∧ Lost sp y ∧ Usable sp (sd 0x41) false ∧ FmtKnown sp 0 (sd 0x41) none (some 12) ∧
      sp.sideOf pc4.sk pc4.hs (sp.core.staged pc4 0) 0 true true = some (sd 0x41)) := by
  refine ⟨⟨(sp.sideOf 0 3 0 0 true true).getD (sd 0), by decide, ?_, (by intro h e; cases e), rfl⟩,
    ⟨(sp.sideOf 0 3 0 0 true true).getD (sd 0), by decide, ?_, (by intro h e; cases e), rfl, by decide⟩⟩ <;>
  exact lost_of (h := sp.core.h 3) (by decide) (by decide) (by decide) (by decide) (by decide) (by decide)
theorem witness_PumpReportsAndMarkers :
    (Instr.pinvm, 6) ∈ ((Instr.pinvm, 6) :: pumpOps) ∧ sp.core.guard pa.g = true ∧ Plain sp ∧
    (let c : Core := { cp with chans := Vector.replicate 8 { fault := some { code := 4, addr := 0, reason := 0, op := 0 } } }; (c.chan 0).fault.isSome = true) ∧
    (let c : Core := { cp with chans := Vector.replicate 8 { queue := List.replicate 16 { seq := 0, op := 0 } } }; (c.chan 7).fault = none ∧ (c.chan 7).full 10 = true) ∧
    ((sp.core.chan 0).fault = none ∧ (sp.core.chan 0).full sp.cycle = false ∧ sp.sideOf 0 0 (sp.core.staged pa 0) 0 true true = none ∧
      (sp.sideOf 0 1 (sp.core.staged pa 0) 0 true true).isSome = true) := by
  refine ⟨List.mem_cons_self, by decide, ⟨by decide, by decide⟩, by decide, by decide, by decide⟩

/-- A machine whose channel 0 holds one command or marker at its head. -/
def spq (k : PumpCmd) (adv : List (Nat × Nat)) : State :=
  { sp with cycle := 10, core := { cp with hold := { walk := some (0x100, 10) }, chans := Vector.replicate 8 { queue := [k], adv := adv } } }
/-- The PCOPY between the two tiles, begun, at its last row; and one whose object is gone. -/
def kc : PumpCmd := { seq := 0, op := 0, src := .tile 0x41 0, dst := .tile 0x42 0, fs := 12, fd := 12, nr := 16, begun := true, pos := 15, tiles := [0x41, 0x42], wtiles := [0x42] }
theorem witness_PumpMovesRows :
    Plain (spq kc []) ∧ (spq kc []).core.head 0 = some kc ∧ (spq kc []).core.pumpReady 10 0 = true ∧ (spq { kc with ready := 11 } []).core.pumpReady 10 0 = false ∧
    (kc.begun = true ∧ kc.gone = false ∧ kc.follow = false ∧ kc.op = 0 ∧ kc.fs = kc.fd ∧ kc.buf = [] ∧ kc.pos < kc.nr ∧ kc.copies ≠ 0) ∧
    ({ kc with begun := false, nr := 0 } : PumpCmd).nr = 0 ∧ ({ kc with gone := true } : PumpCmd).gone = true ∧ (spq { kc with gone := true } []).core.pumpReady 10 0 = true ∧
    (spq { kc with begun := false, nr := 0 } []).core.pumpReady 10 0 = true ∧
    (let c := (spq kc []).core; c.badWords = [] ∧ c.rowBusy 0x41 15 = false ∧ c.rowBusy 0x42 15 = false ∧ (c.tile 0x42).kind = 1 ∧ (c.tile 0x42).fmt = kc.fd ∧
      (∀ v ∈ c.tileRow 0x41 15, v < 2 ^ (fmtOf kc.fd).width) ∧ (c.tileRow 0x41 15).length = 64 ∧ Sparse.wf 0 c.sp = true ∧ Sparse.wf {} c.tiles = true) := by
  refine ⟨⟨by decide, by decide⟩, by decide, by decide, by decide, by decide, by decide, by decide, by decide, by decide, by decide⟩
theorem witness_PumpCommandsEnd :
    Plain (spq kc []) ∧ Sparse.wf {} (spq kc []).core.tiles = true ∧ (sp.core.chan 0).queue = [] ∧ ((spq kc []).core.chan 0).queue = [kc] ∧
    (let k : PumpCmd := { kc with fin := true, ready := 10 }; k.fin = true ∧ k.marker = none ∧ k.ready ≤ (spq k []).cycle ∧ ((spq k []).core.chan 0).adv = []) ∧
    kc.fin = false ∧ kc.bad = none ∧ ({ kc with bad := some { code := 4, addr := 0, reason := 0, op := 0 } } : PumpCmd).bad.isSome = true ∧
    (let k := markerCmd 0 0x100 1 []; k.marker = some (0x100, 1, []) ∧ k.begun = false ∧ k.issued < (spq k []).cycle ∧ ({ k with begun := true } : PumpCmd).begun = true) ∧
    (sp.core.hold.walk = none ∧ (spq kc []).core.hold.walk = some (0x100, 10) ∧ 10 ≤ (spq kc []).cycle ∧ 0x100 ∉ (spq kc []).core.tlb ∧
      ({ spq kc [] with cycle := 9 } : State).cycle < 10) := by
  refine ⟨⟨by decide, by decide⟩, by decide, by decide, by decide, by decide, by decide, by decide, by decide, by decide, by decide⟩
/-- The mapped machine with its task on core 0, and with a page of the space on its way from the old leaf. -/
def smt : State := { sm with core := ch }
/-- A move of page 0x100 under way. -/
def mv1 : Move := { va := 0x100000, key := pteKey 4 0x100000, n := 1, leaf := mkLeaf true 0 1 0 0x20 2 none, frame := 0x40, tier := 0 }
/-- The same machine while page 0x100 is being moved. -/
def smv : State := { smt with spaces := [(0, { sp1 with moving := [mv1] })] }
/-- The same where the page's object is GONE. -/
def smg : State := { smt with spaces := [(0, { sp1 with moving := [{ mv1 with leaf := mkLeaf true 0 1 0 0x20 2 (some 9) }], objs := [(9, { state := 2, gen := 1 })] })] }
/-- The mapped machine with a reserved target at 0x100000. -/
def sma : State := { smt with accs := [{ job := 0, va := 0x100000, pa := 0x20000, fmt := 0, sum := 0, nan := false, snan := false, pinf := false, ninf := false, negz := false }] }
/-- The mapped machine with a fault on page 0x200, which serves a load, and a store that the sump may hold. -/
def smf (l : List Sump) : State := { smt with core := { ch with sump := l }, faults := [{ asid := 0, va := 0x200010, kind := .load, core := 0, cls := 3, job := 0, who := [(0, some 0)] }] }
/-- A machine with a COW object of a page at 0x180000 that is mapped with W = 0. -/
def smc (strong : Nat) : State :=
  { smt with spaces := [(0, { sp1 with objs := [(9, { state := 1, strong := strong, cow := true, pages := 1, base := 0x180000, tier := 1, write := true, ro := true, onDie0 := 1 })] })] }
/-- A machine whose tier 1 of die 0 has few free pages, and one object that may be reclaimed. -/
def sdr (free : Nat) : State :=
  { sm with spaces := [(0, { sp1 with objs := [(9, { state := 1, weak := 1, pages := 4, base := 0x180000, tier := 1, onDie0 := 4 })] })], freePages := #v[262144, free, 0, 262144, 18874368, 0] }
theorem witness_EntryChanges :
    (0, sp1) ∈ smt.spaces ∧ (∀ u ∈ smt.unc, u.2 ≠ 64) ∧ smt.coresIn 0 ≠ [] ∧
    grants ((smt.space 0).standing 4 0x200000) ((smt.space 0).cowMask (mkLeaf true 0 1 0 0x30 2 none)) = true ∧
    grants ((smt.space 0).standing 4 0x100000) ((smt.space 0).cowMask (mkLeaf true 0 1 0 0x30 2 none)) = false ∧
    pteV ((smt.space 0).standing 4 0x100000) = true ∧ pteV ((smt.space 0).standing 4 0x200000) = false ∧
    smt.reserved 0 (levelPage 4 0x100000) (levelPages 4) = false ∧ sma.reserved 0 (levelPage 4 0x100000) (levelPages 4) = true := by
  refine ⟨List.mem_cons_self, by decide, by decide, by decide, by decide, by decide, by decide, by decide, by decide⟩
theorem witness_FaultDeclarations :
    (let on (f : FaultRec) : Bool := f.asid == 0 && f.va / 4096 == 0x200;
      smt.faults.find? on = none ∧ (∃ f, (smf []).faults.find? on = some f ∧ (0, some 0) ∈ f.who) ∧ (∀ e ∈ (smf []).core.sump, e.seq ≠ 0) ∧
      ∃ e ∈ (smf [en 0x200010 none]).core.sump, e.seq = 0) ∧
    (∃ e, (smt.space 0).leaf none 0x100000 = some (e, 12) ∧ pteObjv e = false) ∧ (smt.space 0).leaf none 0x200000 = none ∧
    (∀ k ∈ [1, 2], ∃ e, ((smc k).space 0).leaf none 0x180000 = some (e, 12) ∧ pteObjv e = true ∧ pteW e = false ∧ (((smc k).space 0).objs.get {} (pteOid e)).cow = true ∧
      (((smc k).space 0).objs.get {} (pteOid e)).strong = k ∧ (∃ x, (0, x) ∈ (smc k).spaces) ∧ (∀ u ∈ (smc k).unc, u.2 ≠ 64) ∧ (smc k).coresIn 0 ≠ []) := by
  refine ⟨⟨by decide, ⟨_, rfl, by decide⟩, by decide, by decide⟩, ⟨_, rfl, by decide⟩, by decide, ?_⟩
  intro k hk
  simp only [List.mem_cons, List.mem_nil_iff, or_false] at hk
  rcases hk with rfl | rfl <;> exact ⟨_, rfl, by decide, by decide, by decide, by decide, ⟨_, List.mem_cons_self⟩, by decide, by decide⟩
theorem witness_PageMoves :
    (∃ x, (0, x) ∈ smv.spaces) ∧ (smt.space 0).leaf none 0x200000 = none ∧
    (∃ e, (smt.space 0).leaf none 0x100010 = some (e, 12)) ∧ (smt.space 0).moveOf 0x100010 = none ∧ smt.reserved 0 (0x100000 / 4096) 1 = false ∧
    sma.reserved 0 (0x100000 / 4096) 1 = true ∧ (smv.space 0).moveOf 0x100010 = some mv1 ∧ Memory.wf smv.mem = true ∧ (smv.space 0).moveDead mv1 = false ∧
    (∃ j, smv.job (0 % 2 ^ 32) = some j ∧ j.asid = 0) ∧ (∃ m, (smg.space 0).moveOf 0x100010 = some m ∧ (smg.space 0).moveDead m = true) := by
  refine ⟨⟨_, List.mem_cons_self⟩, by decide, ⟨_, rfl⟩, by decide, by decide, by decide, by decide, by decide, by decide, ⟨_, rfl, rfl⟩, ⟨_, rfl, by decide⟩⟩
theorem witness_Reclaim :
    (262144 : Nat) ≤ (sdr 300000).freePages.toList.getD 1 0 ∧ (sdr 1000).freeLo.toList.getD 1 0 ≠ 0 ∧ (sdr 1000).freePages.toList.getD 1 0 < (sdr 1000).freeHi.toList.getD 1 0 ∧
    (sdr 1000).eligible (some 0) 1 = [(0, 9, { state := 1, weak := 1, pages := 4, base := 0x180000, tier := 1, onDie0 := 4 })] ∧
    ((sdr 1000).space 0).objs.get {} 9 = { state := 1, weak := 1, pages := 4, base := 0x180000, tier := 1, onDie0 := 4 } ∧ Sparse.wf {} ((sdr 1000).space 0).objs = true := by decide

/-- A space with a kernel whose entry is at 0x40, a queue of 16 records with one posted, of KID 1, one task, GANG 1, whose ARGVA and JSVA are mapped. -/
def kd : KDesc := { text := 0x100000, entry := 0x20, handler := none, l1cfg := 2, skip := false, excmask := 0, dict := [], rtns := [] }
/-- The record's words. -/
def ring : Sparse Word := [(1, 0x100000001), (2, 0x100000), (3, 1), (4, 0x100040)]
/-- The machine with that queue; `cnt` records posted. -/
def sl (cnt : Nat) (r : Sparse Word) : State :=
  { sm with spaces := [(0, { sp1 with kernels := [kd] })],
            host := { queues := [(0, { cfg := 0x8000000000070004, head := BitVec.ofNat 64 cnt })], bar2 := r, status := 1 } }
theorem witness_LaunchRecordTaken :
    (let l := (sl 0 ring).host.queues.get {} 0; ¬ (l.cfg.getLsbD 63 = true ∧ l.cfg.getLsbD 62 = false ∧ l.tail ≠ l.head)) ∧
    (let l := (sl 1 ring).host.queues.get {} 0; l.cfg.getLsbD 63 = true ∧ l.cfg.getLsbD 62 = false ∧ l.tail ≠ l.head ∧ (sl 1 ring).host.old = []) ∧
    (sl 1 ring).launchReason 0 ((List.range 8).flatMap (fun i => leBytes 8 (ring.get 0 i).toNat)) 7 false = 0 ∧
    (sl 1 []).launchReason 0 ((List.range 8).flatMap (fun i => leBytes 8 (Sparse.get (0 : Word) [] i).toNat)) 7 false ≠ 0 ∧
    (∃ j, (sl 1 ring).job 0 = some j ∧ j.posted = []) ∧ (sl 1 ring).job 1 = none ∧
    (let s : State := { sl 1 ring with jobs := [(0, { job1 with posted := [(0x100080, 7)] })] }; ∃ j, s.job 0 = some j ∧ j.posted = [(0x100080, 7)] ∧ (s.readVa j.asid 0x100080 64).isSome = true) := by
  refine ⟨by decide, by decide, by decide, by decide, ⟨_, rfl, rfl⟩, by decide, ⟨_, rfl, rfl, by decide⟩⟩

/-- A record of a state for core 0 of well 0, KID 1, GSIZE 1, job 0; and the machine that holds it as record 0 of die 0. -/
def rec (st : Nat) : BitVec 512 := recPut (recPut (recPut (recPut 0 0 4 st) 44 4 1) 52 12 1) 320 16 1
/-- The machine with that record. -/
def srec (st : Nat) : State := { sl 0 ring with slots := [(0, rec st)] }
set_option exponentiation.threshold 1024 in
set_option maxRecDepth 8000 in
theorem witness_DispatchAndBinding :
    (∀ st ∈ [0, 1, 2, 3, 4, 5, 6, 7, 8], recState ((srec st).record 0 0) = st) ∧
    ((srec 1).bindable 0 0 = true ∧ ((srec 1).space (recAsid (rec 1))).kernels[recKid (rec 1) - 1]? = some kd ∧ recRes (rec 1) = false ∧ recProt (rec 1) = false ∧
      recCores 0 (rec 1) = [0]) ∧
    ((srec 5).bindable 0 0 = false ∧ (srec 5).victimsOf 0 0 = []) ∧ recDet (rec 2) = false := by decide
/-- The machine whose core is in a phase, in a task of record 0. -/
def sph (ph : Phase) (d : Option Nat) : State := { srec 2 with core := { ch with task := { phase := ph, job := 0, task := 0, saveAt := d } } }
set_option exponentiation.threshold 1024 in
set_option maxRecDepth 8000 in
theorem witness_HaltSaveAndEnd :
    (let s := { sx with core := { ch with task := { phase := .running, preempt := some 0 } } }; s.core.task.preempt = some 0 ∧ (0 : Nat) ≤ s.cycle) ∧
    ((∀ x, (sph .running none).core.task.phase ≠ .saving x) ∧ (sph (.saving 0) none).core.task.phase = .saving 0 ∧ (sph (.saving 0) none).core.task.saveAt = none) ∧
    ((sph (.saving 0) (some 0)).core.task.saveAt = some 0 ∧ (0 : Nat) ≤ (sph (.saving 0) (some 0)).cycle ∧ (sph (.saving 0) (some 0)).taskCores = [0]) ∧
    ((sph .running none).taskOver = false) ∧
    ((sph (.ending true 7 9 true) none).taskOver = true ∧ (sph (.ending true 7 9 true) none).taskCores = [0] ∧
      (sph (.ending false 0 9 false) none).taskOver = true ∧ (sph (.ending false 0 9 false) none).core.lateCause = none) := by
  refine ⟨⟨rfl, by decide⟩, ⟨fun x => by simp [sph], rfl, rfl⟩, ⟨rfl, by decide, by decide⟩, by decide, by decide⟩
/-- The smallest file the loader takes: a header without sections or kernels. -/
def tof : List Byte := [0x54, 0x4F, 0x46, 0x01, 1, 0, 1] ++ List.replicate 25 0
/-- A ready machine with a free mailbox, that file at 0x100000 of space 0, and queue 0 VALID. -/
def sh : State :=
  { sm with host := { status := 1, queues := [(0, { cfg := 0x8000000000070004 })] },
            mem := [(0x20000, 0x54), (0x20001, 0x4F), (0x20002, 0x46), (0x20003, 0x01), (0x20004, 1), (0x20006, 1)] }
/-- The same without a job, and with a job that is done. -/
def shn : State := { sh with jobs := [] }
theorem witness_MailboxCommands :
    (sm.host.status.getLsbD 0 = false ∧ sh.host.status.getLsbD 0 = true ∧ sh.host.mbxstat.getLsbD 0 = false ∧
      ({ sh.host with mbxstat := 1 } : HostIf).mbxstat.getLsbD 0 = true) ∧
    (sh.spaces.length < 65536 ∧ (∃ e ∈ sh.jobs, e.2.asid = 0 ∧ e.2.done = false) ∧ ¬ (∃ e ∈ shn.jobs, e.2.asid = 0 ∧ e.2.done = false) ∧
      (∃ x, (0, x) ∈ shn.spaces) ∧ ∀ e ∈ shn.spaces, e.1 ≠ 1) ∧
    (sh.hasSpace 0 = true ∧ sh.readVa 0 0x100000 32 = some tof ∧ (∃ v, sh.loadTof 0 tof = some v) ∧
      sh.readVa 0 0x100100 32 = some (List.replicate 32 0) ∧ sh.loadTof 0 (List.replicate 32 0) = none ∧ sh.readVa 0 0 32 = none ∧ HostOnly sh sh) ∧
    ((sh.host.queues.get {} 1).cfg.getLsbD 63 = false ∧ (sh.host.queues.get {} 0).cfg.getLsbD 63 = true ∧ Sparse.wf {} sh.host.queues = true ∧
      ((4 : Nat) ≤ 4 ∧ (0 : Nat) % 64 = 0 ∧ 0 + 64 * 2 ^ 4 ≤ 0x03E00000 ∧ shn.jobs = [])) ∧
    (Memory.wf sh.mem = true ∧ shn.job 0 = none ∧ (∃ x, sh.job 0 = some x ∧ x.done = false ∧ sh.recordsOf 0 = []) ∧
      (let s : State := { sh with jobs := [(0, { job1 with done := true })] }; ∃ x, s.job 0 = some x ∧ x.done = true)) ∧
    (((∃ x, (0, x) ∈ sh.spaces) ∧ 0x100000 % 4096 = 0 ∧ 0x100000 + 4096 ≤ 2 ^ 48 ∧ (Fmt.ofCode (128 % 32)).isSome = true ∧ 128 / 32 % 4 ≤ 1) ∧ 1 % 4096 ≠ 0 ∧
      (let p (e : BitVec 128) : Space := { sp1 with ptes := [(pteKey 4 0x300000, e)] };
        (p 0x200).ptes.find (pteKey 4 0x300000) = some 0x200 ∧ pteV 0x200 = false ∧ (p 0x201).ptes.find (pteKey 4 0x300000) = some 0x201 ∧ pteV 0x201 = true)) := by
  refine ⟨by decide, ⟨by decide, by decide, by decide, ⟨sp1, List.mem_cons_self⟩, by decide⟩, ⟨by decide, by decide, ?_, by decide, by decide, by decide, rfl⟩, by decide,
    ⟨by decide, by decide, ⟨_, rfl, by decide, by decide⟩, ⟨_, rfl, by decide⟩⟩, ⟨⟨sp1, List.mem_cons_self⟩, by decide, by decide, by decide, by decide⟩, by decide⟩
  have h : readTof tof = some { nkern := 0, strs := 0, sects := [] } := by decide
  have n : ¬ 2 ^ 36 < ((sh.draw.2.space 0).spot ((sh.draw.2.space 0).nextVa / 4096 + sh.draw.1 % 4096 * 16)
      ({ nkern := 0, strs := 0, sects := [] } : Tof).room).getD ((sh.draw.2.space 0).nextVa / 4096 + sh.draw.1 % 4096 * 16) := by
    cases e : (sh.draw.2.space 0).spot ((sh.draw.2.space 0).nextVa / 4096 + sh.draw.1 % 4096 * 16)
        ({ nkern := 0, strs := 0, sects := [] } : Tof).room with
    | none =>
      have : (sh.draw.2.space 0).nextVa = ({} : Space).nextVa := rfl
      simp only [Option.getD_none]
      rw [this, show ({} : Space).nextVa / 4096 = 256 from rfl]
      omega
    | some p => have := Space.spot_fits e; simp only [Option.getD_some]; omega
  simp only [State.loadTof, h, placeSects, Tof.records, State.placeObjs, Layout.relocs, allSome, List.filter_nil, List.flatMap_nil, List.any_nil,
    List.take_nil, List.map_nil, List.length_nil, ne_eq, not_true, false_or, if_neg n, Bool.false_eq_true, if_false]
  exact ⟨_, rfl⟩
/-- The mapped machine, ready, with object 9 of one page at 0x100000 and a read of it under way. -/
def sdv : State :=
  { sm with spaces := [(0, { sp1 with objs := [(9, { state := 1, strong := 1, pages := 1, base := 0x100000, frame := 0x20, onDie0 := 1 })] })],
            host := { status := 1, drive := some (true, 0, 0, 9, 0, 1), journal := [(0, 0x70000000000000000)] } }
/-- A ready machine whose mailbox holds a command of one operand byte. -/
def smb (op x : Nat) : State := { sm with host := { status := 1, mbxcmd := BitVec.ofNat 512 (op + x * 2 ^ 64) } }
set_option exponentiation.threshold 1024 in
set_option maxRecDepth 8000 in
theorem witness_DrivesAndDoorbell :
    (sdv.host.status.getLsbD 0 = true ∧ sdv.host.mbxstat.getLsbD 0 = false ∧ ((sdv.space 0).objs.get ({} : Obj) 9).state = 1 ∧ ((sdv.space 0).objs.get ({} : Obj) 8).state ≠ 1 ∧
      0 + 1 ≤ ((sdv.space 0).objs.get ({} : Obj) 9).pages) ∧ sm.host.drive = none ∧
    (sdv.host.drive = some (true, 0, 0, 9, 0, 1) ∧ Memory.wf sdv.mem = true ∧ (sdv.host.journal.get 0 0).extractLsb' 16 48 = 0 ∧
      ∃ b x, (sdv.space 0).xlat none (((sdv.space 0).objs.get ({} : Obj) 9).base + 0 * 4096) (1 * 4096) false = .ok [(0x20000, 1 * 4096)] b x) ∧
    ((∀ op ∈ [(0 : Nat), 1, 2, 3, 4, 5, 6, 7, 8, 9, 10, 11], (smb op 0).host.status.getLsbD 0 = true ∧ (smb op 0).host.mbxstat.getLsbD 0 = false ∧
        ((smb op 0).host.mbxcmd.extractLsb' 0 8).toNat = op ∧ ((smb op 0).host.mbxcmd.extractLsb' 8 56).toNat = 0) ∧
      ((smb 5 63).host.mbxcmd.extractLsb' 64 8).toNat < 64 ∧ ((smb 7 1).host.mbxcmd.extractLsb' 64 8).toNat < 2 ∧ ((smb (1 + 256) 0).host.mbxcmd.extractLsb' 8 56).toNat ≠ 0) := by
  refine ⟨by decide, rfl, ⟨rfl, by decide, by decide, ⟨_, _, rfl⟩⟩, by decide⟩

/-- A ready machine with queue 0 and a posted record, and the window at 0x100000, 0x10000 bytes long. -/
def sbar : State := { sl 1 ring with host := { (sl 1 ring).host with bar4 := some (0, 0x100000, 0x10010) } }
theorem witness_HostAccesses :
    (sbar.host.status.getLsbD 0 = true ∧ sm.host.status.getLsbD 0 = false ∧ Sparse.wf {} sbar.host.queues = true ∧
      2 ^ ((sbar.host.queues.get {} 0).cfg.extractLsb' 0 16).toNat < ((17 : Word) - (sbar.host.queues.get {} 0).tail).toNat ∧
      ¬ 2 ^ ((sbar.host.queues.get {} 0).cfg.extractLsb' 0 16).toNat < ((16 : Word) - (sbar.host.queues.get {} 0).tail).toNat) ∧
    (Sparse.wf 0 sbar.host.bar2 = true ∧ sbar.published 7 = true ∧ sbar.published 8 = false) ∧
    (Memory.wf sbar.mem = true ∧ sm.host.bar4 = none ∧ sbar.host.bar4 = some (0, 0x100000, 0x10010) ∧ 0x10010 < 0x10009 + 8 ∧ 8 + 8 ≤ 0x10010 ∧
      (∃ b e, (sbar.space 0).xlat none (0x100000 + 8) 8 true = .ok [(0x20008, 8)] b e) ∧ (∃ n, (sbar.space 0).xlat none (0x100000 + 0x10000) 8 true = .fault n) ∧
      (∃ b e, (sbar.space 0).xlat none (0x100000 + 8) 8 false = .ok [(0x20008, 8)] b e) ∧ ∃ n, (sbar.space 0).xlat none (0x100000 + 0x10000) 8 false = .fault n) := by
  refine ⟨by decide, by decide, by decide, rfl, rfl, by decide, by decide, ⟨_, _, rfl⟩, ⟨_, rfl⟩, ⟨_, _, rfl⟩, ⟨_, rfl⟩⟩

set_option exponentiation.threshold 1024 in
set_option maxRecDepth 8000 in
theorem witness_ResetsFabricAndHeat :
    Memory.wf sm.mem = true ∧ (∀ e ∈ shn.jobs, e.2.done = true ∨ e.2.ntasks ≤ e.2.ended.length) ∧
    (∀ e ∈ sm.jobs, e.2.done = true ∨ e.2.ntasks ≤ e.2.ended.length ∨ e.2.flags.testBit 0 = false) ∧
    (let x : Job := { job1 with flags := 1 }; let s : State := { sm with jobs := [(0, x)] }; s.spread 0 x = true ∧ x.flags.testBit 0 = true) ∧
    ((srec 2).dieRecords 0 = [(0, rec 2)] ∧ (srec 2).record 0 0 = rec 2 ∧ recState (rec 2) = 2 ∧ recClass (rec 2) ≤ 5 ∧ recDet (rec 2) = false ∧ (srec 2).busyCores = []) := by decide

/-- A machine whose memory has an uncorrectable word under its one pending access. -/
def sbad (k : MuKind) : State := { su k 4 [(0x20004, 4)] with unc := [(0x20000, 16)], core := { (su k 4 [(0x20004, 4)]).core with kern := ch.kern, task := ch.task } }
theorem witness_MemoryAndArrayErrors :
    Sparse.wf Core.reset sm.others = true ∧
    (∃ p, ({ cx with flight := [{ due := 0, seq := 0, slot := 0, w := .x 1 5 }] } : Core).flight[(63 : Nat) / 65536]? = some p ∧ p.w = .x 1 5) ∧
    ((sbad .store).unc.find? (fun u => decide (u.1 ≤ 0x2000F ∧ 0x2000F < u.1 + u.2)) = some (0x20000, 16) ∧
      (sbad .store).unc.find? (fun u => decide (u.1 ≤ 0x20010 ∧ 0x20010 < u.1 + u.2)) = none) ∧
    (sm.nextItem = none ∧ (∀ k ∈ [MuKind.store, .load 1], ∃ i, (sbad k).nextItem = some i ∧ (sbad k).aborts i = true ∧ (sbad k).core.r.prot = false ∧ (sbad k).badWord i.phys = some (0x20000, 16) ∧
      i.returns = decide (k = .load 1)) ∧ Handles (sbad (.load 1)).core 0x40) := by
  refine ⟨by decide, ⟨_, rfl, rfl⟩, by decide, by decide, ?_, ⟨rfl, by decide, by decide, running_not_ending _ rfl⟩⟩
  intro k hk
  simp only [List.mem_cons, List.mem_nil_iff, or_false] at hk
  rcases hk with rfl | rfl <;> exact ⟨_, rfl, by decide, rfl, by decide, by decide⟩

/-- A core of a pair at cycle 10, its segment open since cycle 2, with one signature. -/
def cpr (chk : Bool) (at_ : Nat) (sig : List Nat) : Core :=
  let c : Core := { ch with r := { ch.r with kstat := if chk then 0x18 else 0x10 } }
  { c with segOpen := true, segAt := if chk then 4 else 2, ckpt := some (c.takeCkpt 2 0), sigs := [(at_, sig)] }
/-- A pair whose signatures of cycle 7 are as given. -/
def spr (x y : List Nat) : State := { sm with cycle := 10, core := cpr false 7 x, others := [(1, cpr true 9 y)] }
theorem witness_PairsCompareAndRewind :
    ((spr [1] [1]).cid % 2 = 0 ∧ (spr [1] [1]).core.r.chk = false ∧ (spr [1] [1]).core.r.prot = true ∧ sm.core.r.prot = false ∧ (spr [1] [1]).core.strike = none ∧ sm.core.back = none) ∧
    Sparse.wf Core.reset (spr [1] [2]).others = true ∧
    ((spr [1] [1]).core.sigOf (10 - 3) = ((spr [1] [1]).coreAt 1).sigOf (10 - 1)) ∧
    (3 ≤ (spr [1] [2]).cycle ∧ (spr [1] [2]).core.sigOf (10 - 3) ≠ ((spr [1] [2]).coreAt 1).sigOf (10 - 1) ∧ (spr [1] [2]).core.segOpen = true ∧ ((spr [1] [2]).coreAt 1).segOpen = true ∧ ((spr [1] [2]).coreAt 1).segAt = (spr [1] [2]).core.segAt + 2 ∧
      (∃ k, (spr [1] [2]).core.ckpt = some k) ∧ (∃ k, ((spr [1] [2]).coreAt 1).ckpt = some k) ∧ (spr [1] [2]).core.rewindable = true ∧ ((spr [1] [2]).coreAt 1).rewindable = true ∧
      (spr [1] [2]).core.rewinds < 3) ∧
    (3 ≤ ({ (spr [1] [2]) with core := { cpr false 7 [1] with rewinds := 3 } } : State).core.rewinds ∧ ({ cpr false 7 [1] with rewinds := 3 } : Core).sigOf (10 - 3) ≠ (cpr true 9 [2]).sigOf (10 - 1)) ∧
    (let s : State := { spr [1] [2] with core := { cpr false 7 [1] with segAt := 9 } }; s.core.segOpen = true ∧ (s.coreAt 1).segAt ≠ s.core.segAt + 2) ∧
    ((cpr false 7 [1]).segOpen = true ∧ ({ cpr false 7 [1] with chans := Vector.replicate 8 { queue := [{ seq := 0, op := 0 }] } } : Core).drained = false) ∧
    (let s : State := { spr [1] [1] with core := { cpr false 7 [1] with back := some 10 } }; s.core.back = some 10 ∧ 10 ≤ s.cycle ∧ (∃ k, s.core.ckpt = some k) ∧
      s.core.drained = true ∧ (s.coreAt 1).drained = true) := by
  refine ⟨by decide, by decide, by decide, ⟨by decide, by decide, by decide, by decide, by decide, ⟨_, rfl⟩, ⟨_, rfl⟩, by decide, by decide, by decide⟩, by decide, ⟨rfl, by decide⟩, ⟨rfl, by decide⟩, ⟨rfl, by decide, ⟨_, rfl⟩, by decide, by decide⟩⟩

/-- A core whose parcel cache holds a line at parcel 0 with a literal bundle of one S operation, STOP. -/
def cf (w : Nat) : Core := { ch with lines := [(0, BitVec.ofNat 512 (0xFFFF + 0x0041 * 2 ^ 16 + w * 2 ^ 32))] }
/-- The machine about to issue it. -/
def sf (w : Nat) : State := { sm with core := cf w, turn := [.issue 0] }
/-- An addition, a STKWAIT that must wait and a load from an address above the space: each at parcel 0, with its operation. -/
def cases3 : List (Nat × Instr) :=
  [(0x0007000014001700, .addi Guard.always 5 0 7), (0x0000000014207200, .stkwait Guard.always 5 2), (0x001000001C325002, .ld Guard.always false 2 7 3 2 16)]
set_option exponentiation.threshold 1024 in
set_option maxRecDepth 8000 in
theorem witness_StepRunsDecodedInstruction :
    ∀ e ∈ cases3, (sf e.1).turn = .issue (sf e.1).cid :: [] ∧ (sf e.1).core.task.phase = .running ∧
      (sf e.1).core.task.gsize ≤ 1 ∧ (sf e.1).core.r.prot = false ∧ (sf e.1).core.r.chk = false ∧ (sf e.1).core.iss.ready ≤ (sf e.1).cycle ∧ (sf e.1).core.hold.promo = none ∧ (sf e.1).core.back = none ∧
      (sf e.1).core.strike = none ∧ (sf e.1).reportNow = false ∧ (sf e.1).core.wl.active = false ∧ (sf e.1).core.iss.drain = false ∧ (sf e.1).core.badWords = [] ∧
      (let b := literalBundle 0x0041 (tab 4 (fun k => BitVec.ofNat 16 (e.1 / 2 ^ (16 * k))));
        (sf e.1).core.stream (sf e.1).core.pc = .go b ∧ b.ops = [(0, some e.2)] ∧ b.bad = false ∧ b.stop = true ∧ b.seg = false ∧ b.mask ≠ 0) ∧
        (sf e.1).core.scoreboard [(0, e.2)] = false ∧ (sf e.1).core.stepFour [(0, e.2)] = false := by decide
/-- How an execution's issue stands. -/
def verdictOf (o : Out) : Option Verdict := match o with
  | .next u => some u.core.iss.verdict
  | _ => none
set_option exponentiation.threshold 1024 in
set_option maxRecDepth 8000 in
theorem witness_StepOutcomes :
    verdictOf (exec (.addi Guard.always 5 0 7) (sf 0)) = some .ok ∧ verdictOf (exec (.stkwait Guard.always 5 2) (sf 0)) = some .held ∧
    (∃ x, verdictOf (exec (.ld Guard.always false 2 7 3 2 16) (sf 0)) = some (.trap x) ∧ x.isReport = false ∧ x.code = 3) ∧
    flightCount (sf 0).core.flight ≤ 48 := by
  refine ⟨by decide, by decide, ⟨_, rfl, by decide, by decide⟩, by decide⟩
set_option exponentiation.threshold 1024 in
set_option maxRecDepth 8000 in
theorem witness_StreamBundles :
    (let c := cf 0x0007000014001700; let l : List Parcel := [0x1700, 0x1400, 0, 7];
      c.parcel 0 = some 0xFFFF ∧ c.parcel (parcelNo 0 1) = some 0x0041 ∧ l.length = literalLen 0x0041 - 2 ∧
      (∀ k : Nat, k < 4 → c.parcel (parcelNo 0 (2 + k)) = l[k]?) ∧ c.parcel 1 = some 0x0041 ∧ (literalBundle 0x0041 l).bad = false ∧
      (literalBundle 0x0041 l).ops = [(0, some (.addi Guard.always 5 0 7))]) := by decide

/-- The machine with a line of the parcel cache on its way, which may not be read where `bad`. -/
def sfetch (bad : Bool) : State := { sm with unc := if bad then [(0x20000, 16)] else [], core := { ch with fetch := some (0x4000, 0) } }
theorem witness_FetchEmptyAndReserved :
    (sm.core.fetch = none ∧ (∃ n d, (sfetch false).core.fetch = some (n, d) ∧ d ≤ (sfetch false).cycle)) ∧
    (∃ e, (sfetch false).reach (sfetch false).core.task.asid none (64 * 0x4000) 64 false none = .ok [(0x20000, 64)] false e) ∧
    (∃ e, (sfetch true).reach (sfetch true).core.task.asid none (64 * 0x4000) 64 false none = .ok [(0x20000, 64)] false e) ∧
    (sfetch false).badWord [(0x20000, 64)] = none ∧ (sfetch true).badWord [(0x20000, 64)] = some (0x20000, 16) ∧ Handles ch 0x40 := by
  refine ⟨⟨rfl, ⟨_, _, rfl, by decide⟩⟩, ⟨_, rfl⟩, ⟨_, rfl⟩, by decide, by decide, handles_ch⟩

theorem witness_EncodeDecodeScalar :
    ∃ w, (Instr.ld Guard.always true 2 7 3 2 16).wf = true ∧ encodeS (.ld Guard.always true 2 7 3 2 16) = some w := ⟨_, by decide, rfl⟩
theorem witness_EncodeDecodeUnits :
    (∃ w, (Instr.vfma { va with fmt := 2, sa := 1 }).wf = true ∧ encodeV (.vfma { va with fmt := 2, sa := 1 }) = some w) ∧
    (∃ w, (Instr.mcall Guard.always 0 4 0x41 false).wf = true ∧ encodeM (.mcall Guard.always 0 4 0x41 false) = some w) ∧
    (∃ w, (Instr.pgatherPairs pa).wf = true ∧ encodeP (.pgatherPairs pa) = some w) ∧ (∃ w, (Instr.pcopy pa).wf = true ∧ encodeP (.pcopy pa) = some w) ∧
    (∃ w, (Instr.mmac 0 false 0).wf = true ∧ encodeU (.mmac 0 false 0) = some w) := by
  refine ⟨⟨_, by decide, rfl⟩, ⟨_, by decide, rfl⟩, ⟨_, by decide, rfl⟩, ⟨_, by decide, rfl⟩, ⟨_, by decide, rfl⟩⟩

set_option exponentiation.threshold 1024 in
set_option maxRecDepth 8000 in
theorem witness_MemoryStaysCanonical : Memory.wf (sf 0x0007000014001700).mem = true ∧ (match step (sf 0x0007000014001700) with | .next t => t.core.iss.verdict == .ok && t.core.pc == 6 | _ => false) = true := by decide
/-! ### Values the spec works out -/

/-- What the result that one step puts in flight writes, and when. -/
def flightOf (o : Out) : List (Nat × Write) := match o with
  | .next u => u.core.flight.map (fun p => (p.due, p.w))
  | _ => []

/-- 03: X2 = 7 and X1 = 6 give 42 three cycles later; an ADD is visible one cycle later. -/
theorem test_mul_latency :
    flightOf (exec (.mul Guard.always 7 1 2) sx) = [(3, .x 7 42)] ∧ flightOf (exec (.add Guard.always 8 1 0) sx) = [(1, .x 8 6)] := by decide

/-- 02 R76: DADD of 1.10 and 2.5, and DQUANT of 1.225 to the quantum of 0.01 in two directions. -/
theorem test_decimal :
    decAdd .rne 0x318000000000006E 0x31A0000000000019 = (0x3180000000000168, 0) ∧
    decQuant .rne 0x31600000000004C9 0x3180000000000001 = (0x318000000000007A, fNX) ∧
    decQuant .rna 0x31600000000004C9 0x3180000000000001 = (0x318000000000007B, fNX) := by decide

/-- 02 Table 5: conversions of FP32 values to FP8. -/
theorem test_fp8 :
    cvtElem .fp32 .e4m3 .rne false 0x3F880000 = (0x38, fNX) ∧ cvtElem .fp32 .e4m3 .rne false 0x3F980000 = (0x3A, fNX) ∧
    cvtElem .fp32 .e4m3 .rne false 0x43E80000 = (0x7E, fNX) ∧ cvtElem .fp32 .e4m3 .rne true 0x43E88000 = (0x7E, fOF ||| fNX) ∧
    cvtElem .fp32 .e4m3 .rne false 0x43E88000 = (0x7F, fOF ||| fNX) ∧ cvtElem .fp32 .e4m3 .rne false 0x3A800000 = (0x00, fUF ||| fNX) ∧
    cvtElem .fp32 .e4m3 .rne false 0x3B400000 = (0x02, fUF ||| fNX) ∧ cvtElem .fp32 .e5m2 .rne false 0x47700000 = (0x7C, fOF ||| fNX) ∧
    cvtElem .fp32 .e5m2 .rne true 0xC7700000 = (0xFB, fOF ||| fNX) := by decide

/-- 05 R162: 2^24, 1 and -2^24 added in two orders; 07: 1.5 + 2.25 = 3.75, exactly. -/
theorem test_fp32_sums :
    (Fmt.fp32.add .rne (Fmt.fp32.add .rne 0x4B800000 0x3F800000).1 0xCB800000).1 = 0 ∧
    (Fmt.fp32.add .rne (Fmt.fp32.add .rne 0x4B800000 0xCB800000).1 0x3F800000).1 = 0x3F800000 ∧
    Fmt.fp32.add .rne 0x3FC00000 0x40100000 = (0x40700000, 0) := by decide

/-- 07 R225: scores of 3.0 and minus infinity against 3.0, and the row's sum 1280. -/
theorem test_vexpq :
    vexpqElem .fp32 0x40400000 0x40400000 = (0x78, 0) ∧ vexpqElem .fp32 0xFF800000 0x40400000 = (0, 0) ∧
    vexpqSum 0 [0x78, 0x78, 0x78, 0x78, 0x78, 0] = (0x44A00000, 0) := by decide

/-- 01 R40 and 06 R209: the tree of five nodes. -/
def ctree : Core :=
  { cx with tree := [(0, 0x80FF002800000007), (1, 0x800000290000000B), (2, 0x8000002A0000000C), (3, 0x8001002B0000000D), (4, 0x8001002C0000000E)] }
set_option maxRecDepth 20000 in
theorem test_tree :
    (tab 5 ctree.depth) = [0, 1, 1, 2, 2] ∧ ctree.nodeCount = 5 ∧ (tab 256 (ctree.anc 3)).take 4 = [true, true, false, true] ∧
    (tab 16 (ctree.anc 2)).take 3 = [true, false, true] ∧ ctree.nextNode = 5 ∧
    (ctree.pruneEls 3 40).take 7 = [40, 40, 41, 41, 43, 42, 0xFFFFFFFF] ∧ ((ctree.pruneEls 3 40).drop 512).take 3 = [42, 44, 0xFFFFFFFF] := by decide

/-- 01 R13, R14: a guard that reads false leaves the machine as it is; Q0 reads true. -/
theorem test_guard :
    exec (.addi { qp := 1, qn := false } 5 0 7) sx = .next sx ∧ exec (.addi { qp := 0, qn := true } 5 0 7) sx = .next sx ∧
    flightOf (exec (.addi { qp := 0, qn := false } 5 0 7) sx) = [(1, .x 5 7)] := ⟨rfl, rfl, by decide⟩

/-- 05 R142, Table 2: division by zero and of the most negative number by -1. -/
theorem test_division :
    (flightOf (exec (.div Guard.always 8 5 4) sx)).map (·.2) = [.x 8 0x8000000000000000] ∧
    (flightOf (exec (.rem Guard.always 8 5 4) sx)).map (·.2) = [.x 8 0] ∧
    (flightOf (exec (.div Guard.always 8 1 0) sx)).map (·.2) = [.x 8 0xFFFFFFFFFFFFFFFF] ∧
    (flightOf (exec (.rem Guard.always 8 1 0) sx)).map (·.2) = [.x 8 6] := by decide

/-- 20 R428, R437: right after reset READY is 0, nothing is mapped and every core is idle; a conventional reset without an error makes it READY. -/
theorem test_reset :
    State.reset.host.status = 0 ∧ State.reset.spaces = [] ∧ State.reset.busyCores = [] ∧ Memory.wf State.reset.mem = true ∧
    (match exec (.conventionalReset 0 false) State.reset with | .next t => t.host.status | _ => 0) = 1 := by decide

set_option exponentiation.threshold 1024 in
set_option maxRecDepth 20000 in
/-- ADDI as a literal bundle: its words decode, and the first step after it is placed runs it. -/
theorem test_fetch_word :
    decodeTableWord 96 0x00070000140017000041FFFF = some (.addi Guard.always 5 0 7) ∧
    (match step (State.reset.withFetchWord 96 0x00070000140017000041FFFF) with | .next t => some (t.core.iss.verdict, t.core.flight.map (·.w)) | _ => none) = some (.ok, [.x 5 7]) := by decide
/-! ### Further witnesses, one clause or boundary value each -/

/-- The mapped machine whose pages are transposing aliases of an 8-bit format. -/
def sali : State := { sm with spaces := [(0, { regions := [{ page := 0x100, n := 16, pte := mkLeaf true 2 1 0 0x20 0 none }] })] }
theorem witness_LaunchOfAlias : ∃ l e, (sali.space sali.core.task.asid).xlat none 0x100040 64 false = .ok l true e := ⟨_, _, rfl⟩
/-- A weak load with two parts to go, and one that the sump served. -/
def su2 (left : List (Nat × Nat)) (fwd : Option Nat) : State :=
  { sm with core := { cx with mu := [{ seq := 0, kind := .load 5, cls := 0, strong := false, va := 0x10003C, width := 8, phys := [(0x2003C, 8)], data := 0, ready := 0, fwd := fwd, pcv := 0, op := 0, left := left }], iss := { cx.iss with seq := 1 } } }
theorem witness_LoadParts :
    (∃ i, (su2 [(0, 4), (4, 4)] none).nextItem = some i ∧ ¬ i.left.length ≤ 1 ∧ (∃ d, i.kind = .load d) ∧ (su2 [(0, 4), (4, 4)] none).aborts i = false) ∧
    (∃ i, (su2 [] (some 7)).nextItem = some i ∧ i.fwd = some 7 ∧ i.src = none ∧ i.left.length ≤ 1) := by
  refine ⟨⟨_, rfl, by decide, ⟨_, rfl⟩, by decide⟩, ⟨_, rfl, rfl, rfl, by decide⟩⟩
theorem witness_SumpParts :
    let e : Sump := { en 0x10003C none with width := 8, left := [(0, 4), (4, 4)] }
    (∃ f, (ssump e).nextReplay = some (e, .ok [(0x2003C, 8)] false f)) ∧ 1 < e.left.length := ⟨⟨_, rfl⟩, by decide⟩
/-- A gang's second core, with a load under way or none. -/
def sgang (busy : Bool) : State :=
  { sx with core := { (if busy then (su2 [] none).core else cx) with task := { gpos := 1, gsize := 2 }, iss := { cx.iss with seq := 1 } } }
theorem witness_GangMemberSync :
    (sgang false).core.task.gpos ≠ 0 ∧ Plain (sgang false) ∧ (sgang false).core.quietBefore (sgang false).core.iss.seq 0xFFFF = true ∧
    (sgang true).core.quietBefore (sgang true).core.iss.seq 0xFFFF = false := by
  refine ⟨by decide, ⟨by decide, by decide⟩, by decide, by decide⟩
/-- Core 1 of the well runs another job's task. -/
theorem witness_SyncOfStrangers :
    leftOut sm.cid 1 3 = false ∧ ({ sm with others := [(1, { ch with task := { phase := .running, job := 1 } })] } : State).strangers 3 = true := by decide
theorem witness_TreeNode255 : (sk.core.x 12).getLsbD 63 = false ∧ (sk.core.x 10).toNat % 256 = 255 := by decide
/-- An object check that is due, with no operation at the home slice; and an OSTAT there. -/
theorem witness_ObjectHome :
    (let s : State := { so with core := { so.core with hold := { chk := some (9, 0) } } }; s.core.hold.chk = some (9, 0) ∧ 0 ≤ s.cycle ∧ s.nextObj = none) ∧
    (so.core.hold.chk = none ∧ so.nextObj = none) ∧
    ∃ op, (sobj (.ostat Guard.always 1 1 3) (objHandle 9 5) 0 none).nextObj = some op ∧ op.i = .ostat Guard.always 1 1 3 := by
  refine ⟨by decide, by decide, ⟨_, rfl, rfl⟩⟩
theorem witness_WindlassStop :
    ({ cwl with wl := { active := true }, iss := { cwl.iss with replay := true } } : Core).wl.active = true ∧
    ({ cwl with wl := { active := true } } : Core).iss.replay = false := by decide
/-- MA2 names a reserved format for routine 0's output. -/
def sres : State := { sx with core := { cm with r := { cm.r with ma := cm.r.ma.set 2 0x1F040 } } }
theorem witness_CallOfReservedFormat :
    ∃ r, sres.core.routine 0 = some r ∧ 2 ∈ r.outMas ∧ (Fmt.ofCode (maOfmt ((sres.core.callMa 4 0x41).toList.getD 2 0))).isSome = false ∧
      ∀ j ∈ r.outMas, (Fmt.ofCode (maOfmt (((smx {}).core.callMa 4 0x41).toList.getD j 0))).isSome = true := by
  refine ⟨_, rfl, by decide, by decide, by decide⟩
/-- A write of the core, captured by a trap, to row 15 of tile 0x41 is older than the tile's grant. -/
def crow : Core := { cm with captured := [{ due := 5, seq := 0, slot := 0, w := .elem 0x41 960 1 }], tiles := cm.tiles.map (fun e => (e.1, { e.2 with gseq := 1 })) }
theorem witness_RowBusy : crow.rowBusy 0x41 15 = true ∧ crow.rowBusy 0x41 14 = false := by decide
/-- The PCOPY's row with its first 32 elements written. -/
def kc2 : PumpCmd := { kc with hand := List.replicate 64 1, part := 32 }
theorem witness_PumpRowInParts :
    (spq kc2 []).core.head 0 = some kc2 ∧ (spq kc2 []).core.pumpReady 10 0 = true ∧ kc2.part < 64 ∧ kc2.hand ≠ [] ∧ kc2.hand.length = 64 ∧
    (∀ v ∈ kc2.hand, v < 2 ^ (fmtOf kc2.fd).width) := by decide
/-- A copy of no rows to memory needs no format; a gone gather's formats are known. -/
theorem witness_PumpBareAndGone :
    (let y : Side := { e := .mem 0x100000 0 0 0 0 0 none, fmt := none }; y.isMem = true ∧ FmtKnown sp 0 y none none) ∧ FmtKnown sp 0 (sd 0x42) none (some 12) := by
  refine ⟨⟨by decide, rfl⟩, rfl⟩
/-- A marker of a PINVM at the head, with a load of the core's before it under way, and with none. -/
theorem witness_MarkerWaits :
    (let k := markerCmd 1 0x100 1 [];
      k.marker = some (0x100, 1, []) ∧ k.begun = false ∧ k.issued < (spq k []).cycle ∧ (spq k []).core.quietBefore k.seq 0xFFFF = true ∧
        ({ (spq k []).core with mu := (su2 [] none).core.mu } : Core).quietBefore k.seq 0xFFFF = false) := by decide
theorem witness_PumpStartAndAdvance :
    (let k : PumpCmd := { kc with gone := true, begun := false }; (spq k []).core.pumpReady 10 0 = true ∧ k.begun = false ∧ k.gone = true) ∧
    ((spq kc [(10, 3)]).core.chan 0).adv = [((spq kc [(10, 3)]).cycle, 3)] := by decide
set_option exponentiation.threshold 1024 in
set_option maxRecDepth 8000 in
theorem witness_StepPremises :
    ∀ e ∈ cases3, (sf e.1).core.task.fresh = false ∧ (sf e.1).core.dictBad = [] ∧ (sf e.1).core.reseg = false ∧ flightCount (sf e.1).core.flight + (sf e.1).core.heldLoads ≤ 48 := by decide
/-- The line of parcel 32 times 0x4000 has been stored to since it was first fetched. -/
theorem witness_StoredCode :
    ({ (sfetch false) with core := { (sfetch false).core with codeSeen := [(0x4000, 5)] } } : State).core.codeSeen.find? (fun x => x.1 == 0x4000) = some (0x4000, 5) ∧
    ∀ v, (0x4000, v) ∉ (sfetch false).core.codeSeen := by
  refine ⟨rfl, ?_⟩
  intro v h; cases h
/-- Wells other than well 0 are the job's; a task of a higher class waits for the core of record 0's task. -/
def swell : State := { srec 0 with jobs := [(0, { job1 with wells := 2 })] }
/-- Record 1 of the same core, READY, of class 3; record 0 RUNNING. -/
def svic : State := { sl 0 ring with slots := [(0, rec 2), (1, recPut (rec 1) 35 3 3)] }
set_option exponentiation.threshold 1024 in
set_option maxRecDepth 8000 in
theorem witness_DispatchChoices :
    swell.wellAllowed 0 (rec 1) = false ∧ (srec 0).wellAllowed 0 (rec 1) = true ∧ (svic.bindable 0 1 = false ∧ svic.victimsOf 0 1 = [0] ∧ recState (svic.record 0 0) = 2) ∧
    (srec 1).kernelOf (rec 1) = some kd := by decide
set_option exponentiation.threshold 1024 in
set_option maxRecDepth 8000 in
theorem witness_EndedTask :
    (let s : State := { srec 2 with core := { ch with task := { phase := .killed, job := 0, task := 0, ended := true } } }; s.taskOver = true ∧ s.taskCores = [s.cid] ∧ s.core.task.ended = true) ∧
    ((∀ e ∈ (srec 2).others, e.1 ≠ (srec 2).cid) ∧ Sparse.wf Core.reset (srec 2).others = true) := by decide
/-- A store of two pieces with two parts to go, performed now, and one part of it left. -/
theorem witness_StoreOfPieces :
    let s (l : List (Nat × Nat)) : State := { sm with core := { cx with mu := [{ seq := 0, kind := .store, cls := 0, strong := false, va := 0x100FFC, width := 8, phys := [(0x20FFC, 4), (0x21000, 4)], data := 258, ready := 0, fwd := none, pcv := 0, op := 0, left := l }], iss := { cx.iss with seq := 1 } } }
    (∀ l ∈ [[(0, 4), (4, 4)], [(4, 4)]], ∃ i, (s l).nextItem = some i ∧ i.kind = .store ∧ (s l).aborts i = false ∧ i.left = l) ∧
    ((byteAddrs [(0x20FFC, 4), (0x21000, 4)]).length = 8 ∧ (byteAddrs [(0x20FFC, 4), (0x21000, 4)]).Nodup) := by
  refine ⟨?_, by decide⟩
  intro l hl
  simp only [List.mem_cons, List.mem_nil_iff, or_false] at hl
  rcases hl with rfl | rfl <;> exact ⟨_, rfl, rfl, by decide, rfl⟩
/-- An AFADD into a target of the job's; ACCRES and ACCREL of one FP32 target before it is done and at their answers, held and not. -/
def sacc (k : MuKind) (left : List (Nat × Nat)) (ranges taking : List (Nat × Nat × Nat)) (accs : List AccT) : State :=
  { su k 4 [(0x20004, 4)] with core := { (su k 4 [(0x20004, 4)]).core with mu := (su k 4 [(0x20004, 4)]).core.mu.map (fun i => { i with left := left }) },
                               jobs := [(0, { job1 with ranges := ranges, taking := taking })], accs := accs }
/-- That target. -/
def target : AccT := AccT.empty 0 0x100004 0x20004 0
set_option exponentiation.threshold 1024 in
set_option maxRecDepth 8000 in
theorem witness_AccumulatorsAtSlices :
    (let s := sacc (.afadd 0 true) [] [] [] [target]; (∃ i, s.nextItem = some i ∧ i.kind = .afadd 0 true ∧ s.aborts i = false) ∧
      s.accs.find? (fun x => x.job == s.core.task.job && x.va == 0x100004 && x.fmt == 0) = some target) ∧
    (let s := sacc (.accres 0 5 4) [] [] [(0x100004, 4, 0)] [target]; (∃ i, s.nextItem = some i ∧ i.left = [] ∧ s.aborts i = false) ∧
      ∃ j, s.job s.core.task.job = some j ∧ (0x100004, 4, 0) ∈ j.taking) ∧
    (let s := sacc (.accres 0 5 4) [(0, 4)] [] [] []; ∃ i, s.nextItem = some i ∧ i.left ≠ [] ∧ i.untouched 0 4 = true ∧ s.aborts i = false ∧
      (byteAddrs i.phys).length = 4) ∧
    (let s := sacc (.accres 0 5 4) [(0, 4)] [(0x100004, 4, 0)] [] []; ∃ i, s.nextItem = some i ∧ i.untouched 0 4 = true ∧ s.accresOk 0 0 i.va 4 i.phys = false) ∧
    (let s := sacc (.accrel 0 5 4) [] [] [] []; ∃ i, s.nextItem = some i ∧ i.left = [] ∧ s.aborts i = false) ∧
    (let s := sacc (.accrel 0 5 4) [(0, 4)] [] [] []; ∃ i, s.nextItem = some i ∧ i.left ≠ [] ∧ i.untouched 0 4 = true ∧
      ∀ j, s.job s.core.task.job = some j → (i.va, 4, 0) ∉ j.ranges) ∧
    (let s := sacc (.accrel 0 5 4) [(0, 4)] [(0x100004, 4, 0)] [] [target]; ∃ i, s.nextItem = some i ∧ i.left ≠ [] ∧ i.untouched 0 4 = true ∧
      (∃ j, s.job s.core.task.job = some j ∧ (i.va, 4, 0) ∈ j.ranges) ∧
      s.accs.find? (fun x => x.job == s.core.task.job && x.va == i.va + 0) = some target ∧ s.partWord [(target.pa, accSize target.fmt)] = none) := by
  refine ⟨⟨⟨_, rfl, rfl, by decide⟩, by decide⟩, ⟨⟨_, rfl, rfl, by decide⟩, _, rfl, by decide⟩, ⟨_, rfl, by decide, by decide, by decide, by decide⟩,
    ⟨_, rfl, by decide, by decide⟩, ⟨_, rfl, rfl, by decide⟩, ⟨_, rfl, by decide, by decide, ?_⟩, ⟨_, rfl, by decide, by decide, ⟨_, rfl, by decide⟩, by decide, by decide⟩⟩
  intro j h
  cases h
  decide
set_option exponentiation.threshold 1024 in
set_option maxRecDepth 8000 in
/-- The page of a sump entry is in the core's translation cache, or in its well's alone; entries of an atomic and an AFADD. -/
theorem witness_SumpEntries :
    (let e := en 0x100004 none; let s := ssump e
      ({ s with core := { s.core with tlb := [0x100] } } : State).translateAll e.va e.width = (0, { s with core := { s.core with tlb := [0x100] } }) ∧
      (({ s with wtlb := [(0, [(0, 0x100)])] } : State).translateAll e.va e.width).1 ≠ 0) ∧
    (∀ k ∈ [MuKind.atomic 0 false 0 0, .afadd 0 false], let e : Sump := { en 0x100004 none with kind := k }
      (∃ x, (ssump e).nextReplay = some (e, .ok [(0x20004, 4)] false x)) ∧ e.rot = none ∧ (ssump e).aborts (e.item [(0x20004, 4)]) = false ∧ e.width = accSize 0) ∧
    (let e : Sump := { en 0x100004 none with rot := some 0, bad := some (4, 9) }; (ssump e).nextReport = some (e, 4, 9)) := by
  refine ⟨⟨by decide, by decide⟩, ?_, by decide⟩
  intro k hk
  simp only [List.mem_cons, List.mem_nil_iff, or_false] at hk
  rcases hk with rfl | rfl <;> exact ⟨⟨_, rfl⟩, rfl, by decide, rfl⟩
theorem witness_BarrierStood :
    (∀ k ∈ [1, 2], ((ssync k none false).coreAt 0).stood = none) ∧ (ssync 1 (some 0) false).core.stood = none ∧ (ssync 4 (some 0) false).core.stood = none := by decide
/-- A ZERO tile that keeps its storage. -/
theorem witness_KeptStorage :
    let c : Core := withT cx [(3, { kind := 2, fmt := 2, keep := true, base := 64, ext := 128 })]
    (c.tile 3).kind ≠ 0 ∧ (c.tile 3).kind ≠ 1 ∧ (c.tile 3).ext ≠ 0 ∧ (∀ r ∈ c.free, r.1 < r.2) ∧ Sparse.wf {} c.tiles = true := by decide
/-- A level 0 whose prologue is left out, and its epilogue too, with trip counts 0 and 2. -/
theorem witness_NoPrologue :
    let c (w : Word) : Sparse Word := Sparse.set 0 [(12, 0x20001)] 0 w
    ((c 0).get 0 11).extractLsb' 16 11 = 0 ∧ ((c 0).get 0 13).extractLsb' 16 11 = 0 ∧ ((c 0x200000000).get 0 0).extractLsb' 32 16 = 2 ∧ ((c 0).get 0 12).extractLsb' 16 11 ≠ 0 := by decide
/-- A PCOPY into memory at 0x100000, dense, with 8 bytes in hand; the machine whose channel 0 has a command at its head and whose core has the page in its
translation cache. -/
def km : PumpCmd := { kc with dst := .mem 0x100000 4096 1 1 4096 4096 none, pos := 0, buf := List.replicate 8 1, out := 8, tiles := [0x41], wtiles := [] }
def spm (k : PumpCmd) : State := { spq k [] with core := { (spq k []).core with tlb := [0x100] } }
theorem moves_spm {k : PumpCmd} (h : (spm k).core.pumpReady 10 0 = true) (b : k.begun = true) (g : k.gone = false) (f : k.follow = false) (r : k.nr ≠ 0)
    (c : k.copies ≠ 0) : Moves (spm k) 0 k := ⟨rfl, h, b, g, f, r, c⟩
set_option maxRecDepth 20000 in
/-- Rows in hand: of a symbol, of memory whose bytes the command has got, of a later copy; into memory, of PREDUCE too; bytes in hand. -/
theorem witness_PumpRows :
    (let k : PumpCmd := { kc with op := 5, src := .sym { kind := 3, fmt := 12, val := 7 } }; Moves (spm k) 0 k ∧ RowInHand (spm k) k (k.convert (Tile.symRow { kind := 3, fmt := 12, val := 7 } 15)).1 []) ∧
    (let k : PumpCmd := { kc with src := km.dst, got := List.replicate 256 0 }; Moves (spm k) 0 k ∧ RowInHand (spm k) k (k.convert (bytesEls 12 (List.replicate 256 0))).1 []) ∧
    (let k : PumpCmd := { kc with op := 4, copies := 2, pos := 17, rows := List.replicate 16 (List.replicate 64 3) }; Moves (spm k) 0 k ∧ k.pos < k.nr * k.copies ∧
      RowInHand (spm k) k (List.replicate 64 3) [] ∧ Takes (spm k) k 0x42 (List.replicate 64 3)) ∧
    (Moves (spm km) 0 km ∧ km.buf ≠ [] ∧ km.dst.isMem = true ∧ (spm km).core.badWords = []) ∧
    (let k : PumpCmd := { km with op := 3, buf := [] }; Moves (spm k) 0 k ∧ k.op ≠ 1 ∧ k.op ≠ 2 ∧ k.hand = []) := by
  refine ⟨⟨moves_spm (by decide) rfl rfl rfl (by decide) (by decide), Or.inr (Or.inl ⟨rfl, by decide, _, Or.inr (Or.inl ⟨_, rfl, rfl⟩), rfl, rfl⟩)⟩,
    ⟨moves_spm (by decide) rfl rfl rfl (by decide) (by decide), Or.inr (Or.inl ⟨rfl, by decide, _, Or.inr (Or.inr ⟨rfl, by decide, rfl⟩), rfl, rfl⟩)⟩,
    ⟨moves_spm (by decide) rfl rfl rfl (by decide) (by decide), by decide, Or.inr (Or.inr ⟨rfl, by decide, rfl, rfl⟩), by decide, by decide, by decide, by decide, by decide, by decide⟩,
    ⟨moves_spm (by decide) rfl rfl rfl (by decide) (by decide), by decide, by decide, by decide⟩,
    ⟨moves_spm (by decide) rfl rfl rfl (by decide) (by decide), by decide, by decide, rfl⟩⟩
/-- PGATHER by list of units as long as a row of tile 0x42, and by pairs; PSCATTER. -/
def kg : PumpCmd := { km with op := 1, src := .mem 0x100000 256 0xFFFFFFFF 1 256 0 none, dst := .tile 0x42 0, nr := 2, list := [5, noIndex, 5, noIndex], buf := [], out := 0, got := List.replicate 256 1 }
set_option maxRecDepth 20000 in
theorem witness_PumpUnits :
    (Moves (spm kg) 0 kg ∧ UnitBytes kg 5 (List.replicate 256 1) ∧ kg.src.unitLen = rowBytes kg.fd ∧ kg.unitSpan.any (fun y => (spm kg).core.rowBusy y.1 y.2) = false ∧
      Takes (spm kg) kg 0x42 (bytesEls kg.fd (List.replicate 256 1))) ∧
    (let k := { kg with pos := 1 }; k.pos < k.nr ∧ UnitBytes k noIndex (List.replicate 256 0)) ∧
    (let k := { kg with dst := km.dst }; Moves (spm k) 0 k ∧ k.dst.isMem = true) ∧
    (let k := { kg with dst := kg.src, mode := 1, list := [5, 6, noIndex, 1] }; Moves (spm k) 0 k ∧ k.list.getD 0 0 ≠ noIndex ∧ k.list.getD 1 0 ≠ noIndex ∧ k.got.length = k.src.unitLen) ∧
    (let k := { kg with dst := kg.src, mode := 1, pos := 2, units := [(6, List.replicate 256 1)], buf := List.replicate 256 1 }; Moves (spm k) 0 k ∧ k.nr ≤ k.pos) ∧
    (let k := { kg with op := 2, src := .tile 0x41 0, dst := kg.src }; Moves (spm k) 0 k ∧ k.list.getD 0 0 ≠ noIndex ∧ k.src.isMem = false ∧ (spm k).core.flight = [] ∧
      (spm k).core.captured = [] ∧ (spm k).core.halted = [] ∧ (spm k).core.resume = none) ∧
    (let k := { kg with op := 2, src := km.dst, dst := kg.src, pos := 1 }; k.list.getD k.pos 0 = noIndex ∧ k.src.isMem = true ∧ k.got.length = k.dst.unitLen) := by
  refine ⟨⟨moves_spm (by decide) rfl rfl rfl (by decide) (by decide), Or.inr ⟨by decide, by decide, rfl⟩, by decide, by decide, by decide, by decide, by decide, by decide, by decide, by decide⟩,
    ⟨by decide, Or.inl ⟨rfl, rfl⟩⟩, ⟨moves_spm (by decide) rfl rfl rfl (by decide) (by decide), rfl⟩,
    ⟨moves_spm (by decide) rfl rfl rfl (by decide) (by decide), by decide, by decide, by decide⟩, ⟨moves_spm (by decide) rfl rfl rfl (by decide) (by decide), by decide⟩,
    ⟨moves_spm (by decide) rfl rfl rfl (by decide) (by decide), by decide, rfl, by decide, by decide, by decide, by decide⟩, by decide, by decide, by decide⟩
/-- One unit of memory read and one written; an INT32 and an FP32 element of PREDUCE, the latter with a target of the job's and without. -/
theorem witness_PumpMemoryUnits :
    (let k := kg; (spm k).core.pumpWaits (spm k).whereIs 0 k false 0x100000 8 = false ∧ (∃ e, (spm k).pumpMeet 0 k false 0x100000 8 false none = .ok [(0x20000, 8)] e) ∧
      (spm k).badWord [(0x20000, 8)] = none ∧ ((spm k).translate 0x100).1 = 0 ∧ k.pre = []) ∧
    (∀ k ∈ [km, { km with op := 3, fd := Fmt.int32.code }, { km with op := 3 }],
      k.dstAt = (0x100008, 4088) ∧ (spm k).core.pumpWaits (spm k).whereIs 0 k true 0x100008 8 = false ∧ (spm k).unc = [] ∧ ((spm k).translate 0x100).1 = 0 ∧ k.buf ≠ []) ∧
    (∃ e, (spm km).pumpMeet 0 km true 0x100008 8 true km.dstUnit = .ok [(0x20008, 8)] e) ∧
    (∃ e, (spm { km with op := 3 }).pumpMeet 0 { km with op := 3 } true 0x100008 4 true none = .ok [(0x20008, 4)] e) ∧ fmtOf km.fd = accFmt 0 ∧
    (let k := { km with op := 3 }; (spm k).accs.find? (fun a => a.job == 0 && a.va == 0x100008 && a.fmt == 0) = none ∧
      [AccT.empty 0 0x100008 0x20008 0].find? (fun a => a.job == 0 && a.va == 0x100008 && a.fmt == 0) = some (AccT.empty 0 0x100008 0x20008 0)) := by
  refine ⟨⟨by decide, ⟨_, rfl⟩, by decide, by decide, rfl⟩, ?_, ⟨_, rfl⟩, ⟨_, rfl⟩, by decide, by decide, by decide⟩
  intro k hk
  simp only [List.mem_cons, List.mem_nil_iff, or_false] at hk
  rcases hk with rfl | rfl | rfl <;> exact ⟨by decide, by decide, by decide, by decide, by decide⟩
/-- A move whose change's markers are under way, or not; one copied, whose page holds a reserved target or not. -/
theorem witness_MoveSteps :
    (sp1.mayCopy mv1 = true ∧ ({ sp1 with changes := [{ id := 0, page := 0x100, n := 1, wait := [], muWait := [], back := [], olds := [] }] } : Space).mayCopy mv1 = false) ∧
    (let s (c : Bool) : State := { sma with spaces := [(0, { sp1 with moving := [{ mv1 with copied := c }] })] };
      (s false).reserved 0 (mv1.va / 4096) mv1.n = true ∧ ((s true).space 0).moveOf 0x100010 = some { mv1 with copied := true } ∧
      ({ s true with accs := [] } : State).reserved 0 (mv1.va / 4096) mv1.n = false ∧ ((s true).space 0).moveDead { mv1 with copied := true } = false) := by decide
/-- A settlement that sets W in a page of a COW object of one strong reference; a declaration whose walk meets an uncorrectable word. -/
theorem witness_CowChanges :
    (let sp := (smc 1).space 0; let old := sp.standing 4 0x180000; let e := sp.cowMask (setFld old 3 1#1)
      grants old e = true ∧ pteV old = true ∧ pteLeaf old = true ∧ pteObjv old = true ∧ pteW old = false ∧ pteW e = true ∧ (sp.objs.get {} (pteOid old)).cow = true) ∧
    ((smc 1).walkWord 0 none 0x180 = none) := by decide
/-- Host pages supplied afresh, and again; a page with a reserved target that MAP would unmap. -/
theorem witness_HostPages :
    (sh.host.bus = [] ∧ sh.hostUsed = [] ∧ (0x1000000 : Nat) + 4096 ≤ 2 ^ 52) ∧
    (let s : State := { sma with host := sh.host }; s.host.status.getLsbD 0 = true ∧ s.holdsPage 0 0x100 0x1000 128 = true ∧ sh.holdsPage 0 0x100 0x1000 128 = false) := by decide
theorem picks_some {sp : Space} (h : sp.osize < 2 ^ 24) (k : Nat) : ∃ oid size, sp.pickOid k = some (oid, size) := by
  simp only [Space.pickOid, if_pos h]
  split
  · exact ⟨_, _, rfl⟩
  · split <;> exact ⟨_, _, rfl⟩
/-- OALLOC of one byte in a space where its entry and its pages are found, and in one whose addresses are all taken. -/
theorem witness_ObjectPlaces :
    let s := soe (ob 1 5 1 0) (.oalloc Guard.always 1 1 1 0 false 0 0 1 true) 0 1
    let full : Space := { regions := [{ page := 0, n := 2 ^ 36, pte := 0 }] }
    (∃ l, s.findFrames 1 1 1 = some l) ∧ (∀ k, ∃ oid size, (s.space 0).pickOid k = some (oid, size)) ∧ (∀ first, ∃ page, (s.space 0).spot first 16 = some page) ∧
    (∀ first, full.spot first 16 = none) := by
  refine ⟨⟨_, rfl⟩, ?_, ?_, ?_⟩
  · exact fun k => picks_some (by decide) k
  · intro first
    apply Option.isSome_iff_exists.mp
    unfold Space.spot
    rw [List.find?_isSome]
    exact ⟨0x110, List.mem_cons_of_mem _ (by decide), by decide⟩
  · intro first
    unfold Space.spot
    rw [List.find?_eq_none]
    intro p _
    simp only [Bool.and_eq_true, decide_eq_true_eq, Bool.not_eq_true', not_and, Bool.not_eq_false, List.any_eq_true]
    intro h
    exact ⟨(0, 2 ^ 36), by decide, by simp only [Nat.zero_add]; omega⟩

end Sys2Proof.Tests
end

section
namespace Sys2Proof.Machine
open Sys2Proof Sys2Proof.Stmt

/-! ### A guard that reads false (01 R14, 03 R88) -/

/-- Every operation of a slot is an effect under its own guard, and an event's guard is the one that always reads true. -/
theorem exec_guarded (i : Instr) : i.guard = Guard.always ∨ ∃ f, ∀ s, exec i s = s.guarded i.guard f := by
  cases i with
  | add | sub | and_ | or_ | xor | shl | shr | sar | mul | mulh | mulhu | div | divu | rem | remu | min_ | max_ | minu
    | maxu | clz | popc | sext | zext | addi | andi | ori | xori | shlImm | shrImm | sarImm | movi | movhi | fadd |
    fsub | fmul | ffma | fmin | fmax | fcvtS2d | fcvtD2s | fcvtS2l | fcvtD2l | fcvtL2s | fcvtL2d | fcmpEq | fcmpLt |
    fcmpLe | fcmpUn | fclass | cmpEq | cmpNe | cmpLt | cmpGe | cmpLtu | cmpGeu | cmpBt | cmpiEq | cmpiNe | cmpiLt |
    cmpiGe | cmpiLtu | cmpiGeu | cmpiBt | plogAnd | plogOr | plogXor | plogAndn | plogOrn | plogNand | plogNor |
    plogXnor | sel | movpGet | movpPut | movpQx | movpXq | br | brx | call | ret | loop | ld | st | ldw | ldh | sth |
    aadd | amax | amin | axchg | acas | afadd | accres | accrel | fence | sync | stkwait | pwait | owait | cread |
    cwrite | trap | tret | halt | launch | talloc | tfree | tsymZero | tsymConst | tsymRamp | tsymRepeat | tprobeLo |
    tprobeHi | tretype | townGive | townTake | tflag | tld | tst | hmov | hset | hget | hmkt | hmkw | hmkv |
    portsetBind | portsetClr | portget | portadvStep | portadvSet | stgPut | stgGet | maput | patld | patsw | oalloc |
    oref | odrop | oweak | ounweak | oupg | oprio | ostat | ktclr | ktadd | ktset | ktgetNode | ktgetDepth |
    ktgetNodes | ktanc | ktpos | ktprune | wlcfg | wltpl | wlrun | wlstop | wlstat | setseq | vadd | vsub | vmul |
    vfma | vfms | vmin | vmax | vabs | vneg | vand | vor | vxor | vnot | vshl | vshr | vsar | vcmp | vsel | vmsk |
    vcvt | vclamp | vmov | vsplat | viota | vexp | vexpq | vlog2 | vrcp | vrsq | vrefineRcp | vrefineRsq | vrrot |
    vcrot | vrbc | vcbc | vrred | vcred | vrscan | vshuf | vscale | dadd | dsub | dmul | dfma | dquant | drnd | dcmp |
    dcvtTo | dcvtFrom | mcall | mclaim | mrel | mwait | pcopy | pgatherList | pgatherPairs | pscatter | preduce |
    pbcast | pfill | pinvm =>
      exact .inr ⟨_, fun _ => rfl⟩
  | _ => exact .inl rfl

/-- Settles O1: an event's guard cannot read false, and what runs under a false guard has no effect. -/
theorem guardFalseNoEffect : Obligations.GuardFalseNoEffect := by
  intro i s h
  obtain hi | ⟨f, hf⟩ := exec_guarded i
  · rw [hi, Core.guard_always] at h
    cases h
  · rw [hf, State.guarded_false h]

end Sys2Proof.Machine
end

section
namespace Sys2Proof

/-! ### Register files, fields, tables -/

@[simp] theorem Regs.get_all {α : Type} {k : Nat} (v : α) (i : BitVec k) : (Regs.all k v).get i = v :=
  Vector.getElem_replicate _

theorem Regs.get_set {α : Type} {k : Nat} (r : Regs α k) (i j : BitVec k) (v : α) :
    (Regs.set r i v).get j = if j = i then v else r.get j := by
  simp only [Regs.get, Regs.set, Vector.getElem_set, BitVec.toNat_inj, eq_comm]

theorem fldN_eq {w : Nat} (x : BitVec w) (lo n : Nat) : fldN x lo n = x.toNat / 2 ^ lo % 2 ^ n := by
  rw [fldN, Nat.shiftRight_eq_div_pow]

@[simp] theorem length_tab {α : Type} (n : Nat) (f : Nat → α) : (tab n f).length = n := by simp [tab]

theorem getD_tab {α : Type} {n k : Nat} (f : Nat → α) (d : α) (h : k < n) : (tab n f).getD k d = f k := by
  simp [tab, h]

/-! ### Packed items -/

theorem tab_congr {α : Type} {n : Nat} {f g : Nat → α} (h : ∀ k, k < n → f k = g k) : tab n f = tab n g :=
  List.map_congr_left fun k hk => h k (List.mem_range.mp hk)

theorem tab_getD {α : Type} (l : List α) (d : α) : tab l.length (fun k => l.getD k d) = l := by
  apply List.ext_getElem
  · simp [tab]
  · intro k h _
    simp_all [tab]

theorem tab_succ {α : Type} (n : Nat) (f : Nat → α) : tab (n + 1) f = f 0 :: tab n (fun k => f (k + 1)) := by
  simp [tab, List.range_succ_eq_map, Function.comp_def]

theorem packN_lt (w : Nat) (l : List Nat) : packN w l < 2 ^ (w * l.length) := by
  induction l with
  | nil => simp [packN]
  | cons x t ih =>
    have hx : x % 2 ^ w < 2 ^ w := Nat.mod_lt _ (Nat.two_pow_pos w)
    calc packN w (x :: t) < 2 ^ w + 2 ^ w * packN w t := Nat.add_lt_add_right hx _
      _ = 2 ^ w * (packN w t + 1) := by rw [Nat.mul_add, Nat.mul_one, Nat.add_comm]
      _ ≤ 2 ^ w * 2 ^ (w * t.length) := Nat.mul_le_mul_left _ ih
      _ = 2 ^ (w * (x :: t).length) := by rw [← Nat.pow_add, List.length_cons, Nat.mul_succ, Nat.add_comm]

theorem itemN_packN (w : Nat) (l : List Nat) (i : Nat) : itemN w (packN w l) i = l.getD i 0 % 2 ^ w := by
  induction l generalizing i with
  | nil => simp [packN, itemN]
  | cons x t ih =>
    cases i with
    | zero => simp [packN, itemN]
    | succ i =>
      have hx : x % 2 ^ w < 2 ^ w := Nat.mod_lt _ (Nat.two_pow_pos w)
      have hs : packN w (x :: t) >>> w = packN w t := by
        rw [Nat.shiftRight_eq_div_pow, packN, Nat.add_mul_div_left _ _ (Nat.two_pow_pos w), Nat.div_eq_of_lt hx, Nat.zero_add]
      rw [List.getD_cons_succ, ← ih, itemN, itemN, Nat.mul_succ, Nat.add_comm, Nat.shiftRight_add, hs]

/-- A number is what its items pack to. -/
theorem packN_items {w n v : Nat} (h : v < 2 ^ (w * n)) : packN w (tab n (itemN w v)) = v := by
  induction n generalizing v with
  | zero => simp_all [tab, packN]
  | succ n ih =>
    have hlt : v >>> w < 2 ^ (w * n) := by
      rw [Nat.shiftRight_eq_div_pow]
      exact Nat.div_lt_of_lt_mul (by rwa [← Nat.pow_add, Nat.add_comm, ← Nat.mul_succ])
    have hitems : (fun k => itemN w v (k + 1)) = itemN w (v >>> w) := by
      funext k
      rw [itemN, itemN, ← Nat.shiftRight_add, Nat.mul_succ, Nat.add_comm]
    rw [tab_succ, packN, hitems, ih hlt, itemN, Nat.mul_zero, Nat.shiftRight_zero, Nat.mod_mod, Nat.shiftRight_eq_div_pow]
    exact Nat.mod_add_div v (2 ^ w)

/-! ### Runs of a sparse array -/

theorem Sparse.getMany_eq_tab {α : Type} (d : α) (m : Sparse α) (i n : Nat) : Sparse.getMany d m i n = tab n (fun k => m.get d (i + k)) := by
  induction n generalizing i with
  | zero => rfl
  | succ n ih =>
    rw [Sparse.getMany, tab_succ, ih]
    congr 2
    funext k
    congr 1
    omega

theorem Sparse.getMany_setMany_same {α : Type} [DecidableEq α] {d : α} {m : Sparse α} (hm : Sparse.wf d m = true) (i : Nat) (l : List α) :
    Sparse.getMany d (Sparse.setMany d m i l) i l.length = l := by
  rw [Sparse.getMany_eq_tab]
  refine (tab_congr fun k hk => ?_).trans (tab_getD l d)
  rw [Sparse.get_setMany hm, if_pos (by omega), Nat.add_sub_cancel_left]

theorem Sparse.getMany_setMany_apart {α : Type} [DecidableEq α] {d : α} {m : Sparse α} (hm : Sparse.wf d m = true)
    (i : Nat) (l : List α) {j n : Nat}
    (h : j + n ≤ i ∨ i + l.length ≤ j) : Sparse.getMany d (Sparse.setMany d m i l) j n = Sparse.getMany d m j n := by
  rw [Sparse.getMany_eq_tab, Sparse.getMany_eq_tab]
  refine tab_congr fun k hk => ?_
  rw [Sparse.get_setMany hm, if_neg (by omega)]

end Sys2Proof
end

section
namespace Sys2Proof.Machine
open Sys2Proof Sys2Proof.Stmt

/-! ### The reset state (01 R12 to R14, 20 R428) -/

theorem x_reset (i : XReg) : Core.reset.x i = 0 := by
  simp [Core.x, Core.reset, Arch.reset]

theorem q_reset (i : QReg) : Core.reset.q i = decide (i = 0) := by
  simp [Core.q, Core.reset, Arch.reset, Regs.get_set]

/-- The free map of a core at reset is one run, the whole scratchpad. -/
theorem freeAt_reset (g : Nat) : FreeAt Core.reset g ↔ g < 14336 := by
  simp [FreeAt, Core.reset]

/-- Settles O60, register files and free map by their own lemmas, every other field by its definition. -/
theorem resetState : Obligations.ResetState :=
  ⟨rfl, rfl, rfl, rfl, rfl, rfl, rfl, rfl, rfl, x_reset, q_reset, fun _ => rfl, freeAt_reset, rfl, rfl, rfl, rfl, rfl,
    rfl, rfl, rfl, fun _ => rfl⟩

end Sys2Proof.Machine
end

section
namespace Sys2Proof.Machine
open Sys2Proof Sys2Proof.Stmt

/-! ### Token-tree operations at issue (06 R207 to R209) -/

/-- Where the handle names an owned tile of the format, the operation goes on with that tile. -/
theorem State.treeTile_owned {s : State} {ha : HReg} {fmt : Fmt} {f : Nat → State} (hk : (s.core.h ha).kind = 1)
    (he : (s.core.tile (s.core.h ha).tix).kind ≠ 0) (ho : (s.core.tile (s.core.h ha).tix).own = 0)
    (hf : (s.core.tile (s.core.h ha).tix).fmt = fmt.code) : s.treeTile ha fmt f = f (s.core.h ha).tix := by
  simp [State.treeTile, State.onTile, State.owned, State.alive, hk, he, ho, hf]

/-- Where nothing must be promoted, the rows are written 3 cycles later and no detection of the tile is pending. -/
theorem State.treeWrite_of_stored {s : State} {t : Nat} (els : List Nat) (p : Option (XReg × Word)) (h : s.core.mustPromote [t] = false) :
    s.treeWrite t els p = (s.onCore (fun c => c.cancel t)).sched 3 (.rows t els p) := by
  simp [State.treeWrite, State.promoting, h]

/-- KTADD: a full file or a parent that may not be one raises TREE; else the node and its index are written. -/
theorem exec_ktadd_true {s : State} {g : Guard} (d b c : XReg) (hg : s.core.guard g = true) :
    let n := s.core.nextNode
    let i := (s.core.x b).toNat % 256
    exec (.ktadd g d b c) s = .next (if n = 256 ∨ (i ≠ 255 ∧ (n ≤ i ∨ s.core.valid i = false)) then s.trapTree n
      else (s.sched 3 (.node n (BitVec.ofNat 64 (2 ^ 63 + i * 2 ^ 48 + (s.core.x c).toNat % 2 ^ 48)))).sched 3 (.x d (BitVec.ofNat 64 n))) := by
  simp only [exec_ktadd, execKtadd, State.guarded_true hg, Core.nodeIx, State.schedX, Bool.not_eq_true']

/-- KTSET: a node that becomes valid needs a parent that may be one, a node that becomes invalid may be no valid node's
parent; else TREE. -/
theorem exec_ktset_true {s : State} {g : Guard} (b c : XReg) (hg : s.core.guard g = true) :
    let i := (s.core.x b).toNat % 256
    let w := s.core.x c &&& 0x80FFFFFFFFFFFFFF
    let p := w.toNat / 2 ^ 48 % 256
    exec (.ktset g b c) s = .next (
      if w.getLsbD 63 = true then (if p ≠ 255 ∧ (i ≤ p ∨ s.core.valid p = false) then s.trapTree i else s.sched 3 (.node i w))
      else if i ≠ 255 ∧ (∃ j ∈ s.core.nodes, nodeParent (s.core.node j) = i) then s.trapTree i else s.sched 3 (.node i w)) := by
  simp only [exec_ktset, execKtset, State.guarded_true hg, Core.nodeIx, nodeValid, bitAt, Bool.not_eq_true', List.any_eq_true,
    beq_iff_eq, nodeParent, fldN_eq] <;> rfl

section
variable {s : State} {g : Guard} {ha : HReg} (hg : s.core.guard g = true) (hk : (s.core.h ha).kind = 1)
  (he : (s.core.tile (s.core.h ha).tix).kind ≠ 0) (ho : (s.core.tile (s.core.h ha).tix).own = 0)
  (hp : s.core.mustPromote [(s.core.h ha).tix] = false)
include hg hk he ho hp

/-- KTANC writes 16 rows of 64 ancestor bits. -/
theorem exec_ktanc_true (b c : XReg) (hf : (s.core.tile (s.core.h ha).tix).fmt = Fmt.mask1.code) :
    exec (.ktanc g ha b c) s = .next ((s.onCore (fun c => c.cancel (s.core.h ha).tix)).sched 3
      (.rows (s.core.h ha).tix (tab 1024 (fun k =>
        if s.core.anc (fldN (s.core.x b) 4 4 * 16 + k / 64) (fldN (s.core.x c) 6 2 * 64 + k % 64) then 1 else 0)) none)) := by
  rw [exec_ktanc, execKtanc, State.guarded_true hg, State.treeTile_owned hk he ho hf, State.treeWrite_of_stored _ _ hp]

/-- KTPOS writes the positions of the 256 nodes. -/
theorem exec_ktpos_true (b : XReg) (hf : (s.core.tile (s.core.h ha).tix).fmt = Fmt.int32.code) :
    exec (.ktpos g ha b) s = .next ((s.onCore (fun c => c.cancel (s.core.h ha).tix)).sched 3
      (.rows (s.core.h ha).tix (tab 1024 (fun k =>
        if k < 256 then (if s.core.valid k then ((s.core.x b).toNat + s.core.depth k) % 2 ^ 32 else 0xFFFFFFFF) else 0)) none)) := by
  rw [exec_ktpos, execKtpos, State.guarded_true hg, State.treeTile_owned hk he ho hf, State.treeWrite_of_stored _ _ hp]

/-- KTPRUNE writes the path to a valid leaf and its length; another leaf raises TREE. -/
theorem exec_ktprune_true (d b c : XReg) (hf : (s.core.tile (s.core.h ha).tix).fmt = Fmt.int32.code) :
    let i := (s.core.x b).toNat % 256
    exec (.ktprune g d ha b c) s = .next (if s.core.valid i = false then s.trapTree i else
      (s.onCore (fun c => c.cancel (s.core.h ha).tix)).sched 3
        (.rows (s.core.h ha).tix (s.core.pruneEls i (s.core.x c)) (some (d, BitVec.ofNat 64 (s.core.treePath 256 i).length)))) := by
  simp only [exec_ktprune, execKtprune, State.guarded_true hg, State.treeTile_owned hk he ho hf, State.treeWrite_of_stored _ _ hp,
    Core.nodeIx, Bool.not_eq_true']

end

/-- The elements of KTPRUNE: path slots and positions in pairs, then the slots of the rejected nodes, then zeros. -/
theorem getD_pruneEls (c : Core) (a : Nat) (p : Word) (k : Nat) (hk : k < 256) :
    let path := c.treePath 256 a
    let gone := c.nodes.filter (fun j => !path.contains j)
    (c.pruneEls a p).getD (2 * k) 0 = (if k < path.length then nodeSlot (c.node (path.getD k 0)) else 0xFFFFFFFF) ∧
    (c.pruneEls a p).getD (2 * k + 1) 0 = (if k < path.length then (p.toNat + k) % 2 ^ 32 else 0xFFFFFFFF) ∧
    (c.pruneEls a p).getD (512 + k) 0 = (if k < gone.length then nodeSlot (c.node (gone.getD k 0)) else 0xFFFFFFFF) ∧
    (c.pruneEls a p).getD (768 + k) 0 = 0 := by
  have h1 : (2 * k + 1) / 2 = k := by omega
  have h2 : 2 * k + 1 < 512 := by omega
  have h3 : 2 * k < 512 := by omega
  have h4 : ¬ 512 + k < 512 ∧ 512 + k < 768 := by omega
  have h5 : ¬ 768 + k < 512 ∧ ¬ 768 + k < 768 := by omega
  refine ⟨?_, ?_, ?_, ?_⟩ <;> rw [Core.pruneEls, getD_tab _ _ (by omega)]
  · simp [h3]
  · simp [h1, h2]
  · simp only [h4, if_true, if_false, Nat.add_sub_cancel_left]
  · simp only [h5, if_false]

theorem treeOperations : Sys2Proof.Stmt.TreeOperations := by
  intro s g ha d b c hg node valid i n w p leafTree put
  have hadd := exec_ktadd_true d b c hg
  have hset := exec_ktset_true b c hg
  have hslot (k : Nat) : nodeSlot (node k) = (node k).toNat / 2 ^ 32 % 2 ^ 16 := fldN_eq _ _ _
  refine ⟨?_, fun hn hi => ?_, fun hbad => ?_, fun hw hi => ?_, fun hw hp hbad => ?_, fun hw hi => ?_, fun hw hi hj => ?_, ?_, ?_, ?_,
    fun hk he ho hp => ⟨fun hf => ?_, fun hf => ?_, fun hf hv => ?_, fun hf hv => ?_⟩⟩
  · rw [exec_ktclr, execKtclr, State.guarded_true hg]
  · have hok : ¬ (n = 256 ∨ (i ≠ 255 ∧ (n ≤ i ∨ valid i = false))) := by grind
    exact hadd.trans (congrArg Host.Outcome.next (if_neg hok))
  · exact hadd.trans (congrArg Host.Outcome.next (if_pos hbad))
  · have hok : ¬ (p ≠ 255 ∧ (i ≤ p ∨ valid p = false)) := by grind
    exact hset.trans (congrArg Host.Outcome.next ((if_pos hw).trans (if_neg hok)))
  · exact hset.trans (congrArg Host.Outcome.next ((if_pos hw).trans (if_pos ⟨hp, hbad⟩)))
  · have hok : ¬ (i ≠ 255 ∧ ∃ j ∈ s.core.nodes, nodeParent (node j) = i) := by
      simp only [nodeParent, fldN_eq]
      grind
    exact hset.trans (congrArg Host.Outcome.next ((if_neg (ne_true_of_eq_false hw)).trans (if_neg hok)))
  · have hbad : i ≠ 255 ∧ ∃ j ∈ s.core.nodes, nodeParent (node j) = i :=
      ⟨hi, by simpa only [nodeParent, fldN_eq, Nat.reducePow] using hj⟩
    exact hset.trans (congrArg Host.Outcome.next ((if_neg (ne_true_of_eq_false hw)).trans (if_pos hbad)))
  · rw [exec_ktgetNode, execKtgetNode, State.guarded_true hg]; rfl
  · rw [exec_ktgetDepth, execKtgetDepth, State.guarded_true hg]; rfl
  · rw [exec_ktgetNodes, execKtgetNodes, State.guarded_true hg]; rfl
  · refine ⟨_, exec_ktanc_true hg hk he ho hp b c hf, length_tab _ _, fun r k hr hk => ?_⟩
    have hrow : (64 * r + k) / 64 = r := by omega
    have hcol : (64 * r + k) % 64 = k := by omega
    rw [getD_tab _ _ (by omega), hrow, hcol, BitVec.extractLsb'_toNat, BitVec.extractLsb'_toNat]
    rfl
  · exact ⟨_, exec_ktpos_true hg hk he ho hp b hf, length_tab _ _, fun k hk => getD_tab _ _ hk⟩
  · exact (exec_ktprune_true hg hk he ho hp d b c hf).trans (congrArg Host.Outcome.next (if_pos hv))
  · refine ⟨s.core.pruneEls i (s.core.x c),
      (exec_ktprune_true hg hk he ho hp d b c hf).trans (congrArg Host.Outcome.next (if_neg (ne_false_of_eq_true hv))),
      length_tab _ _, fun k hk => ?_⟩
    simp only [← hslot]
    exact getD_pruneEls s.core i (s.core.x c) k hk

/-! ### Ancestors (01 R40, 06 R209) -/

section
variable {c : Core} (hc : ∀ i : Nat, i < 256 → c.valid i = true →
  nodeParent (c.node i) = 255 ∨ (nodeParent (c.node i) < i ∧ c.valid (nodeParent (c.node i)) = true))
include hc

/-- Fuel above a valid node's index does not matter: parents lie below their children. -/
theorem Core.treePath_fuel {i : Nat} (hi : i < 256) (hv : c.valid i = true) {f f' : Nat} (h : i < f) (h' : i < f') :
    c.treePath f i = c.treePath f' i := by
  induction i using Nat.strongRecOn generalizing f f' with
  | ind i ih =>
    obtain ⟨f, rfl⟩ := Nat.exists_eq_succ_of_ne_zero (show f ≠ 0 by omega)
    obtain ⟨f', rfl⟩ := Nat.exists_eq_succ_of_ne_zero (show f' ≠ 0 by omega)
    rw [Core.treePath, Core.treePath]
    split
    · rfl
    · rename_i hp
      obtain hr | ⟨hlt, hpv⟩ := hc i hi hv
      · exact absurd hr hp
      · rw [ih _ hlt (by omega) hpv (show _ < f by omega) (show _ < f' by omega)]

/-- The path of a child is the path of its parent and then the child. -/
theorem Core.treePath_child {i : Nat} (hi : i < 256) (hv : c.valid i = true) (hp : nodeParent (c.node i) ≠ 255) :
    c.treePath 256 i = c.treePath 256 (nodeParent (c.node i)) ++ [i] := by
  obtain hr | ⟨hlt, hpv⟩ := hc i hi hv
  · exact absurd hr hp
  · rw [Core.treePath, if_neg hp, Core.treePath_fuel hc (by omega) hpv (show _ < 255 by omega) (show _ < 256 by omega)]

end

theorem Core.treePath_root {c : Core} {i : Nat} (hp : nodeParent (c.node i) = 255) : c.treePath 256 i = [i] := by
  rw [Core.treePath, if_pos hp]

theorem Core.treePath_ne_nil (c : Core) (f i : Nat) : c.treePath (f + 1) i ≠ [] := by
  rw [Core.treePath]
  split <;> simp

theorem treeAncestors : Sys2Proof.Stmt.TreeAncestors := by
  intro c hc i j hi _
  refine ⟨fun hv => by simp [Core.anc, Core.depth, hv], fun hv => ⟨fun hp => ?_, fun hp => ?_⟩⟩
  · have hpath := Core.treePath_root hp
    refine ⟨?_, ?_, hpath⟩
    · simp [Core.anc, hv, hpath]
    · simp [Core.depth, hv, hpath]
  · have hpath := Core.treePath_child hc hi hv hp
    have hpv : c.valid (nodeParent (c.node i)) = true := by
      obtain hr | ⟨-, hpv⟩ := hc i hi hv
      · exact absurd hr hp
      · exact hpv
    have hpos : 0 < (c.treePath 256 (nodeParent (c.node i))).length := List.length_pos_iff.mpr (c.treePath_ne_nil 255 _)
    refine ⟨?_, ?_, hpath⟩
    · simp [Core.anc, hv, hpath, hpv, Bool.or_comm]
    · simp [Core.depth, hv, hpath, hpv]
      omega

/-- Settles O30. -/
theorem tokenTree : Obligations.TokenTree := ⟨treeOperations, treeAncestors⟩

end Sys2Proof.Machine
end

section
namespace Sys2Proof.Machine
open Sys2Proof Sys2Proof.Stmt

/-! ### Bookkeeping of translation, latency and hotness (13 R346, R354; log 3) -/

/-- `t` is `s` but for what translating and timing an access may change: translation caches, walks under way, the place in the free
stream, hotness counters, fault records and what Shogiwald is told. -/
def Booked (s t : State) : Prop :=
  ∃ tlb wtlb walks free hot faults notes,
    t = { s with core := { s.core with tlb := tlb }, wtlb := wtlb, walks := walks, free := free, hot := hot, faults := faults, notes := notes }

theorem Booked.refl (s : State) : Booked s s := ⟨_, _, _, _, _, _, _, rfl⟩

theorem Booked.trans {s t u : State} (h : Booked s t) (h' : Booked t u) : Booked s u := by
  obtain ⟨_, _, _, _, _, _, _, rfl⟩ := h
  obtain ⟨_, _, _, _, _, _, _, rfl⟩ := h'
  exact ⟨_, _, _, _, _, _, _, rfl⟩

theorem Booked.ite {s t u : State} {p : Prop} [Decidable p] (h : Booked s t) (h' : Booked s u) : Booked s (if p then t else u) := by
  split
  · exact h
  · exact h'

theorem Booked.foldl {α : Type} {f : State → α → State} (hf : ∀ s a, Booked s (f s a)) (l : List α) (s : State) :
    Booked s (l.foldl f s) := by
  induction l generalizing s with
  | nil => exact .refl s
  | cons a l ih => exact (hf s a).trans (ih _)

theorem State.drawIn_booked (s : State) (lo hi : Nat) : Booked s (s.drawIn lo hi).2 := ⟨_, _, _, _, _, _, _, rfl⟩

theorem State.fillTlb_booked (s : State) (page : Nat) : Booked s (s.fillTlb page) := by
  simp only [State.fillTlb]
  split
  · exact ⟨_, _, _, _, _, _, _, rfl⟩
  · exact ⟨_, _, _, _, _, _, _, rfl⟩

theorem State.walkLat_booked (s : State) (page : Nat) : Booked s (s.walkLat page).2 := by
  unfold State.walkLat
  split
  · exact .refl s
  · split
    · exact .refl s
    · split
      · exact .refl s
      · exact ⟨_, _, _, _, _, _, _, rfl⟩

theorem State.translate_booked (s : State) (page : Nat) : Booked s (s.translate page).2 := by
  have h := s.walkLat_booked page
  simp only [State.translate]
  split
  · exact h
  · exact h.trans (State.fillTlb_booked _ page)

theorem State.translateAll_booked (s : State) (va n : Nat) : Booked s (s.translateAll va n).2 := by
  have all : ∀ (l : List Nat) (x : Nat × State), Booked x.2 (l.foldl (fun x k =>
      let (m, s) := x.2.translate (va / 4096 + k)
      (max x.1 m, s)) x).2 := by
    intro l
    induction l with
    | nil => exact fun x => .refl x.2
    | cons k l ih => exact fun x => (State.translate_booked x.2 (va / 4096 + k)).trans (ih (_, _))
  exact all _ (0, s)

theorem State.drawLat_booked (s : State) (va w : Nat) (e : BitVec 128) : Booked s (s.drawLat va w e).2 :=
  (s.drawIn_booked 28 (leafLat e)).trans (State.translateAll_booked _ va w)

theorem State.hotRequest_booked (tier : Nat) (s : State) (block : Nat) : Booked s (State.hotRequest tier s block) := by
  simp only [State.hotRequest]
  split
  · exact .refl s
  · exact .ite ⟨_, _, _, _, _, _, _, rfl⟩ ⟨_, _, _, _, _, _, _, rfl⟩

theorem State.countLeaf_booked (s : State) (e : BitVec 128) (l : List (Nat × Nat)) : Booked s (s.countLeaf e l) := by
  unfold State.countLeaf
  split
  · exact Booked.foldl (State.hotRequest_booked _) _ s
  · exact .refl s

theorem State.countHot_booked (s : State) (asid : Nat) (agent : Option Nat) (va n : Nat) : Booked s (s.countHot asid agent va n) := by
  unfold State.countHot
  split
  · exact .refl s
  · refine Booked.foldl (fun s k => ?_) _ s
    dsimp only
    split
    · exact s.countLeaf_booked _ _
    · exact .refl s

theorem State.noteFault_booked (s : State) (va : Nat) (kind : AccKind) (cls : Nat) (id : Option Nat) :
    Booked s (s.noteFault va kind cls id) := by
  simp only [State.noteFault]
  split
  · exact ⟨_, _, _, _, _, _, _, rfl⟩
  · exact ⟨_, _, _, _, _, _, _, rfl⟩

/-! ### Accesses that retire at issue (01 R44, 05 R151, R157, R158) -/

/-- Outside a pair an effect is performed as new, and nothing is signed or logged (17 R409). -/
theorem State.effect_plain {s : State} (hp : s.core.r.prot = false) (op addr : Nat) (src : List Nat) (new : State → State)
    (old : LogEntry → State → State) : s.effect op addr src new old = new s := by
  simp [State.effect, State.replayed, State.onCore, Core.sign, Core.logNew, hp]

theorem State.eaOk_good {s : State} {ea : Word} {align : Nat} {f : Nat → State} (hi : ea.toNat < 2 ^ 48) (ha : ea.toNat % align = 0) :
    s.eaOk ea align f = f ea.toNat := by
  rw [State.eaOk, if_neg (by omega), if_neg (by omega)]

section
variable {s : State} {k : MuKind} {cls : Cls} {strong : Bool} {n data op va lo hi : Nat} {whole : Bool} (hc : s.core.r.chk = false)
include hc

/-- With a mapped page and no entry of the sump before it, the access enters the memory unit after a drawn latency. -/
theorem State.storeOp_mapped {l : List (Nat × Nat)} {e : BitVec 128} (hm : s.core.mustSump cls.toNat s.core.iss.seq = false)
    (hr : s.reach s.core.task.asid none va n true (some s.core.iss.seq) = .ok l false e) :
    ∃ t ready, Booked s t ∧ s.cycle ≤ ready ∧
      s.storeOp { kind := k, cls := cls, strong := strong, width := n, data := data, op := op } va whole lo hi =
        t.pushMem { kind := k, cls := cls, strong := strong, width := n, data := data, op := op } va l ready none := by
  have go (x : Nat × State) (m : Nat) (hx : Booked s x.2) : ∃ t ready, Booked s t ∧ s.cycle ≤ ready ∧
      (x.2.countHot x.2.core.task.asid none va n).pushMem { kind := k, cls := cls, strong := strong, width := n, data := data, op := op } va l
        (x.2.cycle + x.1 + m + x.2.core.release) none =
      t.pushMem { kind := k, cls := cls, strong := strong, width := n, data := data, op := op } va l ready none := by
    refine ⟨_, _, hx.trans (x.2.countHot_booked _ none va n), ?_, rfl⟩
    obtain ⟨_, _, _, _, _, _, _, hx⟩ := hx
    rw [hx]
    exact Nat.le_add_right_of_le (Nat.le_add_right_of_le (Nat.le_add_right _ _))
  by_cases hh : hi = 0
  · simp only [State.storeOp, hc, hr, aliasOf, hm, hh, Bool.false_and, if_false, if_true, Bool.false_eq_true]
    exact go (s.drawLat va n e) 0 (s.drawLat_booked va n e)
  · simp only [State.storeOp, hc, hr, aliasOf, hm, hh, Bool.false_and, if_false, Bool.false_eq_true]
    exact go ((s.drawIn lo hi).1, ((s.drawIn lo hi).2.translateAll va n).2) ((s.drawIn lo hi).2.translateAll va n).1
      ((s.drawIn_booked lo hi).trans (State.translateAll_booked _ va n))

/-- With a mapping that waits for Shogiwald, the access enters the sump after its fault is on record. -/
theorem State.storeOp_waiting {a : Ask} {v : Nat} (hr : s.reach s.core.task.asid none va a.width true (some s.core.iss.seq) = .wait v) :
    s.storeOp a va whole lo hi = (s.noteFault v a.accKind a.cls.toNat (some s.core.iss.seq)).enterSump a va := by
  simp [State.storeOp, hc, hr]

end

theorem State.pushMem_entered {s t : State} (h : Booked s t) (a : Ask) (va : Nat) (l : List (Nat × Nat)) {ready : Nat} (hr : s.cycle ≤ ready) :
    Entered s (t.pushMem a va l ready none) (Stmt.Access s a.kind a.cls a.strong va a.width a.data l) := by
  obtain ⟨_, _, _, _, _, _, _, rfl⟩ := h
  exact ⟨_, rfl, rfl, rfl, ⟨rfl, rfl, rfl, rfl, rfl, rfl, rfl, hr⟩, rfl, rfl, rfl, rfl, rfl, rfl, fun _ => rfl⟩

theorem State.enterSump_sumped {s t : State} (h : Booked s t) (a : Ask) (va : Nat) (room : s.core.sump.length < 64) :
    Sumped s (t.enterSump a va)
      (fun e => e.kind = a.kind ∧ e.cls = a.cls.toNat ∧ e.va = va ∧ e.width = a.width ∧ e.data = a.data) := by
  obtain ⟨_, _, _, _, _, _, _, rfl⟩ := h
  rw [State.enterSump, if_neg (Nat.not_le.mpr room)]
  exact ⟨_, rfl, rfl, rfl, ⟨rfl, rfl, rfl, rfl, rfl⟩, rfl, rfl, rfl, rfl, rfl, fun _ => rfl⟩

theorem accSize_eq (f : BitVec 2) : accSize f.toNat = if f = 0 then 4 else if f = 1 then 8 else 2 := by
  revert f; decide

/-- The instruction is, at an address that its alignment allows, one access that retires at issue. -/
def RetiresAtIssue (s : State) (i : Instr) (ea : Word) (align n : Nat) (strong : Bool) (k : MuKind) (cls : Cls) (data : Nat) : Prop :=
  ea.toNat < 2 ^ 48 → ea.toNat % align = 0 → ∃ op whole lo hi,
    exec i s = .next (s.storeOp { kind := k, cls := cls, strong := strong, width := n, data := data, op := op } ea.toNat whole lo hi)

section
variable {s : State} {g : Guard} (hg : s.core.guard g = true) (hp : s.core.r.prot = false)
include hg hp

theorem retires_st (st : Bool) (w : BitVec 2) (d a : XReg) (cls : Cls) (imm : BitVec 32) :
    RetiresAtIssue s (.st g st w d a cls imm) (s.core.x a + imm.signExtend 64) (if st then 2 ^ w.toNat else 1) (2 ^ w.toNat) st .store cls
      ((s.core.x d).toNat % 2 ^ (8 * 2 ^ w.toNat)) := fun hi ha =>
  ⟨0x51, false, 0, 0, by
    rw [exec_st, execSt, State.guarded_true hg]
    exact congrArg _ ((State.eaOk_good hi ha).trans (State.effect_plain hp ..))⟩

theorem retires_sth (st : Bool) (h : HReg) (a : XReg) (cls : Cls) (off : BitVec 20) :
    RetiresAtIssue s (.sth g st h a cls off) (s.core.x a + off.signExtend 64) 32 32 st .store cls (s.core.h h).toNat := fun hi ha =>
  ⟨0x54, true, 0, 0, by
    rw [exec_sth, execSth, State.guarded_true hg]
    exact congrArg _ ((State.eaOk_good hi ha).trans (State.effect_plain hp ..))⟩

omit hg in
/-- An atomic without a destination. -/
theorem retires_atomic {i : Instr} {op k : Nat} {u w64 : Bool} {a b : XReg} {cls : Cls}
    (h : exec i s = .next (s.atomicOp op k u w64 0 a b cls)) :
    RetiresAtIssue s i (s.core.x a) (if w64 then 8 else 4) (if w64 then 8 else 4) true (.atomic k u 0 0) cls
      ((s.core.x b).toNat % 2 ^ (8 * (if w64 then 8 else 4))) := fun hi ha =>
  ⟨op, true, 0, 0, by
    rw [h, State.atomicOp, State.eaOk_good hi ha, State.effect_plain hp]
    rfl⟩

/-- AFADD outside the ranges of other formats, and outside a deterministic job or inside a range of its own format. -/
theorem retires_afadd (f : BitVec 2) (a b : XReg) (cls : Cls) (exact_ : Bool)
    (ho : s.core.ranges.any (fun r => meets r.1 r.2.1 (s.core.x a).toNat (accSize f.toNat) && r.2.2 != f.toNat) = false)
    (he : s.core.ranges.any (fun r => meets r.1 r.2.1 (s.core.x a).toNat (accSize f.toNat) && r.2.2 == f.toNat) = exact_)
    (hd : s.core.r.det = false ∨ exact_ = true) :
    RetiresAtIssue s (.afadd g f a b cls) (s.core.x a) (accSize f.toNat) (accSize f.toNat) true (.afadd f.toNat exact_) cls
      ((s.core.x b).toNat % 2 ^ (8 * accSize f.toNat)) := fun hi ha =>
  ⟨0x65, true, 40, 130, by
    have hn : ¬ (!exact_ && s.core.r.det) = true := by cases hd <;> simp [*]
    rw [exec_afadd, execAfadd, State.guarded_true hg]
    refine congrArg _ ((State.eaOk_good hi ha).trans ?_)
    dsimp only
    rw [ho, he, if_neg Bool.false_ne_true, if_neg hn]
    exact State.effect_plain hp ..⟩

end

/-- What an access that retires at issue does: into the memory unit with its data, or into the sump. -/
theorem RetiresAtIssue.outcome {s : State} {i : Instr} {ea : Word} {align n data : Nat} {strong : Bool} {k : MuKind} {cls : Cls}
    (h : RetiresAtIssue s i ea align n strong k cls data) (hc : s.core.r.chk = false) (hi : ea.toNat < 2 ^ 48) (ha : ea.toNat % align = 0) :
    (∀ l, s.core.mustSump cls.toNat s.core.iss.seq = false → Writes s ea.toNat n l →
      ∃ t, exec i s = .next t ∧ Entered s t (Stmt.Access s k cls strong ea.toNat n data l)) ∧
    (s.core.sump.length < 64 → (∃ v, s.reach s.core.task.asid none ea.toNat n true (some s.core.iss.seq) = .wait v) →
      ∃ t, exec i s = .next t ∧ Sumped s t (fun e =>
        e.kind = k ∧ e.cls = cls.toNat ∧ e.va = ea.toNat ∧ e.width = n ∧ e.data = data)) := by
  obtain ⟨op, whole, lo, up, he⟩ := h hi ha
  constructor
  · rintro l hm ⟨e, hr⟩
    obtain ⟨t, ready, hb, hle, ht⟩ := State.storeOp_mapped (k := k) (strong := strong) (data := data) (op := op) (whole := whole) (lo := lo)
      (hi := up) hc hm hr
    exact ⟨_, he.trans (congrArg _ ht), State.pushMem_entered hb _ _ l hle⟩
  · rintro room ⟨v, hr⟩
    exact ⟨_, he.trans (congrArg _ (State.storeOp_waiting hc hr)), State.enterSump_sumped (s.noteFault_booked ..) _ _ room⟩

/-- Settles O16: each of the eight forms retires at issue. -/
theorem storesRetireAtIssue : Obligations.StoresRetireAtIssue := by
  intro s g st w d a b h cls imm off w64 u f l hg hplain n size fl ex forms x hx hi ha hex
  obtain ⟨hp, hc⟩ := hplain
  suffices hr : RetiresAtIssue s x.1 x.2.1 x.2.2.1 x.2.2.2.1 x.2.2.2.2.1 x.2.2.2.2.2.1 cls x.2.2.2.2.2.2 from
    ⟨(hr.outcome hc hi ha).1 l, (hr.outcome hc hi ha).2⟩
  simp only [forms, List.mem_cons, List.not_mem_nil, or_false] at hx
  rcases hx with rfl | rfl | rfl | rfl | rfl | rfl | rfl | rfl
  · exact retires_st hg hp st w d a cls imm
  · exact retires_sth hg hp st h a cls off
  · exact retires_atomic hp ((exec_aadd ..).trans (State.guarded_true hg))
  · exact retires_atomic hp ((exec_amax ..).trans (State.guarded_true hg))
  · exact retires_atomic hp ((exec_amin ..).trans (State.guarded_true hg))
  · exact retires_atomic hp ((exec_axchg ..).trans (State.guarded_true hg))
  · exact retires_atomic hp ((exec_acas ..).trans (State.guarded_true hg))
  · obtain ⟨ho, hd⟩ := hex rfl
    have hf : fl = accSize f.toNat := (accSize_eq f).symm
    have hretires := retires_afadd hg hp f a b cls (ex (s.core.x a).toNat)
    rw [← hf] at hretires
    exact hretires ho rfl hd

end Sys2Proof.Machine
end

section
namespace Sys2Proof.Machine
open Sys2Proof Sys2Proof.Stmt

/-! ### The free map (01 R33) -/

/-- Granule g lies in one of the runs. -/
def InRuns (l : List (Nat × Nat)) (g : Nat) : Prop := ∃ r ∈ l, r.1 ≤ g ∧ g < r.2

theorem freeAt_iff_inRuns (c : Core) (g : Nat) : FreeAt c g ↔ InRuns c.free g := Iff.rfl

theorem inRuns_nil (g : Nat) : ¬ InRuns [] g := by simp [InRuns]

theorem inRuns_cons (r : Nat × Nat) (l : List (Nat × Nat)) (g : Nat) : InRuns (r :: l) g ↔ (r.1 ≤ g ∧ g < r.2) ∨ InRuns l g := by
  simp [InRuns]

/-- Returned granules are free, and no other granule becomes free or taken. -/
theorem inRuns_freeRun {l : List (Nat × Nat)} (hl : ∀ r ∈ l, r.1 < r.2) {lo hi : Nat} (h : lo < hi) (g : Nat) :
    InRuns (freeRun l lo hi) g ↔ InRuns l g ∨ (lo ≤ g ∧ g < hi) := by
  induction l with
  | nil => simp [freeRun, h, inRuns_cons, inRuns_nil]
  | cons r t ih =>
    obtain ⟨a, b⟩ := r
    have hab : a < b := hl (a, b) List.mem_cons_self
    have ht := ih fun r hr => hl r (List.mem_cons_of_mem _ hr)
    unfold freeRun
    split
    · omega
    · split
      · grind [inRuns_cons]
      · split
        · grind [inRuns_cons]
        · split
          · cases t with
            | nil => grind [inRuns_cons, inRuns_nil]
            | cons r' t' =>
              have hr' : r'.1 < r'.2 := hl r' (by simp)
              dsimp only
              split <;> grind [inRuns_cons]
          · grind [inRuns_cons]

/-! ### The tile table (01 R32, R34, R35) -/

theorem Core.tile_setTile {c : Core} (hw : Sparse.wf {} c.tiles = true) (t j : Nat) (e : Tile) :
    (c.setTile t e).tile j = if j = t then e else c.tile j := Sparse.get_set hw t j e

theorem Core.tile_modTile {c : Core} (hw : Sparse.wf {} c.tiles = true) (t j : Nat) (f : Tile → Tile) :
    (c.modTile t f).tile j = if j = t then f (c.tile t) else c.tile j := Core.tile_setTile hw t j _

@[simp] theorem Core.tile_cancel (c : Core) (t j : Nat) : (c.cancel t).tile j = c.tile j := rfl

@[simp] theorem Core.tile_giveBack (c : Core) (e : Tile) (j : Nat) : (c.giveBack e).tile j = c.tile j := by
  rw [Core.tile, Core.giveBack_tiles]; rfl

theorem Core.dropRep_of_ne {c : Core} {e : Tile} (h : e.kind ≠ 5) : c.dropRep e = c := if_neg h

theorem Core.freegr_giveBack (c : Core) (e : Tile) : (c.giveBack e).r.freegr = c.r.freegr + e.ext := by
  unfold Core.giveBack
  split
  · simp [*]
  · rfl

theorem Core.giveBack_r (c : Core) (e : Tile) : (c.giveBack e).r = { c.r with freegr := (c.giveBack e).r.freegr } := by
  unfold Core.giveBack
  split <;> rfl

theorem Core.tileRow_of_stored {c : Core} {t : Nat} (h : (c.tile t).kind = 1) (r : Nat) : c.tileRow t r = c.storedRow (c.tile t) r := by
  simp only [Core.tileRow, h]

/-- Storage given back is free, and no other granule becomes free or taken. -/
theorem Core.freeAt_giveBack {c : Core} (hl : ∀ r ∈ c.free, r.1 < r.2) (e : Tile) (g : Nat) :
    InRuns (c.giveBack e).free g ↔ InRuns c.free g ∨ (e.base ≤ g ∧ g < e.base + e.ext) := by
  unfold Core.giveBack
  split
  · have hnone : ¬ (e.base ≤ g ∧ g < e.base + e.ext) := by omega
    exact ⟨.inl, fun h => h.resolve_right hnone⟩
  · exact inRuns_freeRun hl (by omega) g

/-! ### Changes of a tile's entry (06 R178 to R190) -/

section
variable {c : Core} {t : Nat}

/-- TALLOC of a FREE tile. -/
theorem Core.applyTile_alloc (h : (c.tile t).kind = 0) (fmt lo : Nat) (det keep : Bool) :
    c.applyTile (.alloc t fmt det keep lo) =
      { c with
        tiles := c.tiles.set {} t { kind := 1, fmt := fmt, exc := (fmtOf fmt).isBin || fmtOf fmt == .dec64, det := det, keep := keep, base := lo,
                                    ext := (fmtOf fmt).extent }
        r := { c.r with freegr := c.r.freegr - (fmtOf fmt).extent } } := by
  simp only [Core.applyTile, h]
  rfl

/-- TFREE of a tile without repeaters that is none. -/
theorem Core.applyTile_free (hr : (c.tile t).rpc = 0) (hk : (c.tile t).kind ≠ 5) :
    c.applyTile (.free t) = ((c.cancel t).giveBack (c.tile t)).setTile t {} := by
  simp only [Core.applyTile, hr, Core.dropRep_of_ne hk]
  rfl

/-- TOWN of an allocated tile. -/
theorem Core.applyTile_own (hk : (c.tile t).kind ≠ 0) (o : Nat) :
    c.applyTile (.own t o) = c.setTile t ((c.tile t).setOwn o c.iss.seq) := if_neg hk

end

/-- The storage that a symbol of a format keeps of its tile: KEEP holds it where its size suits the format (06 R181). -/
def Tile.keeps (e : Tile) (fmt : Nat) : Bool := e.keep && e.ext == (fmtOf fmt).extent

/-- The core once a tile's storage has returned for a symbol, unless the symbol keeps it; no detection of the tile is pending. -/
def Core.emptied (c : Core) (t fmt : Nat) : Core :=
  if (c.tile t).keeps fmt then c.cancel t else (c.cancel t).giveBack (c.tile t)

@[simp] theorem Core.emptied_tiles (c : Core) (t fmt : Nat) : (c.emptied t fmt).tiles = c.tiles := by
  unfold Core.emptied
  split <;> simp

@[simp] theorem Core.emptied_sp (c : Core) (t fmt : Nat) : (c.emptied t fmt).sp = c.sp := by
  unfold Core.emptied
  split <;> simp

@[simp] theorem Core.tile_emptied (c : Core) (t fmt j : Nat) : (c.emptied t fmt).tile j = c.tile j := by
  rw [Core.tile, Core.emptied_tiles]; rfl

/-- The entry of a tile that becomes a symbol. -/
def Core.symEntry (c : Core) (t fmt : Nat) (y : Sym) : Tile :=
  let e := c.tile t
  { kind := y.kind, fmt := fmt, own := e.own, gseq := e.gseq,
    exc := match y with | .const v => (fmtOf fmt).isSpecial v.toNat | .rep u => (c.tile u).exc | _ => false,
    det := e.det, keep := e.keep, base := if e.keeps fmt then e.base else 0, ext := if e.keeps fmt then e.ext else 0,
    lin := e.lin, rpc := e.rpc, rax := y.rax, val := y.val }

section
variable {c : Core} {t : Nat} (hr : (c.tile t).rpc = 0) (hk : (c.tile t).kind ≠ 5)
include hr hk

/-- TSYM of a tile without repeaters that is none: a symbol that is no repeater. -/
theorem Core.applyTile_sym (fmt : Nat) {y : Sym} (hy : ∀ k, y ≠ .rep k) :
    c.applyTile (.sym t fmt y) = (c.emptied t fmt).setTile t (c.symEntry t fmt y) := by
  cases y with
  | rep k => exact absurd rfl (hy k)
  | zero | const | ramp =>
    refine (if_pos (by simp [Core.symOk, hr])).trans ?_
    simp only [Core.makeSym, Core.dropRep_of_ne hk]
    rfl

/-- TSYM REPEAT of another tile that is STORED and has room for one more repeater. -/
theorem Core.applyTile_rep {u : Nat} (fmt : Nat) (hu : u ≠ t) (hs : (c.tile u).kind = 1) (hc : (c.tile u).rpc < 15) :
    c.applyTile (.sym t fmt (.rep u)) =
      (((c.emptied t (c.tile u).fmt).modTile u (fun x => { x with rpc := x.rpc + 1 })).cancel u).setTile t
        (c.symEntry t (c.tile u).fmt (.rep u)) := by
  have ok : c.symOk t (.rep u) = true := by simp [Core.symOk, hr, hu, hs, hc]
  have exc : ((c.emptied t (c.tile u).fmt).tile u).exc = (c.tile u).exc := by rw [Core.tile_emptied]
  simp only [Core.applyTile, ok, Core.makeSym, Core.dropRep_of_ne hk, if_true, Core.symEntry, ← exc]
  rfl

end

section
variable {c : Core} {t : Nat}

/-- The entry of a tile after TFLAG, as long as it keeps its storage. -/
def Tile.flagged (e : Tile) (wdet det wkeep keep : Bool) : Tile :=
  { e with det := if wdet then det else e.det, keep := if wkeep then keep else e.keep }

/-- The core once a clear DET has cancelled the detections pending on a tile. -/
def Core.undetected (c : Core) (t : Nat) (wdet det : Bool) : Core :=
  { c with dets := if wdet = true ∧ det = false then c.dets.filter (fun d => d.tile != t) else c.dets }

/-- TFLAG of an allocated tile; a clear KEEP returns the storage that a symbol has kept. -/
theorem Core.applyTile_flags (hk : (c.tile t).kind ≠ 0) (wdet det wkeep keep : Bool) :
    c.applyTile (.flags t wdet det wkeep keep) =
      if wkeep = true ∧ keep = false ∧ (c.tile t).kind ≠ 1 ∧ (c.tile t).ext ≠ 0 then
        ((c.undetected t wdet det).giveBack (c.tile t)).setTile t { (c.tile t).flagged wdet det wkeep keep with base := 0, ext := 0 }
      else (c.undetected t wdet det).setTile t ((c.tile t).flagged wdet det wkeep keep) := by
  have hd : (if wdet = true ∧ det = false then c.cancel t else c) = c.undetected t wdet det := by
    unfold Core.undetected
    split <;> rfl
  simp only [Core.applyTile, if_neg hk, hd, Bool.and_eq_true, Bool.not_eq_true', bne_iff_ne, ne_eq, and_assoc]
  split <;> rfl

end

/-- The value of a 32-bit field is its value as a signed number. -/
theorem sgn_toNat (x : Word) (lo : Nat) : sgn 32 (x.toNat / 2 ^ lo) = (x.extractLsb' lo 32).toInt := by
  simp only [sgn, BitVec.toInt, BitVec.extractLsb'_toNat, Nat.shiftRight_eq_div_pow]
  split <;> split <;> omega

theorem getD_rampRow {w rax : Nat} {v : Word} {r k : Nat} (hk : k < 64) :
    (tab 64 (rampElem w rax v r)).getD k 0 = wrapN w ((v.extractLsb' 0 32).toInt + (v.extractLsb' 32 32).toInt *
      (if rax = 0 then 64 * (r : Int) + k else if rax = 1 then (r : Int) else (k : Int))) := by
  rw [getD_tab _ _ hk, rampElem, ← sgn_toNat, ← sgn_toNat, Nat.pow_zero, Nat.div_one]
  split
  · push_cast; rfl
  · split <;> rfl

/-! ### Each change at its visible cycle -/

section
variable {c : Core} (hw : Sparse.wf {} c.tiles = true) {t : Nat}
include hw

theorem Core.tile_applyTile_alloc (h : (c.tile t).kind = 0) (fmt lo : Nat) (det keep : Bool) (j : Nat) :
    (c.applyTile (.alloc t fmt det keep lo)).tile j = if j = t then
      { kind := 1, fmt := fmt, exc := (fmtOf fmt).isBin || fmtOf fmt == .dec64, det := det, keep := keep, base := lo, ext := (fmtOf fmt).extent }
      else c.tile j := by
  simp only [Core.applyTile_alloc h, Core.tile, Sparse.get_set hw]

theorem Core.tile_applyTile_free (hr : (c.tile t).rpc = 0) (hk : (c.tile t).kind ≠ 5) (j : Nat) :
    (c.applyTile (.free t)).tile j = if j = t then {} else c.tile j := by
  rw [Core.applyTile_free hr hk, Core.tile_setTile (by simpa using hw), Core.tile_giveBack, Core.tile_cancel]

theorem Core.tile_applyTile_sym (hr : (c.tile t).rpc = 0) (hk : (c.tile t).kind ≠ 5) (fmt : Nat) {y : Sym} (hy : ∀ k, y ≠ .rep k) (j : Nat) :
    (c.applyTile (.sym t fmt y)).tile j = if j = t then c.symEntry t fmt y else c.tile j := by
  rw [Core.applyTile_sym hr hk fmt hy, Core.tile_setTile (by simpa using hw), Core.tile_emptied]

theorem Core.tile_applyTile_rep {u : Nat} (hr : (c.tile t).rpc = 0) (hk : (c.tile t).kind ≠ 5) (fmt : Nat) (hu : u ≠ t)
    (hs : (c.tile u).kind = 1) (hc : (c.tile u).rpc < 15) (j : Nat) :
    (c.applyTile (.sym t fmt (.rep u))).tile j = if j = t then c.symEntry t (c.tile u).fmt (.rep u)
      else if j = u then { c.tile u with rpc := (c.tile u).rpc + 1 } else c.tile j := by
  have he : Sparse.wf {} (c.emptied t (c.tile u).fmt).tiles = true := by rwa [Core.emptied_tiles]
  rw [Core.applyTile_rep hr hk fmt hu hs hc, Core.tile_setTile (by simpa using Sparse.wf_set hw), Core.tile_cancel, Core.tile_modTile he,
    Core.tile_emptied, Core.tile_emptied]

theorem Core.tile_applyTile_flags (hk : (c.tile t).kind ≠ 0) (wdet det wkeep keep : Bool) (j : Nat) :
    (c.applyTile (.flags t wdet det wkeep keep)).tile j =
      if j = t then
        (if wkeep = true ∧ keep = false ∧ (c.tile t).kind ≠ 1 ∧ (c.tile t).ext ≠ 0 then
          { (c.tile t).flagged wdet det wkeep keep with base := 0, ext := 0 }
        else (c.tile t).flagged wdet det wkeep keep)
      else c.tile j := by
  have hu : Sparse.wf {} (c.undetected t wdet det).tiles = true := hw
  rw [Core.applyTile_flags hk]
  split
  · rw [Core.tile_setTile (by rwa [Core.giveBack_tiles]), Core.tile_giveBack]
    rfl
  · exact Core.tile_setTile hu t j _

theorem Core.tile_applyTile_own (hk : (c.tile t).kind ≠ 0) (o j : Nat) :
    (c.applyTile (.own t o)).tile j = if j = t then (c.tile t).setOwn o c.iss.seq else c.tile j := by
  rw [Core.applyTile_own hk, Core.tile_setTile hw]

/-- A symbol that is no repeater reads as its elements. -/
theorem Core.tileRow_applyTile_sym (hr : (c.tile t).rpc = 0) (hk : (c.tile t).kind ≠ 5) (fmt r : Nat) :
    (c.applyTile (.sym t fmt .zero)).tileRow t r = List.replicate 64 0 ∧
    (∀ v : Word, (c.applyTile (.sym t fmt (.const v))).tileRow t r = List.replicate 64 (v.toNat % 2 ^ (fmtOf fmt).width)) ∧
    (∀ (rax : Nat) (v : Word), (c.applyTile (.sym t fmt (.ramp rax v))).tileRow t r = tab 64 (rampElem (fmtOf fmt).width rax v r)) := by
  refine ⟨?_, fun v => ?_, fun rax v => ?_⟩ <;>
    rw [Core.tileRow, Core.tile_applyTile_sym hw hr hk fmt (fun k => Sym.noConfusion), if_pos rfl] <;> rfl

/-- A repeater reads as its source did. -/
theorem Core.tileRow_applyTile_rep {u : Nat} (hr : (c.tile t).rpc = 0) (hk : (c.tile t).kind ≠ 5) (fmt : Nat) (hu : u ≠ t)
    (hu12 : u < 4096) (hs : (c.tile u).kind = 1) (hc : (c.tile u).rpc < 15) (r : Nat) :
    (c.applyTile (.sym t fmt (.rep u))).tileRow t r = c.tileRow u r := by
  have ht := Core.tile_applyTile_rep hw hr hk fmt hu hs hc
  have hsp : (c.applyTile (.sym t fmt (.rep u))).sp = c.sp := by simp [Core.applyTile_rep hr hk fmt hu hs hc]
  have hix : (c.symEntry t (c.tile u).fmt (.rep u)).val.toNat % 4096 = u := by
    simp only [Core.symEntry, Sym.val, BitVec.toNat_ofNat]
    omega
  have hrow : (c.applyTile (.sym t fmt (.rep u))).tileRow t r =
      (c.applyTile (.sym t fmt (.rep u))).storedRow ((c.applyTile (.sym t fmt (.rep u))).tile u) r := by
    rw [Core.tileRow, ht t, if_pos rfl]
    exact congrArg (fun k => Core.storedRow _ (Core.tile _ k) r) hix
  rw [hrow, Core.tileRow_of_stored hs, ht u, if_neg hu, if_pos rfl, Core.storedRow, Core.spWords, hsp]
  rfl

end

theorem tileChangesTakeEffect1 : Sys2Proof.Stmt.TileChangesTakeEffect1 := by
  intro c now t u fmt lo det keep wdet wkeep o v rax r k hw hu hr16 hk64 e ap
  refine ⟨fun hk => ?_, fun hr hk => ?_, fun hr hk => ?_, fun hk => ?_⟩
  · have ht := Core.tile_applyTile_alloc hw hk fmt lo det keep
    have h := Core.applyTile_alloc hk fmt lo det keep
    simp only [ap, Core.applyWrite, ht, if_true, if_neg hu, true_and]
    simp [h]
  · have ht := Core.tile_applyTile_free hw hr hk
    have h := Core.applyTile_free hr hk
    refine ⟨by simp [ap, Core.applyWrite, ht], ?_, by simp [ap, Core.applyWrite, ht, hu], by simp [ap, Core.applyWrite, h], fun hl g => ?_⟩
    · simp only [ap, Core.applyWrite, h]
      exact Core.freegr_giveBack (c.cancel t) e
    · simp only [ap, Core.applyWrite, h]
      exact Core.freeAt_giveBack (c := c.cancel t) hl e g
  · obtain ⟨hzero, hconst, hramp⟩ := Core.tileRow_applyTile_sym hw hr hk fmt r
    refine ⟨fun y hy => ?_, hzero, hconst v, ?_, fun hu12 hs hc => ⟨Core.tileRow_applyTile_rep hw hr hk fmt hu hu12 hs hc r, ?_, ?_⟩⟩
    · have hy' : ∀ k, y ≠ .rep k := by
        rintro k rfl
        simp at hy
      have ht := Core.tile_applyTile_sym hw hr hk fmt hy'
      have h := Core.applyTile_sym hr hk fmt hy'
      simp only [ap, Core.applyWrite, ht, if_true, if_neg hu, Core.symEntry, e, true_and]
      simp [h]
    · exact (congrArg (·.getD k 0) (hramp rax v)).trans (getD_rampRow hk64)
    · simp [ap, Core.applyWrite, Core.tile_applyTile_rep hw hr hk fmt hu hs hc, hu]
    · simp [ap, Core.applyWrite, Core.tile_applyTile_rep hw hr hk fmt hu hs hc, Core.symEntry]
  · have ht := Core.tile_applyTile_own hw hk o
    have h := Core.applyTile_own hk o
    refine ⟨?_, ?_, ?_, ?_⟩
    · simp only [ap, Core.applyWrite, h]; rfl
    · simp [ap, Core.applyWrite, ht, e, Tile.setOwn]
    · simp [ap, Core.applyWrite, ht, hu]
    · have hf := Core.tile_applyTile_flags hw hk wdet det wkeep keep
      have h := Core.applyTile_flags hk wdet det wkeep keep
      refine ⟨by simp [ap, Core.applyWrite, hf, hu], ?_, ?_, fun hd => ?_, fun h1 h2 h3 h4 => ?_⟩
      · simp only [ap, Core.applyWrite, h]
        split <;> simp [Core.undetected]
      · simp only [ap, Core.applyWrite, h]
        split <;> simp [Core.undetected]
      · have h' : ap (.flags t wdet det wkeep keep) = _ := h.trans (if_neg hd)
        exact ⟨(hf t).trans ((if_pos rfl).trans (if_neg hd)), by rw [h']; rfl, by rw [h']; rfl⟩
      · have hd : wkeep = true ∧ keep = false ∧ (c.tile t).kind ≠ 1 ∧ (c.tile t).ext ≠ 0 := ⟨h1, h2, h3, h4⟩
        have h' : ap (.flags t wdet det wkeep keep) = _ := h.trans (if_pos hd)
        refine ⟨(hf t).trans ((if_pos rfl).trans (if_pos hd)), ?_, fun hl g => ?_⟩
        · rw [h']
          exact Core.freegr_giveBack (c.undetected t wdet det) e
        · rw [h']
          exact Core.freeAt_giveBack (c := c.undetected t wdet det) hl e g

/-! ### Rows of elements (01 R33, R35) -/

theorem wrapN_lt (w : Nat) (i : Int) : wrapN w i < 2 ^ w := by
  have hpos : (0 : Int) < ((2 ^ w : Nat) : Int) := by exact_mod_cast Nat.two_pow_pos w
  have hlt := Int.emod_lt_of_pos i hpos
  have hge := Int.emod_nonneg i (Int.ne_of_gt hpos)
  unfold wrapN
  omega

/-- A row of 64 elements of `w` bits. -/
def IsRow (w : Nat) (els : List Nat) : Prop := els.length = 64 ∧ ∀ x ∈ els, x < 2 ^ w

/-- The elements of a row are what its words unpack to. -/
theorem unpackRow_packRow {w : Nat} {els : List Nat} (h : IsRow w els) : unpackRow w ((packRow w els).map (·.toNat)) = els := by
  obtain ⟨hlen, hlt⟩ := h
  have hv : packN w els < 2 ^ (64 * w) := by
    have := packN_lt w els
    rwa [hlen, Nat.mul_comm] at this
  have hwords : (packRow w els).map (·.toNat) = tab w (itemN 64 (packN w els)) := by
    rw [packRow, tab, List.map_map]
    refine List.map_congr_left fun k _ => ?_
    exact Nat.mod_eq_of_lt (Nat.mod_lt _ (Nat.two_pow_pos 64))
  rw [unpackRow, hwords, packN_items hv]
  have hels : tab 64 (fun k => els.getD k 0) = els := hlen ▸ tab_getD els 0
  refine (tab_congr fun k hk => ?_).trans hels
  have hk' : k < els.length := hlen ▸ hk
  rw [itemN_packN, List.getD_eq_getElem?_getD, List.getElem?_eq_getElem hk', Option.getD_some, Nat.mod_eq_of_lt (hlt _ (List.getElem_mem hk'))]

theorem isRow_replicate {w x : Nat} (h : x < 2 ^ w) : IsRow w (List.replicate 64 x) :=
  ⟨List.length_replicate, fun _ hy => (List.eq_of_mem_replicate hy).symm ▸ h⟩

/-- What a symbol that is no repeater reads as. -/
theorem Core.isRow_tileRow {c : Core} {t : Nat} (h2 : 2 ≤ (c.tile t).kind) (h4 : (c.tile t).kind ≤ 4) (r : Nat) :
    IsRow (fmtOf (c.tile t).fmt).width (c.tileRow t r) := by
  have hk : (c.tile t).kind = 2 ∨ (c.tile t).kind = 3 ∨ (c.tile t).kind = 4 := by omega
  unfold Core.tileRow
  rcases hk with hk | hk | hk <;> simp only [hk]
  · exact isRow_replicate (Nat.two_pow_pos _)
  · exact isRow_replicate (Nat.mod_lt _ (Nat.two_pow_pos _))
  · refine ⟨length_tab _ _, fun x hx => ?_⟩
    obtain ⟨k, -, rfl⟩ := List.mem_map.mp hx
    exact wrapN_lt _ _

section
variable {c : Core} (hw : Sparse.wf 0 c.sp = true) (e : Tile)
include hw

theorem Core.wf_putRow (r : Nat) (els : List Nat) : Sparse.wf 0 (c.putRow e r els).sp = true := Sparse.wf_setMany hw

/-- A row of the entry's storage that has just been written reads as its elements. -/
theorem Core.storedRow_putRow_same (r : Nat) {els : List Nat} (h : IsRow (fmtOf e.fmt).width els) : (c.putRow e r els).storedRow e r = els := by
  have hlen : (packRow (fmtOf e.fmt).width els).length = (fmtOf e.fmt).width := length_tab _ _
  have hrun := Sparse.getMany_setMany_same hw (e.base * 16 + r * (fmtOf e.fmt).width) (packRow (fmtOf e.fmt).width els)
  rw [hlen] at hrun
  exact (congrArg (fun l => unpackRow _ (l.map (·.toNat))) hrun).trans (unpackRow_packRow h)

/-- The other rows read as before. -/
theorem Core.storedRow_putRow_ne {r x : Nat} (hx : r ≠ x) (els : List Nat) : (c.putRow e x els).storedRow e r = c.storedRow e r := by
  have hlen : (packRow (fmtOf e.fmt).width els).length = (fmtOf e.fmt).width := length_tab _ _
  have hapart : e.base * 16 + r * (fmtOf e.fmt).width + (fmtOf e.fmt).width ≤ e.base * 16 + x * (fmtOf e.fmt).width ∨
      e.base * 16 + x * (fmtOf e.fmt).width + (packRow (fmtOf e.fmt).width els).length ≤ e.base * 16 + r * (fmtOf e.fmt).width := by
    rw [hlen]
    rcases Nat.lt_or_gt_of_ne hx with h | h
    · have := Nat.mul_le_mul_right (fmtOf e.fmt).width h
      rw [Nat.succ_mul] at this
      omega
    · have := Nat.mul_le_mul_right (fmtOf e.fmt).width h
      rw [Nat.succ_mul] at this
      omega
  exact congrArg (fun l => unpackRow _ (l.map (·.toNat))) (Sparse.getMany_setMany_apart hw _ _ hapart)

/-- After several rows have been written, each of them reads as its elements. -/
theorem Core.storedRow_putRows {f : Nat → List Nat} (hf : ∀ r, IsRow (fmtOf e.fmt).width (f r)) (l : List Nat) (r : Nat) :
    (l.foldl (fun c r => c.putRow e r (f r)) c).storedRow e r = if r ∈ l then f r else c.storedRow e r := by
  induction l generalizing c with
  | nil => simp
  | cons x l ih =>
    rw [List.foldl_cons, ih (Core.wf_putRow hw e x (f x))]
    by_cases hx : r = x
    · subst hx
      simp [Core.storedRow_putRow_same hw e r (hf r)]
    · simp [hx, Core.storedRow_putRow_ne hw e hx (f x)]

end

theorem Core.putRows_frame (c : Core) (e : Tile) (f : Nat → List Nat) (l : List Nat) :
    ∃ sp b, l.foldl (fun c r => c.putRow e r (f r)) c = { c with sp := sp, badWords := b } := by
  induction l generalizing c with
  | nil => exact ⟨c.sp, c.badWords, rfl⟩
  | cons x l ih =>
    obtain ⟨sp, b, h⟩ := c.putRow_frame e x (f x)
    obtain ⟨sp', b', h'⟩ := ih (c.putRow e x (f x))
    exact ⟨sp', b', by rw [List.foldl_cons, h', h]⟩

/-! ### The end of a promotion's hold (06 R186) -/

/-- The storage planned for a symbol suits its entry: the kept storage, or a run of the size its format has. -/
theorem Tile.promoFits_none (e : Tile) : e.promoFits none = true ↔ 2 ≤ e.kind ∧ e.kind ≤ 5 ∧ e.ext = (fmtOf e.fmt).extent := by
  simp [Tile.promoFits, Tile.isSym, and_assoc]

theorem Tile.promoFits_some (e : Tile) (x : Nat × Nat) :
    e.promoFits (some x) = true ↔ 2 ≤ e.kind ∧ e.kind ≤ 5 ∧ e.ext = 0 ∧ x.2 = (fmtOf e.fmt).extent := by
  simp [Tile.promoFits, Tile.isSym, and_assoc]

/-- The entry of a promoted symbol that was no repeater. -/
def Tile.promoted (e : Tile) (run : Option (Nat × Nat)) : Tile :=
  { e with kind := 1, val := 0, rax := 0, pass := 0, base := (run.map (·.1)).getD e.base, ext := (fmtOf e.fmt).extent }

/-- The core with the entry of a promoted symbol and a granule count. -/
def Core.claimed (c : Core) (t : Nat) (e : Tile) (n : Nat) : Core := { c with tiles := c.tiles.set {} t e, r := { c.r with freegr := n } }

section
variable {c : Core} {t : Nat} {run : Option (Nat × Nat)}

theorem Core.promoteOne_unfit (h : ¬ (c.tile t).promoFits run = true) : ∃ f, c.promoteOne t run = { c with free := f } := by
  obtain ⟨f, hf⟩ := c.unplan_frame run
  refine ⟨f, ?_⟩
  rw [Core.promoteOne, if_pos (by simpa using h), hf]

theorem foldl_congr_of_mem {α β : Type} {f f' : β → α → β} {l : List α} (h : ∀ b, ∀ a ∈ l, f b a = f' b a) {b : β} :
    l.foldl f b = l.foldl f' b := by
  induction l generalizing b with
  | nil => rfl
  | cons a l ih =>
    rw [List.foldl_cons, List.foldl_cons, h b a List.mem_cons_self, ih fun b x hx => h b x (List.mem_cons_of_mem _ hx)]

/-- A promotion writes the entry, and the symbol's 16 rows into its storage. -/
theorem Core.promoteOne_fit (h : (c.tile t).promoFits run = true) (h5 : (c.tile t).kind ≠ 5) :
    ∃ n, c.promoteOne t run =
      (List.range 16).foldl (fun d r => d.putRow ((c.tile t).promoted run) r (c.tileRow t r)) (c.claimed t ((c.tile t).promoted run) n) := by
  have hrows (d : Core) (e : Tile) : (List.range 16).foldl (fun d r => d.putRow e r ((tab 16 (fun r => c.tileRow t r)).getD r [])) d =
      (List.range 16).foldl (fun d r => d.putRow e r (c.tileRow t r)) d :=
    foldl_congr_of_mem fun d r hr => by rw [getD_tab _ _ (List.mem_range.mp hr)]
  cases run with
  | none => exact ⟨c.r.freegr, by simp only [Core.promoteOne, h, Core.dropRep_of_ne h5, h5, hrows]; rfl⟩
  | some x => exact ⟨c.r.freegr - (fmtOf (c.tile t).fmt).extent, by simp only [Core.promoteOne, h, Core.dropRep_of_ne h5, h5, hrows]; rfl⟩

/-- What a promotion of a symbol that is no repeater leaves: the STORED entry, whose rows read as the symbol did; of the registers only
FREEGR differs, and no other entry. -/
theorem Core.promoteOne_takesEffect (hsp : Sparse.wf 0 c.sp = true) (hw : Sparse.wf {} c.tiles = true) (h : (c.tile t).promoFits run = true)
    (h4 : (c.tile t).kind ≤ 4) :
    (∀ j, (c.promoteOne t run).tile j = if j = t then (c.tile t).promoted run else c.tile j) ∧
    (∀ r, r < 16 → (c.promoteOne t run).tileRow t r = c.tileRow t r) ∧
    ∃ n, (c.promoteOne t run).r = { c.r with freegr := n } := by
  have h2 : 2 ≤ (c.tile t).kind := by
    cases run with
    | none => exact ((c.tile t).promoFits_none.mp h).1
    | some x => exact (((c.tile t).promoFits_some x).mp h).1
  have hrow (r : Nat) : IsRow (fmtOf ((c.tile t).promoted run).fmt).width (c.tileRow t r) := Core.isRow_tileRow h2 h4 r
  obtain ⟨n, hp⟩ := Core.promoteOne_fit h (by omega)
  obtain ⟨sp, b, hf⟩ := Core.putRows_frame (c.claimed t ((c.tile t).promoted run) n) ((c.tile t).promoted run) (c.tileRow t) (List.range 16)
  have htile (j : Nat) : (c.promoteOne t run).tile j = if j = t then (c.tile t).promoted run else c.tile j := by
    rw [hp, hf]
    exact Core.tile_setTile hw t j ((c.tile t).promoted run)
  refine ⟨htile, fun r hr => ?_, n, by rw [hp, hf]; rfl⟩
  have hkind : ((c.promoteOne t run).tile t).kind = 1 := by rw [htile, if_pos rfl]; rfl
  rw [Core.tileRow_of_stored hkind, htile, if_pos rfl, hp,
    Core.storedRow_putRows (c := c.claimed t ((c.tile t).promoted run) n) hsp _ hrow, if_pos (List.mem_range.mpr hr)]

end

/-- PROMOTION_HOLD_END with one tile to promote. -/
theorem exec_promotionHoldEnd_due {s : State} {p : Promo} {t : Nat} {run : Option (Nat × Nat)} (hp : s.core.hold.promo = some p)
    (hu : p.until_ ≤ s.cycle) (ht : p.tiles = [(t, run)]) (hr : p.reps = []) :
    exec .promotionHoldEnd s =
      .next { s with core := { s.core.promoteOne t run with hold := { (s.core.promoteOne t run).hold with promo := none } } } := by
  simp only [exec_promotionHoldEnd, execPromotionHoldEnd, hp, if_pos hu, State.onCore, Core.finishPromo, ht, hr, List.foldl_cons, List.foldl_nil]

/-- The core without the detections that are due. -/
def Core.notDue (c : Core) (now : Nat) : Core := { c with dets := c.dets.filter (fun d => decide (now < d.due)) }

/-- DETECTION_RESULT with one detection due. -/
theorem exec_detectionResult_due {s : State} {d : Detect} (hd : s.core.dets.filter (fun d => decide (d.due ≤ s.cycle)) = [d]) :
    exec .detectionResult s =
      .next { s with core := (s.core.notDue s.cycle).detected d } := by
  simp only [exec_detectionResult, execDetectionResult, State.onCore, hd, List.foldl_cons, List.foldl_nil, Core.notDue]

/-- The entry of a tile that becomes a detected symbol that is no repeater. -/
def Tile.seen (e : Tile) (y : Sym) (exc : Bool) : Tile :=
  { e with kind := y.kind, val := y.val, rax := y.rax, exc := exc, pass := 0,
           base := if e.keep then e.base else 0, ext := if e.keep then e.ext else 0 }

theorem Core.detected_stays {c : Core} {d : Detect} (h : (c.tile d.tile).kind ≠ 1 ∨ (c.tile d.tile).rpc ≠ 0) : c.detected d = c := by
  unfold Core.detected
  refine if_neg fun ⟨hk, hr, _⟩ => ?_
  rcases h with h | h
  · exact h hk
  · exact h hr

theorem Core.detected_symbol {c : Core} {d : Detect} (hk : (c.tile d.tile).kind = 1) (hr : (c.tile d.tile).rpc = 0) (hy : ∀ k, d.sym ≠ .rep k) :
    ∃ exc, c.detected d =
      (if (c.tile d.tile).keep then c else c.giveBack (c.tile d.tile)).setTile d.tile ((c.tile d.tile).seen d.sym exc) := by
  obtain ⟨t, due, y⟩ := d
  cases y with
  | rep k => exact absurd rfl (hy k)
  | zero | const | ramp => exact ⟨_, if_pos ⟨hk, hr, rfl⟩⟩

/-- What the arrival of a symbol that is no repeater leaves: the symbol's entry, and its storage returned unless KEEP is set. -/
theorem Core.detected_takesEffect {c : Core} {d : Detect} (hw : Sparse.wf {} c.tiles = true) (hk : (c.tile d.tile).kind = 1)
    (hr : (c.tile d.tile).rpc = 0) (hy : ∀ k, d.sym ≠ .rep k) :
    (∃ exc, ∀ j, (c.detected d).tile j = if j = d.tile then (c.tile d.tile).seen d.sym exc else c.tile j) ∧
    (c.detected d).dets = c.dets ∧ (c.detected d).sp = c.sp ∧
    (c.detected d).r.freegr = c.r.freegr + (if (c.tile d.tile).keep then 0 else (c.tile d.tile).ext) := by
  obtain ⟨exc, he⟩ := Core.detected_symbol hk hr hy
  rw [he]
  split
  · exact ⟨⟨exc, fun j => Core.tile_setTile hw d.tile j _⟩, rfl, rfl, rfl⟩
  · refine ⟨⟨exc, fun j => ?_⟩, by simp, by simp, Core.freegr_giveBack c (c.tile d.tile)⟩
    rw [Core.tile_setTile (by rwa [Core.giveBack_tiles]), Core.tile_giveBack]

theorem promotionsAndDetections : Sys2Proof.Stmt.PromotionsAndDetections := by
  intro s hsp hw
  refine ⟨fun h => ?_, fun p t b hp hu ht hr => ⟨fun hbad => ?_, fun h2 h4 hfit => ?_⟩, fun h => ?_,
    fun d hd => ⟨fun hstay => ?_, fun hk hr hy => ?_⟩⟩
  · rw [exec_promotionHoldEnd, execPromotionHoldEnd]
    rcases h with h | ⟨p, h, hu⟩
    · rw [h]
    · rw [h]
      exact congrArg _ (if_neg (by omega))
  · have hunfit : ¬ (s.core.tile t).promoFits b = true := by
      cases b with
      | none =>
        rw [Tile.promoFits_none]
        rintro ⟨h2, h5, he⟩
        rcases hbad with h | h | h
        · omega
        · omega
        · exact h he
      | some x =>
        rw [Tile.promoFits_some]
        rintro ⟨h2, h5, he⟩
        rcases hbad with h | h | h
        · omega
        · omega
        · exact h he
    obtain ⟨f, hf⟩ := Core.promoteOne_unfit hunfit
    exact ⟨f, by rw [exec_promotionHoldEnd_due hp hu ht hr, hf]⟩
  · have hfits : (s.core.tile t).promoFits b = true := by
      cases b with
      | none => exact (Tile.promoFits_none _).mpr ⟨h2, by omega, hfit⟩
      | some x => exact (Tile.promoFits_some _ x).mpr ⟨h2, by omega, hfit⟩
    obtain ⟨htile, hrows, n, hreg⟩ := Core.promoteOne_takesEffect hsp hw hfits h4
    have ht' : (s.core.promoteOne t b).tile t = (s.core.tile t).promoted b := (htile t).trans (if_pos rfl)
    refine ⟨_, exec_promotionHoldEnd_due hp hu ht hr, rfl, fun _ => rfl, (congrArg Tile.kind ht' :),
      (congrArg Tile.fmt ht' :), (congrArg Tile.own ht' :),
      (congrArg Tile.det ht' :), (congrArg Tile.keep ht' :), (congrArg Tile.ext ht' :), hrows, fun j hj => (htile j).trans (if_neg hj), ?_⟩
    show (s.core.promoteOne t b).r = { s.core.r with freegr := (s.core.promoteOne t b).r.freegr }
    rw [hreg]
  · rw [exec_detectionResult, execDetectionResult]
    have hdue : s.core.dets.filter (fun d => decide (d.due ≤ s.cycle)) = [] := by
      rw [List.filter_eq_nil_iff]
      exact fun d hd => by simpa using h d hd
    have hall : s.core.dets.filter (fun d => decide (s.cycle < d.due)) = s.core.dets := by
      rw [List.filter_eq_self]
      exact fun d hd => by simpa using h d hd
    simp only [State.onCore, hdue, hall, List.foldl_nil]
  · exact (exec_detectionResult_due hd).trans
      (congrArg (fun k => Host.Outcome.next { s with core := k }) (Core.detected_stays (c := s.core.notDue s.cycle) hstay))
  · obtain ⟨⟨exc, htile⟩, hdets, hsame, hfree⟩ := Core.detected_takesEffect (c := s.core.notDue s.cycle) hw hk hr hy
    have ht : ((s.core.notDue s.cycle).detected d).tile d.tile = (s.core.tile d.tile).seen d.sym exc := (htile d.tile).trans (if_pos rfl)
    exact ⟨_, exec_detectionResult_due hd, hdets, fun _ => rfl, (congrArg Tile.kind ht :), (congrArg Tile.val ht :), (congrArg Tile.rax ht :),
      (congrArg Tile.fmt ht :), (congrArg Tile.own ht :), (congrArg Tile.det ht :), (congrArg Tile.keep ht :),
      fun j hj => (htile j).trans (if_neg hj), hsame, hfree⟩

/-- Settles O25. -/
theorem tileChangesTakeEffect : Obligations.TileChangesTakeEffect := ⟨tileChangesTakeEffect1, promotionsAndDetections⟩

end Sys2Proof.Machine
end

section
namespace Sys2Proof.Machine
open Sys2Proof Sys2Proof.Stmt

/-! ### An entry of the sump that is an ACCREL -/

/-- An entry of the sump that is an ACCREL (05 R161) of the two FP32 targets from 0x100004, the second still to be read out. No operation
puts an ACCREL into the sump, but the statement asks nothing of the entry's kind. -/
def accrelEntry : Sump :=
  { seq := 0, kind := .accrel 0 5 8, cls := 3, op := 0x67, width := 8, va := 0x100004, data := 0, strong := true, bad := none, pcv := 0,
    left := [(4, 4)] }

/-- A machine that holds that entry: page 0x100 maps to frame 0x20 and is in the translation cache; the exact accumulator of that target
holds a negative zero and belongs to physical address 0x30000, in another page. -/
def accrelState : State :=
  { State.reset with
    core := { Core.reset with sump := [accrelEntry], iss := { Core.reset.iss with seq := 1 }, tlb := [0x100] },
    spaces := [(0, { regions := [{ page := 0x100, n := 16, pte := mkLeaf true 0 1 0 0x20 2 none }] })],
    accs := [AccT.empty 0 0x100008 0x30000 0] }

/-- The entry replays, at the eight bytes from 0x20004. -/
theorem accrelState_nextReplay : ∃ first, accrelState.nextReplay = some (accrelEntry, .ok [(0x20004, 8)] false first) := ⟨_, rfl⟩

/-- Its replay reads out the accumulator: the sign bit of the negative zero lands at 0x30003. -/
theorem accrelState_writes : ∀ t, exec .sumpReplay accrelState = .next t → t.readByte 0x30003 = 0x80 := by
  intro t h
  cases h
  decide

/-- Refutes O20: the replay of an entry that is an ACCREL writes a byte outside the pieces its mapping gives. -/
theorem not_sumpReplayAndReport : ¬ Obligations.SumpReplayAndReport := by
  intro h
  obtain ⟨first, hr⟩ := accrelState_nextReplay
  obtain ⟨t, ht, hout, -⟩ := (h accrelState accrelEntry ⟨rfl, rfl⟩ rfl).1 _ first hr rfl (by decide)
  have same : t.readByte 0x30003 = accrelState.readByte 0x30003 := hout 0x30003 (by decide)
  rw [accrelState_writes t ht] at same
  exact absurd same (by decide)

end Sys2Proof.Machine
end

section
namespace Sys2Proof.Machine
open Sys2Proof Sys2Proof.Stmt

/-! ### A V operation beside a TSYM REPEAT of its pair -/

/-- A V operation of a pair: `vmov.f32 wp0, zero`, one row of zeros through write port 0. -/
def movZeros : VArgs :=
  { g := Guard.always, fmt := 12, rnd := 0, sa := 10, sb := 0, sc := 0, dw := 0, sat := false, t := false, xs := 0, pat := 0, imm := 0 }

/-- A core whose write port 0 walks the rows of the STORED FP32 tile 0x102, which nothing repeats; H0 names that tile, H1 the CONST tile
0x101. -/
def stored102 : Core :=
  { Core.reset with
    r := (Core.reset.r.setH 0 (Handle.ofTile 0x102)).setH 1 (Handle.ofTile 0x101)
    tiles := [(0x101, { kind := 3, fmt := 12 }), (0x102, { kind := 1, fmt := 12, base := 0, ext := 256 })]
    ports := Core.reset.ports.set 8 { bound := true, walk := BitVec.ofNat 256 (2 * 2 ^ 252 + 0x102 * 2 ^ 232 + 2 ^ 16 + 16) } }

/-- That core as it evaluates a pair whose other bundle holds a TSYM REPEAT that makes tile 0x101 a repeater of tile 0x102. -/
def besideRepeat : State :=
  { State.reset with
    core := { stored102 with iss := { stored102.iss with reps := stored102.newReps [(0, .tsymRepeat Guard.always 0 1)] } } }

/-- The pair makes that repeater. -/
theorem besideRepeat_reps : besideRepeat.core.iss.reps = [(0x101, 0x102)] := by decide

/-- The V operation waits for the repeater to be promoted (06 R186, Table 4): it puts nothing in flight. -/
theorem besideRepeat_waits : ∀ u, exec (.vmov movZeros) besideRepeat = .next u → u.core.flight = [] := by
  intro u h
  cases h
  decide

/-- Refutes O34: nothing repeats tile 0x102 yet, but the pair's TSYM REPEAT makes a repeater of it, which is promoted before a V operation
writes the tile (06 Table 4); the operation is held, and no result of it is in flight. -/
theorem not_vectorOperations : ¬ Obligations.VectorOperations := by
  rintro ⟨issue, -, -⟩
  have readable : ∀ j : Nat, j < 1 → Readable besideRepeat.core ([10, 0, 0].getD j 0) 1 (if j + 1 = 0 then 1 else 32) := by
    intro j hj
    obtain rfl : j = 0 := by omega
    exact ⟨fun h => absurd h (by decide), fun h => absurd h (by decide)⟩
  obtain ⟨u, op, hu, hflight, -⟩ :=
    issue besideRepeat movZeros .vmov _ (by simp [vectorOps]) (by decide) rfl rfl readable (fun _ => ⟨by decide, by decide⟩)
  rw [besideRepeat_waits u hu] at hflight
  exact List.cons_ne_nil _ _ hflight.symm

end Sys2Proof.Machine
end

section
namespace Sys2Proof

/-! ### Lists of rows -/

theorem length_flatMap_range {α : Type} {g : Nat → List α} {w k : Nat} (hg : ∀ r < k, (g r).length = w) :
    ((List.range k).flatMap g).length = w * k := by
  induction k with
  | zero => rfl
  | succ k ih =>
    rw [List.range_succ, List.flatMap_append, List.flatMap_singleton, List.length_append, hg k (Nat.lt_succ_self k),
      ih fun r hr => hg r (Nat.lt_succ_of_lt hr), Nat.mul_succ]

/-- An element of `k` rows of `w` elements each, laid out row after row. -/
theorem getD_flatMap_range {α : Type} {g : Nat → List α} {w k e : Nat} (hg : ∀ r < k, (g r).length = w) (d : α) (he : e < w * k) :
    ((List.range k).flatMap g).getD e d = (g (e / w)).getD (e % w) d := by
  induction k with
  | zero => omega
  | succ k ih =>
    have hg' : ∀ r < k, (g r).length = w := fun r hr => hg r (Nat.lt_succ_of_lt hr)
    have hlen : ((List.range k).flatMap g).length = w * k := length_flatMap_range hg'
    rw [List.range_succ, List.flatMap_append, List.flatMap_singleton, List.getD_eq_getElem?_getD]
    by_cases h : e < w * k
    · rw [List.getElem?_append_left (hlen.symm ▸ h), ← List.getD_eq_getElem?_getD, ih hg' h]
    · obtain ⟨j, rfl⟩ := Nat.exists_eq_add_of_le (Nat.le_of_not_lt h)
      have hj : j < w := by rw [Nat.mul_succ] at he; omega
      rw [List.getElem?_append_right (by omega), ← List.getD_eq_getElem?_getD, hlen, Nat.add_sub_cancel_left, Nat.mul_add_div (by omega),
        Nat.mul_add_mod, Nat.div_eq_of_lt hj, Nat.mod_eq_of_lt hj, Nat.add_zero]

/-- An element of a list that repeats one value. -/
theorem getD_replicate_of_lt {α : Type} {n i : Nat} (h : i < n) (x d : α) : (List.replicate n x).getD i d = x := by
  rw [List.getD_eq_getElem?_getD, List.getElem?_replicate, if_pos h, Option.getD_some]

/-- Row `row` of the operands. -/
def opRow (ops : List (Nat × Nat × Nat)) (row : Nat) : List (Nat × Nat × Nat) := (ops.drop (64 * row)).take 64

theorem length_opRow {ops : List (Nat × Nat × Nat)} {row : Nat} (h : 64 * row + 64 ≤ ops.length) : (opRow ops row).length = 64 := by
  rw [opRow, List.length_take, List.length_drop]
  omega

/-- What is computed of each operand of a whole row. -/
theorem map_opRow {α : Type} {ops : List (Nat × Nat × Nat)} {row : Nat} (h : 64 * row + 64 ≤ ops.length) (g : Nat × Nat × Nat → α) :
    (opRow ops row).map g = tab 64 (fun j => g (ops.getD (64 * row + j) (0, 0, 0))) := by
  apply List.ext_getElem
  · rw [List.length_map, length_opRow h, length_tab]
  · intro j _ hj
    rw [length_tab] at hj
    have hin : 64 * row + j < ops.length := by omega
    simp [opRow, tab, List.getElem?_eq_getElem hin]

/-! ### Scans -/

@[simp] theorem length_scanRow (f : Res → Res → Res) (o : Option Nat) (l : List Nat) : (scanRow f o l).length = l.length := by
  induction l generalizing o with
  | nil => cases o <;> rfl
  | cons x t ih => cases o <;> simp [scanRow, ih]

/-- The first element of a scan is its own operand. -/
theorem getD_scanRow_zero (f : Res → Res → Res) {l : List Nat} (h : 0 < l.length) : (scanRow f none l).getD 0 (0, 0) = (l.getD 0 0, 0) := by
  cases l with
  | nil => exact absurd h (Nat.lt_irrefl 0)
  | cons x t => rfl

/-- Each later element combines the one before it with its own operand. -/
theorem getD_scanRow_succ (f : Res → Res → Res) (o : Option Nat) {l : List Nat} {n : Nat} (h : n + 1 < l.length) :
    (scanRow f o l).getD (n + 1) (0, 0) = f (((scanRow f o l).getD n (0, 0)).1, 0) (l.getD (n + 1) 0, 0) := by
  induction l generalizing o n with
  | nil => exact absurd h (Nat.not_lt_zero _)
  | cons x t ih =>
    have ht : n < t.length := Nat.lt_of_succ_lt_succ h
    obtain ⟨p, z, hz⟩ : ∃ p z, scanRow f o (x :: t) = p :: scanRow f (some z) t ∧ p.1 = z := by cases o <;> exact ⟨_, _, rfl, rfl⟩
    obtain ⟨hs, hp⟩ := hz
    rw [hs]
    cases n with
    | succ n => exact ih (some z) ht
    | zero =>
      cases t with
      | nil => exact absurd ht (Nat.lt_irrefl 0)
      | cons y t => subst hp; rfl

/-! ### Integer minimum and maximum -/

theorem minMaxElem_int_min {f : Fmt} (hf : f.isInt = true) (a b : Nat) :
    minMaxElem f false a b = (if f.intVal a < f.intVal b then a else b, 0) := by
  simp [minMaxElem, intMinMax, hf]

theorem minMaxElem_int_max {f : Fmt} (hf : f.isInt = true) (a b : Nat) :
    minMaxElem f true a b = (if f.intVal a < f.intVal b then b else a, 0) := by
  simp only [minMaxElem, intMinMax, hf, if_true, Bool.true_eq_false, eq_iff_iff, iff_false]
  split <;> simp_all

/-! ### The results of a row -/

/-- Do the operation's results go along columns? -/
def Instr.columnWise : Instr → Bool
  | .vcrot _ | .vcbc _ | .vcred _ => true
  | _ => false

/-- Does each result depend on the operands of its own element alone? -/
def Instr.elementWise : Instr → Bool
  | .vcrot _ | .vcbc _ | .vcred _ | .vsplat _ | .viota _ | .vrrot _ | .vrbc _ | .vrred _ | .vrscan _ | .vshuf _ | .vexpq _ => false
  | _ => true

theorem Instr.columnWise_of_elementWise {i : Instr} (h : i.elementWise = true) : i.columnWise = false := by
  unfold Instr.columnWise
  split
  case h_4 => rfl
  all_goals cases h

theorem vecResults_rows {i : Instr} (h : i.columnWise = false) (r : Rnd) (aux : Nat) (ops : List (Nat × Nat × Nat)) :
    vecResults i r aux ops = (List.range (ops.length / 64)).flatMap (fun row => rowOp i r aux row (opRow ops row)) := by
  unfold vecResults
  split
  case h_4 => rfl
  all_goals cases h

theorem rowOp_elementWise {i : Instr} (h : i.elementWise = true) (r : Rnd) (aux row : Nat) (ops : List (Nat × Nat × Nat)) :
    rowOp i r aux row ops = ops.map (fun o => elemOp i r o.1 o.2.1 o.2.2) := by
  unfold rowOp
  split
  case h_9 => rfl
  all_goals cases h

theorem length_rowOp (i : Instr) (r : Rnd) (aux row : Nat) {ops : List (Nat × Nat × Nat)} (h : ops.length = 64) :
    (rowOp i r aux row ops).length = 64 := by
  unfold rowOp
  split <;> simp [h]

section
variable {ops : List (Nat × Nat × Nat)} {k e : Nat} (hl : ops.length = 64 * k) (he : e < 64 * k) (r : Rnd) (aux : Nat)
include hl he

/-- The row an element lies in is a whole one. -/
theorem row_whole : 64 * (e / 64) + 64 ≤ ops.length := by omega

/-- A result that does not go along columns comes from the row its element lies in. -/
theorem getD_vecResults_row {i : Instr} (hi : i.columnWise = false) :
    (vecResults i r aux ops).getD e (0, 0) = (rowOp i r aux (e / 64) (opRow ops (e / 64))).getD (e % 64) (0, 0) := by
  rw [vecResults_rows hi, hl, Nat.mul_div_cancel_left k (by omega)]
  exact getD_flatMap_range (fun row h => length_rowOp i r aux row (length_opRow (by omega))) _ he

theorem getD_vecResults_elementWise {i : Instr} (hi : i.elementWise = true) :
    (vecResults i r aux ops).getD e (0, 0) =
      elemOp i r (ops.getD e (0, 0, 0)).1 (ops.getD e (0, 0, 0)).2.1 (ops.getD e (0, 0, 0)).2.2 := by
  rw [getD_vecResults_row hl he r aux (Instr.columnWise_of_elementWise hi), rowOp_elementWise hi, map_opRow (row_whole hl he),
    getD_tab _ _ (Nat.mod_lt e (by omega)), Nat.div_add_mod]

end

section
variable {ops : List (Nat × Nat × Nat)} {row : Nat} (h : 64 * row + 64 ≤ ops.length) (v : VArgs) (r : Rnd) (aux : Nat)
include h

/-- An element of the first source in a whole row. -/
theorem getD_sa_opRow {j : Nat} (hj : j < 64) : ((opRow ops row).map (·.1)).getD j 0 = (ops.getD (64 * row + j) (0, 0, 0)).1 := by
  rw [map_opRow h, getD_tab _ _ hj]

/-- An element of the second source in a whole row. -/
theorem getD_sb_opRow {j : Nat} (hj : j < 64) : ((opRow ops row).map (·.2.1)).getD j 0 = (ops.getD (64 * row + j) (0, 0, 0)).2.1 := by
  rw [map_opRow h, getD_tab _ _ hj]

theorem headD_opRow : (opRow ops row).headD (0, 0, 0) = ops.getD (64 * row) (0, 0, 0) := by
  have hid : opRow ops row = tab 64 (fun j => ops.getD (64 * row + j) (0, 0, 0)) := by
    rw [← map_opRow h (fun o => o), List.map_id']
  rw [hid, tab_succ, List.headD_cons, Nat.add_zero]

theorem shuffleLane_opRow (col : Nat) :
    shuffleLane aux ((opRow ops row).map (·.1)) ((opRow ops row).map (·.2.1)) col =
      (let q := itemN 8 aux col
       if 128 ≤ q then 0 else if q < 64 then (ops.getD (64 * row + q) (0, 0, 0)).1 else (ops.getD (64 * row + (q - 64)) (0, 0, 0)).2.1) := by
  simp only [shuffleLane]
  split
  · rfl
  · split
    next hq => exact getD_sa_opRow h hq
    next => exact getD_sb_opRow h (by omega)

variable {col : Nat} (hc : col < 64)
include hc

theorem getD_rowOp_vsplat :
    (rowOp (.vsplat v) r aux row (opRow ops row)).getD col (0, 0) = ((ops.getD (64 * row + aux % 64) (0, 0, 0)).1, 0) := by
  rw [rowOp, getD_replicate_of_lt hc, getD_sa_opRow h (Nat.mod_lt aux (by omega))]

theorem getD_rowOp_vrbc :
    (rowOp (.vrbc v) r aux row (opRow ops row)).getD col (0, 0) = ((ops.getD (64 * row + aux % 64) (0, 0, 0)).1, 0) :=
  getD_rowOp_vsplat h v r aux hc

theorem getD_rowOp_vrrot :
    (rowOp (.vrrot v) r aux row (opRow ops row)).getD col (0, 0) = ((ops.getD (64 * row + (col + aux) % 64) (0, 0, 0)).1, 0) := by
  rw [rowOp, getD_tab _ _ hc, getD_sa_opRow h (Nat.mod_lt _ (by omega))]

theorem getD_rowOp_vexpq :
    (rowOp (.vexpq v) r aux row (opRow ops row)).getD col (0, 0) =
      vexpqElem v.f (ops.getD (64 * row + col) (0, 0, 0)).1 (ops.getD (64 * row) (0, 0, 0)).2.1 := by
  rw [rowOp, headD_opRow h, List.map_map, map_opRow h, getD_tab _ _ hc, Function.comp_apply]

theorem getD_rowOp_vshuf :
    (rowOp (.vshuf v) r aux row (opRow ops row)).getD col (0, 0) =
      (let q := itemN 8 aux col
       if 128 ≤ q then 0 else if q < 64 then (ops.getD (64 * row + q) (0, 0, 0)).1 else (ops.getD (64 * row + (q - 64)) (0, 0, 0)).2.1, 0) := by
  rw [rowOp, getD_tab _ _ hc, shuffleLane_opRow h]

theorem getD_rowOp_vrred :
    (rowOp (.vrred v) r aux row (opRow ops row)).getD col (0, 0) =
      treeReduce (combine v r) 6 (tab 64 (fun j => ((ops.getD (64 * row + j) (0, 0, 0)).1, 0))) := by
  rw [rowOp, getD_replicate_of_lt hc, List.map_map, map_opRow h]
  rfl

omit hc in
theorem getD_rowOp_vrscan_zero :
    (rowOp (.vrscan v) r aux row (opRow ops row)).getD 0 (0, 0) = ((ops.getD (64 * row) (0, 0, 0)).1, 0) := by
  have h0 : 0 < ((opRow ops row).map (·.1)).length := by rw [List.length_map, length_opRow h]; omega
  rw [rowOp, getD_scanRow_zero _ h0, getD_sa_opRow h (by omega), Nat.add_zero]

theorem getD_rowOp_vrscan_pos (h0 : 0 < col) :
    (rowOp (.vrscan v) r aux row (opRow ops row)).getD col (0, 0) =
      combine v r (((rowOp (.vrscan v) r aux row (opRow ops row)).getD (col - 1) (0, 0)).1, 0) ((ops.getD (64 * row + col) (0, 0, 0)).1, 0) := by
  obtain ⟨n, rfl⟩ := Nat.exists_eq_add_of_lt h0
  have hn : 0 + n + 1 < ((opRow ops row).map (·.1)).length := by rwa [List.length_map, length_opRow h]
  rw [← getD_sa_opRow h hc]
  exact getD_scanRow_succ _ none hn

end

theorem getD_rowOp_viota (v : VArgs) (r : Rnd) (aux row : Nat) (l : List (Nat × Nat × Nat)) {col : Nat} (hc : col < 64) :
    (rowOp (.viota v) r aux row l).getD col (0, 0) = (wrapN v.f.width (aux + v.imm.toInt * (64 * row + col : Nat)), 0) := by
  rw [rowOp, getD_tab _ _ hc]

section
variable {ops : List (Nat × Nat × Nat)} {k e : Nat} (hl : ops.length = 64 * k) (he : e < 64 * k) (v : VArgs) (r : Rnd) (aux : Nat)
include hl he

theorem getD_vecResults_vexpq :
    (vecResults (.vexpq v) r aux ops).getD e (0, 0) =
      vexpqElem v.f (ops.getD e (0, 0, 0)).1 (ops.getD (64 * (e / 64)) (0, 0, 0)).2.1 := by
  rw [getD_vecResults_row hl he r aux rfl, getD_rowOp_vexpq (row_whole hl he) v r aux (Nat.mod_lt e (by omega)), Nat.div_add_mod]

theorem getD_vecResults_vrscan_zero (h0 : e % 64 = 0) :
    (vecResults (.vrscan v) r aux ops).getD e (0, 0) = ((ops.getD e (0, 0, 0)).1, 0) := by
  rw [getD_vecResults_row hl he r aux rfl, h0, getD_rowOp_vrscan_zero (row_whole hl he), Nat.mul_div_cancel' (Nat.dvd_of_mod_eq_zero h0)]

theorem getD_vecResults_vrscan_pos (h0 : 0 < e % 64) :
    (vecResults (.vrscan v) r aux ops).getD e (0, 0) =
      combine v r (((vecResults (.vrscan v) r aux ops).getD (e - 1) (0, 0)).1, 0) ((ops.getD e (0, 0, 0)).1, 0) := by
  have hrow : (e - 1) / 64 = e / 64 := by omega
  have hcol : (e - 1) % 64 = e % 64 - 1 := by omega
  rw [getD_vecResults_row hl he r aux rfl, getD_vecResults_row hl (show e - 1 < 64 * k by omega) r aux rfl, hrow, hcol,
    getD_rowOp_vrscan_pos (row_whole hl he) v r aux (Nat.mod_lt e (by omega)) h0, Nat.div_add_mod]

end

/-! ### The results along columns -/

section
variable {ops : List (Nat × Nat × Nat)} {e : Nat} (he : e < 1024) (v : VArgs) (r : Rnd) (aux : Nat)

theorem getD_sa (ops : List (Nat × Nat × Nat)) (j : Nat) : (ops.map (·.1)).getD j 0 = (ops.getD j (0, 0, 0)).1 := by
  rw [List.getD_eq_getElem?_getD, List.getD_eq_getElem?_getD, List.getElem?_map]
  cases ops[j]? <;> rfl

include he

theorem getD_vecResults_vcrot :
    (vecResults (.vcrot v) r aux ops).getD e (0, 0) = ((ops.getD (64 * ((e / 64 + aux) % 16) + e % 64) (0, 0, 0)).1, 0) := by
  rw [vecResults, colOp, getD_tab _ _ he, getD_sa, Nat.mul_comm]

theorem getD_vecResults_vcbc :
    (vecResults (.vcbc v) r aux ops).getD e (0, 0) = ((ops.getD (64 * (aux % 16) + e % 64) (0, 0, 0)).1, 0) := by
  rw [vecResults, colOp, getD_tab _ _ he, getD_sa, Nat.mul_comm]

theorem getD_vecResults_vcred :
    (vecResults (.vcred v) r aux ops).getD e (0, 0) =
      treeReduce (combine v r) 4 (tab 16 (fun j => ((ops.getD (64 * j + e % 64) (0, 0, 0)).1, 0))) := by
  have hrows (row : List Res) : (List.replicate 16 row).flatten = (List.range 16).flatMap (fun _ => row) := rfl
  rw [vecResults, colOp, hrows, getD_flatMap_range (fun _ _ => length_tab 64 _) _ he, getD_tab _ _ (Nat.mod_lt e (by omega))]
  simp only [getD_sa]

end

end Sys2Proof
end

section
namespace Sys2Proof.Machine
open Sys2Proof Sys2Proof.Stmt

/-- Settles O35: a result that does not go along columns comes from its element's own row, and of most operations from its element alone. -/
theorem vectorResultValues : Obligations.VectorResultValues := by
  intro v r aux k ops e hl he
  have elem {i : Instr} (hi : i.elementWise = true) := getD_vecResults_elementWise hl he r aux hi
  have row {i : Instr} (hi : i.columnWise = false) := getD_vecResults_row hl he r aux hi
  have whole : 64 * (e / 64) + 64 ≤ ops.length := row_whole hl he
  have hcol : e % 64 < 64 := Nat.mod_lt e (by omega)
  refine ⟨fun hf => ?_, fun hf => ?_, elem rfl, elem rfl, elem rfl, elem rfl, elem rfl, elem rfl, elem rfl, elem rfl, elem rfl, elem rfl,
    elem rfl, elem rfl, elem rfl, elem rfl, elem rfl, elem rfl, elem rfl, elem rfl, elem rfl,
    (row rfl).trans (getD_rowOp_vsplat whole v r aux hcol), (row rfl).trans (getD_rowOp_vrbc whole v r aux hcol),
    (row rfl).trans (getD_rowOp_vrrot whole v r aux hcol), (row rfl).trans (getD_rowOp_viota v r aux _ _ hcol),
    getD_vecResults_vexpq hl he v r aux, (row rfl).trans (getD_rowOp_vshuf whole v r aux hcol),
    (row rfl).trans (getD_rowOp_vrred whole v r aux hcol), getD_vecResults_vrscan_zero hl he v r aux,
    getD_vecResults_vrscan_pos hl he v r aux, fun hk => ?_, elem rfl, elem rfl, elem rfl, elem rfl, elem rfl, elem rfl, elem rfl,
    elem rfl, elem rfl⟩
  case refine_1 =>
    exact ⟨(elem rfl).trans (if_pos hf), (elem rfl).trans (if_pos hf), (elem rfl).trans (if_pos hf), (elem rfl).trans (if_pos hf),
      (elem rfl).trans (if_pos hf), (elem rfl).trans (if_pos hf), (elem rfl).trans (if_pos hf),
      (elem rfl).trans (minMaxElem_int_min hf _ _), (elem rfl).trans (minMaxElem_int_max hf _ _)⟩
  case refine_2 =>
    have hn : ¬ (fmtOf v.fmt.toNat).isInt = true := by rw [hf]; exact Bool.false_ne_true
    exact ⟨(elem rfl).trans (if_neg hn), (elem rfl).trans (if_neg hn), (elem rfl).trans (if_neg hn), (elem rfl).trans (if_neg hn),
      (elem rfl).trans (if_neg hn), (elem rfl).trans (if_neg hn), (elem rfl).trans (if_neg hn), (elem rfl).trans (if_neg hn),
      (elem rfl).trans (if_neg hn)⟩
  case refine_3 =>
    have h1024 : e < 1024 := by omega
    exact ⟨getD_vecResults_vcrot h1024 v r aux, getD_vecResults_vcbc h1024 v r aux, getD_vecResults_vcred h1024 v r aux⟩

end Sys2Proof.Machine
end
